-- ==== Sys2Proof/Word.lean ====
section
/-!
DEFINITION. Word.lean: the word types of the S9 (00 R5: multi-byte values are little-endian) and the
names of its agents. Only types and their plainest constructions stand here.
-/
namespace Sys2Proof

/-- A byte of any memory of the package. -/
abbrev Byte := BitVec 8
/-- A 64-bit word: a control register, a pointer base, a time. -/
abbrev W64 := BitVec 64
/-- The accumulator: 128 bytes (10 R221). -/
abbrev Strip := BitVec 1024
/-- A lane mask (10 R221: 128 bits). -/
abbrev Mask := BitVec 128

/-- A logical core, numbered panel × 256 + logical core index (02 R65: 0–191 user, 192–195 s0–s3). -/
abbrev CoreId := Nat
/-- A strand, numbered core × 16 + strand number (06 R139: 0 lead, 1–10 helpers). -/
abbrev StrandId := Nat

/-- The panel of a core. -/
def CoreId.panel (c : CoreId) : Nat := c / 256
/-- The logical index of a core within its panel. -/
def CoreId.index (c : CoreId) : Nat := c % 256
/-- The core of a strand. -/
def StrandId.core (k : StrandId) : CoreId := k / 16
/-- The number of a strand within its core. -/
def StrandId.num (k : StrandId) : Nat := k % 16
/-- The core with this panel and logical index. -/
def mkCore (panel index : Nat) : CoreId := panel * 256 + index
/-- The strand with this core and number. -/
def mkStrand (core : CoreId) (n : Nat) : StrandId := core * 16 + n

end Sys2Proof
end

