-- ==== Sys2Proof/Config.lean ====
section
/-!
DEFINITION. Config.lean: what the spec leaves open or to the implementation. Every constant here is opaque: nothing
in Lean can evaluate it, so every claim holds whatever its value. Each names its entry in notes/assumptions.
-/
namespace Sys2Proof.Config

/-- Nanoseconds of device time between step n and step n + 1 (01 R16 says only that time is monotonic; log 5). -/
opaque elapsed : Nat → Nat
/-- Whether an L1 has let a resident line go by the time of step n: which lines are resident is open (07 R391; log 6). -/
opaque dropsLine : Nat → Bool
/-- The sectors a line of this content takes in the home cache, less one: the encoder is not given (02 R61; log 7). -/
opaque compressedSectors : BitVec 1024 → BitVec 2
/-- A fresh free value: the n-th value the spec leaves open (log 8). -/
opaque freeValue : Nat → W64
/-- The promotion quota of a strand that no tenant owns: the spec gives quotas to tenants only (02 R47; log 8). -/
opaque firmwareQuota : Nat
/-- SHA-384 of a byte string (01 R19; log 9). -/
opaque sha384 : List Byte → BitVec 384
/-- ECDSA verification on the 384-bit brainpool curve: public key, message digest, signature (01 R19; log 9). -/
opaque ecdsaValid : List Byte → BitVec 384 → List Byte → Bool
/-- ECDSA signature under the identity key: key, digest, nonce count (01 R23; log 9). -/
opaque ecdsaSign : BitVec 384 → BitVec 384 → Nat → List Byte
/-- The SHA-384 digest of the Vilgus root public key, held by the boot ROM (01 R19; log 9). -/
opaque rootKeyDigest : BitVec 384
/-- The identity key that the power-up state of the dedicated SRAM in the boot of step n and this helper data give; none
when the corrected value fails its check (01 R21; log 9). -/
opaque identityKey : Nat → List Byte → Option (BitVec 384)
/-- The identity public key of an identity key, 96 bytes (01 R23; log 9). -/
opaque identityPublic : BitVec 384 → List Byte
/-- Where the k-th image of the flash lies: offset and length; the flash layout is not given (01 R14, R19; log 9). -/
opaque imagePlace : List Byte → Nat → Option (Nat × Nat)
/-- The fields of an image header: type, version, public key, signature, digest (01 R19 names them, not their places;
log 9). -/
opaque imageHeader : List Byte → Option (BitVec 32 × BitVec 32 × List Byte × List Byte × BitVec 384)
/-- The certificate of the same flash that endorses a signer key, if there is one: the root key and its signature
(01 R19; log 9). -/
opaque certificate : List Byte → List Byte → Option (List Byte × List Byte)
/-- The helper data of the flash (01 R21; log 9). -/
opaque helperData : List Byte → List Byte
/-- The minimum version in a configuration record (01 R22; log 9). -/
opaque minVersion : List Byte → BitVec 32
/-- The retired physical cores of a panel in a configuration record (01 R14; log 9). -/
opaque retiredCores : List Byte → Nat → List Nat
/-- The lowest VOLT code that the configuration record gives for a frequency in MHz (05 R123; log 10). -/
opaque minVolt : Nat → Nat
/-- The service core's own self-check passes (01 R24 reason 9; log 9). -/
opaque serviceSelfTest : Nat → Bool
/-- The flash can be read, at step n in this stage of boot (01 R24 reason 8; log 9). -/
opaque flashReadable : Nat → Nat → Bool
/-- Entry r of the default region table in a configuration record (01 R14, 02 R53; log 3). -/
opaque recordRegion : List Byte → Nat → BitVec 32
/-- The device physical address at which a supervisor core's copy of the image is placed (01 R26; log 16). -/
opaque imageAddress : CoreId → Nat
/-- The stack and slice that home a line of another package: member and physical address (log 12). -/
opaque remoteHome : Nat → Nat → Fin 12 × Fin 32
/-- The value of a correctly rounded function where the model's search for enough precision ends undecided: function
number, operand bits, format and mode (12 R283; log 11). -/
opaque undecided : Nat → Nat → Nat → Nat
/-- The 4 KiB blocks of the flash, which ERASE erases one by one, less one (01 R40; log 9). -/
opaque flashBlocks : Nat
/-- Bytes of the flash: a whole number of blocks, at least one (01 R40; log 9). -/
def flashSize : Nat := 4096 * (flashBlocks + 1)
/-- What an erased byte of the flash reads as (01 R40; log 9). -/
opaque erasedByte : Byte
/-- The outcome of a flash operation started at step n: 0 done, other: failed (01 R40; log 9). -/
opaque flashFails : Nat → Bool
/-- The result of the self-test of a physical core of a panel, in the discovery that step n starts: 0 no reply, 1 passed,
other: failed (01 R25; log 16). -/
opaque selfTest : Nat → Nat → Nat → Nat
/-- The image reaches a supervisor core within the delivery that step n starts (01 R26; log 16). -/
opaque imageArrives : Nat → CoreId → Bool
/-- The service firmware that step n starts reports ready (01 R20; log 16). -/
opaque firmwareReports : Nat → Bool
/-- The entry address of the supervisor image on a core (01 R26; log 16). -/
opaque supervisorEntry : CoreId → W64
/-- Which of the supervisor domains 1–3 a supervisor core starts in, less one (01 R26, 07 R165; log 16). -/
opaque supervisorDomain : CoreId → Fin 3
/-- The input buffer of a class of a link is full at step n: link, class; who empties it is not given (01 R32; log 17). -/
opaque classFull : Nat → Nat → Nat → Bool
/-- The back-off hint of a link refusal at step n, less 64 (01 R32: 64–4,096; log 17). -/
opaque refusalHint : Nat → Fin 4033
/-- Whether item i was in the flits of a link that a shutdown at step n has lost: which link carries what is not given
(01 R38; log 17). -/
opaque lostItem : Nat → Nat → Bool
/-- The payload of the flit of a request or a packet to another package that leaves at step n: its layout is not given (01 R29;
log 17). -/
opaque flitPayload : Nat → List Byte
/-- Firmware's choices at step n when it creates a tenant: where it starts to look for a free domain identifier, the
panel of an object left to it, where it starts to look for a free object (03 R98, 15 R356; log 18). -/
opaque domainChoice : Nat → Nat
/-- The panel of an object (log 18). -/
opaque panelChoice : Nat → Nat → Fin 12
/-- Where the search for an object starts (log 18). -/
opaque objectChoice : Nat → Nat → Nat
/-- Where the search for a place of a tenant's law table starts, in units of 8 KiB (13 R302; log 18). -/
opaque lawTable : Nat → Nat
/-- The physical address that another package's tables give a virtual address; none where they give none (14 R335;
log 8). -/
opaque remoteTranslate : Nat → Nat → Option Nat
/-- The 4-byte count of a summary packet whose total does not fit it (13 R307; log 8). -/
opaque summaryCount : Nat → BitVec 32
/-- A measured or estimated value of the outside at step n (temperatures, power; 01 R18, 04 R110; log 4). -/
opaque measured : Nat → Nat

end Sys2Proof.Config
end

