-- ==== Sys2Proof/Syntax.lean ====
section
/-!
DEFINITION. Syntax.lean: the ONE inductive of everything the S9 does (spec/opcode_table.json): one constructor
per row. Instructions (10 R225–R228) carry their encoding's fields and stand first; illegalInstruction is an encoding
that is no instruction; the other rows are the part's events, which have no encoding and no fields in the table: the
agent and the item an event concerns are an EventArg that the step takes from the agenda.
-/
namespace Sys2Proof

/-- Fields of format H (10 R225). -/
structure HOps where
  /-- ch: the operand is channel C⟨p⟩ -/
  ch : Bool
  /-- guard mask K0–K3 -/
  k : BitVec 2
  /-- fmt2: 0 f64, 1 f32, 2 bf16, 3 i32 -/
  fmt : BitVec 2
  /-- post-increment P⟨p⟩ -/
  inc : Bool
  /-- pointer, or channel -/
  p : BitVec 3
  deriving DecidableEq, Repr

/-- Guard, format and operand fields of format V (10 R227). -/
structure LaneOps where
  /-- guard mask -/
  k : BitVec 2
  /-- 0 i64, 1 i32, 2 i16, 3 i8, 4 f64, 5 f32, 6 bf16, 7 f16 -/
  fmt : BitVec 3
  /-- operand b is channel C⟨pb⟩ -/
  cb : Bool
  /-- post-increment P⟨pb⟩ -/
  ib : Bool
  /-- pointer, or channel, of operand b -/
  pb : BitVec 3
  /-- post-increment P⟨pa⟩ -/
  ia : Bool
  /-- pointer of operand a (the skein of VCVT TSK) -/
  pa : BitVec 3
  deriving DecidableEq, Repr

/-- Fields of format M (10 R227) below fn7. -/
structure MemOps where
  /-- lookahead -/
  la : BitVec 4
  /-- guard mask -/
  k : BitVec 2
  /-- lane format -/
  fmt : BitVec 3
  /-- ord: 0 plain, 1 acquire, 2 release, 3 acquire-release (zero where the row has no ord field) -/
  ord : BitVec 2
  /-- access size 2^sz bytes -/
  sz : BitVec 3
  /-- post-increment P⟨p⟩ -/
  ip : Bool
  /-- address pointer -/
  p : BitVec 3
  deriving DecidableEq, Repr

/-- A flit as it arrives (01 R29): 8-byte header, 240 bytes of payload, 8-byte CRC. -/
structure Flit where
  /-- the header word, laid out in R29 -/
  header : W64
  /-- the payload bytes -/
  payload : List Byte
  /-- the CRC-64 field -/
  crc : W64
  deriving DecidableEq, Repr

/-- The kinds of storage of 05 R131. -/
inductive StoreKind where
  /-- register files, control registers, reply registers -/
  | regfile
  /-- scratchpad -/
  | scratchpad
  /-- L1 -/
  | l1
  /-- operand memory -/
  | operand
  /-- mailbox -/
  | mailbox
  /-- network-interface buffers -/
  | netbuf
  /-- acc tiles -/
  | acc
  /-- home cache, hook registers, sector metadata -/
  | home
  /-- DRAM -/
  | dram
  deriving DecidableEq, Repr

/-- One error an ECC check finds (05 R131). -/
structure StoreErr where
  /-- the storage concerned -/
  kind : StoreKind
  /-- the core whose storage it is (panel × 256 + index); the stack for home and dram -/
  owner : Nat
  /-- the 32-byte sector concerned (of an L1: of virtual addresses; of home and dram: of media keys; of a mailbox: 4 × slot +
  sector of the payload; of a network interface: 4 × packet of those that the core is sending + sector), or the tile cell, or
  the register -/
  addr : Nat
  /-- the error was corrected -/
  corrected : Bool
  deriving DecidableEq, Repr

/-- A faulting party of the pager (07 R175). -/
inductive Party where
  /-- a strand -/
  | strand (k : StrandId)
  /-- the matrix unit of a core -/
  | matrix (core : CoreId)
  /-- a packet at an edge engine, by its identifier -/
  | packet (panel engine id : Nat)
  /-- a copy queue whose slot read faulted -/
  | slot (tenant queue : Nat)
  deriving DecidableEq, Repr

/-- The operands of an event: the agent and the item it concerns. An event reads the fields its meaning names and
no other; the step takes them from the agenda. -/
structure EventArg where
  /-- a panel 0–11 (also: a compute die) -/
  panel : Nat := 0
  /-- a core, panel × 256 + logical index -/
  core : CoreId := 0
  /-- a strand -/
  strand : StrandId := 0
  /-- a stack 0–11 -/
  stack : Nat := 0
  /-- a link 0–17 -/
  link : Nat := 0
  /-- a tenant 0–31 -/
  tenant : Nat := 0
  /-- the identifier of an item in flight -/
  id : Nat := 0
  /-- first number of the event (its docstring in Machine says which) -/
  a : Nat := 0
  /-- second number -/
  b : Nat := 0
  /-- third number -/
  c : Nat := 0
  /-- a word written, or a reply word -/
  v : W64 := 0
  /-- a pass or an approval -/
  ok : Bool := false
  /-- a flit that arrives -/
  flit : Flit := { header := 0, payload := [], crc := 0 }
  /-- the errors an ECC check finds -/
  errs : List StoreErr := []
  /-- the party a pager reply answers -/
  party : Party := .strand 0
  deriving DecidableEq, Repr

/-- Everything the part does: one constructor per row of spec/opcode_table.json. -/
inductive Instr where
  /-- H_LDA (R285). 16-bit form: A := the operand strip, as vari.mov. -/
  | hLda (o : HOps)
  /-- H_STA (R285). 16-bit form: store the enabled lanes of A through P<p>. -/
  | hSta (k : BitVec 2) (fmt : BitVec 2) (inc : Bool) (p : BitVec 3)
  /-- H_ADD (R285). 16-bit form of vari.add. -/
  | hAdd (o : HOps)
  /-- H_SUB (R285). 16-bit form of vari.sub. -/
  | hSub (o : HOps)
  /-- H_RSUB (R285). 16-bit form of vari.rsub. -/
  | hRsub (o : HOps)
  /-- H_MUL (R285). 16-bit form of vari.mul. -/
  | hMul (o : HOps)
  /-- H_FMA (R285). 16-bit form of vari.fmal. -/
  | hFma (o : HOps)
  /-- H_MIN (R285). 16-bit form of vari.min. -/
  | hMin (o : HOps)
  /-- H_MAX (R285). 16-bit form of vari.max. -/
  | hMax (o : HOps)
  /-- H_AND (R285). 16-bit form of vbit.and. -/
  | hAnd (o : HOps)
  /-- H_OR (R285). 16-bit form of vbit.or. -/
  | hOr (o : HOps)
  /-- H_XOR (R285). 16-bit form of vbit.xor. -/
  | hXor (o : HOps)
  /-- H_SHL (R286). 16-bit form of vbit.shl.i32. -/
  | hShl (ch : Bool) (k : BitVec 2) (inc : Bool) (p : BitVec 3)
  /-- H_SHRA (R286). 16-bit form of vbit.shra.i32. -/
  | hShra (ch : Bool) (k : BitVec 2) (inc : Bool) (p : BitVec 3)
  /-- H_ACC (R285). 16-bit form of vred.acc. -/
  | hAcc (o : HOps)
  /-- H_CMPLT (R285). 16-bit form of vcmp.lt into K1. -/
  | hCmplt (o : HOps)
  /-- ILLEGAL_INSTRUCTION (R229). An encoding that is not an instruction raises ILLEGAL_INSTR precisely at issue. -/
  | illegalInstruction (parcels : BitVec 32)
  /-- VARI_ADD (R274). A[i] := A[i] + b[i]. -/
  | variAdd (sat : Bool) (rm : BitVec 2) (o : LaneOps)
  /-- VARI_SUB (R274). A[i] := A[i] - b[i]. -/
  | variSub (sat : Bool) (rm : BitVec 2) (o : LaneOps)
  /-- VARI_RSUB (R274). A[i] := b[i] - A[i]. -/
  | variRsub (sat : Bool) (rm : BitVec 2) (o : LaneOps)
  /-- VARI_MUL (R274). A[i] := A[i] x b[i]. -/
  | variMul (sat : Bool) (rm : BitVec 2) (o : LaneOps)
  /-- VARI_FMA (R274). A[i] := A[i] + a[i] x b[i], rounded once. -/
  | variFma (sat : Bool) (rm : BitVec 2) (o : LaneOps)
  /-- VARI_FMS (R274). A[i] := A[i] - a[i] x b[i], rounded once. -/
  | variFms (sat : Bool) (rm : BitVec 2) (o : LaneOps)
  /-- VARI_FMAL (R274). A[i] := A[i] + b[i] x A[0], rounded once. -/
  | variFmal (sat : Bool) (rm : BitVec 2) (o : LaneOps)
  /-- VARI_MIN (R274). Lanewise minimumNumber, or signed minimum. -/
  | variMin (sat : Bool) (rm : BitVec 2) (o : LaneOps)
  /-- VARI_MAX (R274). Lanewise maximumNumber, or signed maximum. -/
  | variMax (sat : Bool) (rm : BitVec 2) (o : LaneOps)
  /-- VARI_DIV (R274). A[i] := A[i] / b[i], float only. -/
  | variDiv (sat : Bool) (rm : BitVec 2) (o : LaneOps)
  /-- VARI_SQRT (R274). A[i] := the square root of b[i], float only. -/
  | variSqrt (sat : Bool) (rm : BitVec 2) (o : LaneOps)
  /-- VARI_ABS (R274). A[i] := |A[i]|. -/
  | variAbs (sat : Bool) (rm : BitVec 2) (o : LaneOps)
  /-- VARI_NEG (R274). A[i] := -A[i]. -/
  | variNeg (sat : Bool) (rm : BitVec 2) (o : LaneOps)
  /-- VARI_MOV (R274). A[i] := b[i], bits unchanged. -/
  | variMov (sat : Bool) (rm : BitVec 2) (o : LaneOps)
  /-- VARI_MULH (R274). A[i] := the high half of the signed product, integer only. -/
  | variMulh (sat : Bool) (rm : BitVec 2) (o : LaneOps)
  /-- VARI_CPYSGN (R274). A[i] := the magnitude of A[i] with the sign of b[i]. -/
  | variCpysgn (sat : Bool) (rm : BitVec 2) (o : LaneOps)
  /-- VBIT_AND (R276). Lanewise AND. -/
  | vbitAnd (o : LaneOps)
  /-- VBIT_OR (R276). Lanewise OR. -/
  | vbitOr (o : LaneOps)
  /-- VBIT_XOR (R276). Lanewise XOR. -/
  | vbitXor (o : LaneOps)
  /-- VBIT_ANDN (R276). Lanewise A AND NOT b. -/
  | vbitAndn (o : LaneOps)
  /-- VBIT_SHL (R276). Lanewise shift left. -/
  | vbitShl (o : LaneOps)
  /-- VBIT_SHR (R276). Lanewise logical shift right. -/
  | vbitShr (o : LaneOps)
  /-- VBIT_SHRA (R276). Lanewise arithmetic shift right. -/
  | vbitShra (o : LaneOps)
  /-- VBIT_ROL (R276). Lanewise rotate left. -/
  | vbitRol (o : LaneOps)
  /-- VBIT_NOT (R276). Lanewise NOT. -/
  | vbitNot (o : LaneOps)
  /-- VBIT_POPC (R276). Lanewise population count. -/
  | vbitPopc (o : LaneOps)
  /-- VBIT_CLZ (R276). Lanewise count of leading zeros. -/
  | vbitClz (o : LaneOps)
  /-- VCMP_EQ (R277). K<kd>[i] := A[i] = b[i]. -/
  | vcmpEq (kd : BitVec 2) (o : LaneOps)
  /-- VCMP_NE (R277). K<kd>[i] := A[i] != b[i]. -/
  | vcmpNe (kd : BitVec 2) (o : LaneOps)
  /-- VCMP_LT (R277). K<kd>[i] := A[i] < b[i]. -/
  | vcmpLt (kd : BitVec 2) (o : LaneOps)
  /-- VCMP_LE (R277). K<kd>[i] := A[i] <= b[i]. -/
  | vcmpLe (kd : BitVec 2) (o : LaneOps)
  /-- VCMP_GT (R277). K<kd>[i] := A[i] > b[i]. -/
  | vcmpGt (kd : BitVec 2) (o : LaneOps)
  /-- VCMP_GE (R277). K<kd>[i] := A[i] >= b[i]. -/
  | vcmpGe (kd : BitVec 2) (o : LaneOps)
  /-- VCMP_UN (R277). K<kd>[i] := either input is a NaN. -/
  | vcmpUn (kd : BitVec 2) (o : LaneOps)
  /-- VCMP_LTU (R277). Unsigned less-than into K<kd>. -/
  | vcmpLtu (kd : BitVec 2) (o : LaneOps)
  /-- VCMP_LEU (R277). Unsigned less-or-equal into K<kd>. -/
  | vcmpLeu (kd : BitVec 2) (o : LaneOps)
  /-- VCMP_GTU (R277). Unsigned greater-than into K<kd>. -/
  | vcmpGtu (kd : BitVec 2) (o : LaneOps)
  /-- VCMP_GEU (R277). Unsigned greater-or-equal into K<kd>. -/
  | vcmpGeu (kd : BitVec 2) (o : LaneOps)
  /-- VCVT_TI64 (R279). Convert the lanes of A to i64. -/
  | vcvtTi64 (sat : Bool) (rm : BitVec 2) (o : LaneOps)
  /-- VCVT_TI32 (R279). Convert the lanes of A to i32. -/
  | vcvtTi32 (sat : Bool) (rm : BitVec 2) (o : LaneOps)
  /-- VCVT_TI16 (R279). Convert the lanes of A to i16. -/
  | vcvtTi16 (sat : Bool) (rm : BitVec 2) (o : LaneOps)
  /-- VCVT_TI8 (R279). Convert the lanes of A to i8. -/
  | vcvtTi8 (sat : Bool) (rm : BitVec 2) (o : LaneOps)
  /-- VCVT_TF64 (R279). Convert the lanes of A to f64. -/
  | vcvtTf64 (sat : Bool) (rm : BitVec 2) (o : LaneOps)
  /-- VCVT_TF32 (R279). Convert the lanes of A to f32. -/
  | vcvtTf32 (sat : Bool) (rm : BitVec 2) (o : LaneOps)
  /-- VCVT_TBF16 (R279). Convert the lanes of A to bf16. -/
  | vcvtTbf16 (sat : Bool) (rm : BitVec 2) (o : LaneOps)
  /-- VCVT_TF16 (R279). Convert the lanes of A to f16. -/
  | vcvtTf16 (sat : Bool) (rm : BitVec 2) (o : LaneOps)
  /-- VCVT_TE4M3 (R279). Convert the lanes of A to E4M3. -/
  | vcvtTe4m3 (sat : Bool) (rm : BitVec 2) (o : LaneOps)
  /-- VCVT_TE5M2 (R279). Convert the lanes of A to E5M2. -/
  | vcvtTe5m2 (sat : Bool) (rm : BitVec 2) (o : LaneOps)
  /-- VCVT_TE2M1 (R279). Convert the lanes of A to E2M1. -/
  | vcvtTe2m1 (sat : Bool) (rm : BitVec 2) (o : LaneOps)
  /-- VCVT_TSK (R280). Convert the lanes of A into the format of skein pa, applying its bound policy. -/
  | vcvtTsk (sat : Bool) (rm : BitVec 2) (o : LaneOps)
  /-- VCVT_FE4M3 (R279). Widen packed E4M3 elements into fmt. -/
  | vcvtFe4m3 (o : LaneOps)
  /-- VCVT_FE5M2 (R279). Widen packed E5M2 elements into fmt. -/
  | vcvtFe5m2 (o : LaneOps)
  /-- VCVT_FE2M1 (R279). Widen packed E2M1 elements into fmt. -/
  | vcvtFe2m1 (o : LaneOps)
  /-- VPERM_BCAST (R281). Each enabled lane := A[0]. -/
  | vpermBcast (o : LaneOps)
  /-- VPERM_PERM (R281). Each enabled lane := A[b[i] mod n]. -/
  | vpermPerm (o : LaneOps)
  /-- VPERM_SLDN (R281). Slide lanes down by the count of P<pa>, filling from b. -/
  | vpermSldn (o : LaneOps)
  /-- VPERM_SLUP (R281). Slide lanes up by the count of P<pa>, filling from b. -/
  | vpermSlup (o : LaneOps)
  /-- VPERM_ZIPLO (R281). Interleave the low halves of A and b. -/
  | vpermZiplo (o : LaneOps)
  /-- VPERM_ZIPHI (R281). Interleave the high halves of A and b. -/
  | vpermZiphi (o : LaneOps)
  /-- VPERM_UNZEV (R281). Gather the even lanes of A and b. -/
  | vpermUnzev (o : LaneOps)
  /-- VPERM_UNZOD (R281). Gather the odd lanes of A and b. -/
  | vpermUnzod (o : LaneOps)
  /-- VPERM_COMPR (R281). Compress the enabled lanes of b into the low lanes of A and zero the rest. -/
  | vpermCompr (o : LaneOps)
  /-- VPERM_EXPND (R281). Expand successive lanes of b into the enabled lanes of A. -/
  | vpermExpnd (o : LaneOps)
  /-- VPERM_REV (R281). Reverse the lanes of A. -/
  | vpermRev (o : LaneOps)
  /-- VPERM_IOTA (R281). Each enabled lane := its index, in fmt. -/
  | vpermIota (o : LaneOps)
  /-- VRED_SUM (R282). Lane 0 := the fixed tree sum of the lanes of A. -/
  | vredSum (sat : Bool) (rm : BitVec 2) (o : LaneOps)
  /-- VRED_MIN (R282). Lane 0 := the tree minimum of the lanes of A. -/
  | vredMin (o : LaneOps)
  /-- VRED_MAX (R282). Lane 0 := the tree maximum of the lanes of A. -/
  | vredMax (o : LaneOps)
  /-- VRED_ACC (R282). Lane 0 := A[0] + the tree sum of b. -/
  | vredAcc (sat : Bool) (rm : BitVec 2) (o : LaneOps)
  /-- VRED_DOT (R282). Lane 0 := A[0] + the tree sum of the products a[i] x b[i]. -/
  | vredDot (sat : Bool) (rm : BitVec 2) (o : LaneOps)
  /-- VRED_AND (R282). Lane 0 := the tree AND of the lanes of A. -/
  | vredAnd (o : LaneOps)
  /-- VRED_OR (R282). Lane 0 := the tree OR of the lanes of A. -/
  | vredOr (o : LaneOps)
  /-- VRED_XOR (R282). Lane 0 := the tree XOR of the lanes of A. -/
  | vredXor (o : LaneOps)
  /-- VFUN_EXP2 (R283). Correctly rounded 2^x. -/
  | vfunExp2 (rm : BitVec 2) (o : LaneOps)
  /-- VFUN_LOG2 (R283). Correctly rounded log2 x. -/
  | vfunLog2 (rm : BitVec 2) (o : LaneOps)
  /-- VFUN_SINT (R283). Correctly rounded sin(2 pi x). -/
  | vfunSint (rm : BitVec 2) (o : LaneOps)
  /-- VFUN_COST (R283). Correctly rounded cos(2 pi x). -/
  | vfunCost (rm : BitVec 2) (o : LaneOps)
  /-- VFUN_TANH (R283). Correctly rounded tanh x. -/
  | vfunTanh (rm : BitVec 2) (o : LaneOps)
  /-- VFUN_RECIP (R283). Correctly rounded 1/x. -/
  | vfunRecip (rm : BitVec 2) (o : LaneOps)
  /-- VFUN_RSQRT (R283). Correctly rounded 1/sqrt(x). -/
  | vfunRsqrt (rm : BitVec 2) (o : LaneOps)
  /-- RAND_RAW (R284). Philox4x32-10 on each group of A with the key at P<p>, giving raw i32 words. -/
  | randRaw (la : BitVec 4) (k : BitVec 2) (inc : Bool) (p : BitVec 3)
  /-- RAND_UNIF (R284). Philox4x32-10 giving uniform f32 values in [0, 1). -/
  | randUnif (la : BitVec 4) (k : BitVec 2) (inc : Bool) (p : BitVec 3)
  /-- LDA (R289). Merge load of the covered lanes, plain or acquire. -/
  | lda (o : MemOps)
  /-- LDA_BC (R289). Broadcast load of one element into every enabled lane. -/
  | ldaBc (o : MemOps)
  /-- LDA_ZX (R289). Load the covered lanes and zero bytes s to 127 of A. -/
  | ldaZx (o : MemOps)
  /-- STA (R289). Store the covered enabled lanes, plain or release; a store to the command window pushes a matrix command. -/
  | sta (o : MemOps)
  /-- GATH_GATHER (R290). Load each enabled lane from base + index x size. -/
  | gathGather (o : MemOps)
  /-- GATH_SCATTER (R290). Store the low half of A at the addresses indexed by its high half, in ascending order. -/
  | gathScatter (o : MemOps)
  /-- LINE_MOVE (R291). Copy L bytes as though through a temporary. -/
  | lineMove (la : BitVec 4) (n : BitVec 6) (sz : BitVec 3) (s : Bool) (q : BitVec 3) (d : Bool) (p : BitVec 3)
  /-- LINE_FILL (R291). Fill L bytes with the 8 bytes of A lane 0. -/
  | lineFill (la : BitVec 4) (n : BitVec 6) (sz : BitVec 3) (d : Bool) (p : BitVec 3)
  /-- SHIP (R293). Run a hook routine on the line at P<p>, with optional ordering, and return its values in A. -/
  | ship (la : BitVec 4) (ord : BitVec 2) (rm : BitVec 2) (n : BitVec 8) (p : BitVec 3)
  /-- TICK_LD (R298). Issue a ticket fetch and put the ticket in lane j. -/
  | tickLd (la : BitVec 4) (j : BitVec 4) (sz : BitVec 2) (p : BitVec 3)
  /-- TICK_RD (R299). Redeem the ticket in lane j into own scratchpad. -/
  | tickRd (la : BitVec 4) (j : BitVec 4) (p : BitVec 3)
  /-- TICK_DROP (R300). Free the ticket's entry. -/
  | tickDrop (la : BitVec 4) (j : BitVec 4)
  /-- TICK_Q (R300). Report the state of the ticket in lane j. -/
  | tickQ (la : BitVec 4) (j : BitVec 4)
  /-- LAWO_RD (R308). Advance a law word to STIME and report it. -/
  | lawoRd (la : BitVec 4) (inc : Bool) (p : BitVec 3)
  /-- LAWO_ADD (R308). Advance a law word and add x to its value. -/
  | lawoAdd (la : BitVec 4) (inc : Bool) (p : BitVec 3)
  /-- LAWO_SET (R308). Set a law word's law, value and time without advancing. -/
  | lawoSet (la : BitVec 4) (inc : Bool) (p : BitVec 3)
  /-- LAWO_SWAP (R308). Advance and report a law word, then write a new value. -/
  | lawoSwap (la : BitVec 4) (inc : Bool) (p : BitVec 3)
  /-- LAWO_LAW (R308). Advance and report a law word, then change its law index. -/
  | lawoLaw (la : BitVec 4) (inc : Bool) (p : BitVec 3)
  /-- LAWO_CHK (R308). Advance and report a law word, then clear its count and crossed flag. -/
  | lawoChk (la : BitVec 4) (inc : Bool) (p : BitVec 3)
  /-- PATN_SET (R310). Load pattern slot w from scratchpad, checked. -/
  | patnSet (la : BitVec 4) (w : BitVec 2) (p : BitVec 3)
  /-- PATN_GET (R310). Store pattern slot w to scratchpad. -/
  | patnGet (la : BitVec 4) (w : BitVec 2) (p : BitVec 3)
  /-- PATN_CLR (R310). Clear the kind of pattern slot w. -/
  | patnClr (la : BitVec 4) (w : BitVec 2)
  /-- CACH_PF2 (R313). Prefetch lines into the home cache, optionally signalling an object afterwards. -/
  | cachPf2 (la : BitVec 4) (n : Bool) (p : BitVec 3)
  /-- CACH_FLUSH (R313). Write back owned words of the range. -/
  | cachFlush (la : BitVec 4) (p : BitVec 3)
  /-- CACH_INV (R313). Write back the range, then drop its lines from the L1. -/
  | cachInv (la : BitVec 4) (p : BitVec 3)
  /-- CACH_SINV (R313). Invalidate every non-owned word of the L1. -/
  | cachSinv (la : BitVec 4)
  /-- CACH_FLUSHALL (R313). Write back every owned word of the L1. -/
  | cachFlushall (la : BitVec 4)
  /-- DRAM_PROMOTE (R47). Promote the far row holding the address and report the outcome. -/
  | dramPromote (la : BitVec 4) (p : BitVec 3)
  /-- DRAM_PIN (R49). Pin the row's promotion slot. -/
  | dramPin (la : BitVec 4) (p : BitVec 3)
  /-- DRAM_UNPIN (R49). Unpin the row's promotion slot. -/
  | dramUnpin (la : BitVec 4) (p : BitVec 3)
  /-- DRAM_DEMOTE (R49). Evict the row's promotion slot. -/
  | dramDemote (la : BitVec 4) (p : BitVec 3)
  /-- FENC (R189). Wait for the X-path accesses, then let the Y paths proceed. -/
  | fenc (y : BitVec 5) (x : BitVec 7) (sz : BitVec 2)
  /-- PSET (R242). Write one 16-bit chunk of a pointer field, keeping, zero-extending or sign-extending above. -/
  | pset (n : BitVec 18) (s : BitVec 2) (fld : BitVec 2) (p : BitVec 3)
  /-- PADD_IMM (R243). Add a signed immediate to a pointer field. -/
  | paddImm (n : BitVec 18) (fld : BitVec 2) (p : BitVec 3)
  /-- PADD_SH12 (R243). Add a signed immediate times 4,096 to a pointer field. -/
  | paddSh12 (n : BitVec 18) (fld : BitVec 2) (p : BitVec 3)
  /-- PADD_STEP (R243). Advance a pointer by j strides and lower its count by j. -/
  | paddStep (n : BitVec 18) (p : BitVec 3)
  /-- PMOV_MOV (R244). P<d> := P<s>. -/
  | pmovMov (la : BitVec 4) (s : BitVec 3) (d : BitVec 3)
  /-- PMOV_TOA (R244). Copy a pointer image into a 128-bit group of A. -/
  | pmovToa (la : BitVec 4) (g : BitVec 3) (p : BitVec 3)
  /-- PMOV_FROMA (R244). Load a pointer from a 128-bit group of A. -/
  | pmovFroma (la : BitVec 4) (g : BitVec 3) (p : BitVec 3)
  /-- PMOV_GSV (R245). Save pointers Pm to Pn to memory. -/
  | pmovGsv (la : BitVec 4) (c : Bool) (n : BitVec 3) (m : BitVec 3) (q : BitVec 3)
  /-- PMOV_GLD (R245). Load pointers Pm to Pn from memory. -/
  | pmovGld (la : BitVec 4) (c : Bool) (n : BitVec 3) (m : BitVec 3) (q : BitVec 3)
  /-- PMOV_ZERO (R244). Zero a pointer. -/
  | pmovZero (la : BitVec 4) (p : BitVec 3)
  /-- PMOV_GETLINK (R244). P<p>.base := LINK. -/
  | pmovGetlink (la : BitVec 4) (p : BitVec 3)
  /-- PMOV_SETLINK (R244). LINK := P<p>.base. -/
  | pmovSetlink (la : BitVec 4) (p : BitVec 3)
  /-- AIMM_BCAST (R246). Every lane of A := the constant. -/
  | aimmBcast (n : BitVec 18) (fld : BitVec 2)
  /-- AIMM_LANE0 (R246). Lane 0 := the constant. -/
  | aimmLane0 (n : BitVec 18) (fld : BitVec 2)
  /-- AIMM_ONLY0 (R246). A := 0, then lane 0 := the constant. -/
  | aimmOnly0 (n : BitVec 18) (fld : BitVec 2)
  /-- AIMM_ADD (R246). Add the integer constant to every lane. -/
  | aimmAdd (n : BitVec 18) (fld : Bool)
  /-- KOPS_AND (R247). kd := ka AND kb. -/
  | kopsAnd (d : BitVec 2) (a : BitVec 2) (b : BitVec 2)
  /-- KOPS_OR (R247). kd := ka OR kb. -/
  | kopsOr (d : BitVec 2) (a : BitVec 2) (b : BitVec 2)
  /-- KOPS_XOR (R247). kd := ka XOR kb. -/
  | kopsXor (d : BitVec 2) (a : BitVec 2) (b : BitVec 2)
  /-- KOPS_ANDN (R247). kd := ka AND NOT kb. -/
  | kopsAndn (d : BitVec 2) (a : BitVec 2) (b : BitVec 2)
  /-- KOPS_NOT (R247). kd := NOT ka. -/
  | kopsNot (d : BitVec 2) (a : BitVec 2)
  /-- KOPS_MOV (R247). kd := ka. -/
  | kopsMov (d : BitVec 2) (a : BitVec 2)
  /-- KOPS_SET (R247). kd := all ones. -/
  | kopsSet (d : BitVec 2)
  /-- KOPS_CLR (R247). kd := 0. -/
  | kopsClr (d : BitVec 2)
  /-- KOPS_FIRST (R247). kd := the lowest set bit of ka. -/
  | kopsFirst (d : BitVec 2) (a : BitVec 2)
  /-- KOPS_FROMA (R247). kd := A bits [127:0]. -/
  | kopsFroma (d : BitVec 2)
  /-- KOPS_TOA (R247). A bits [127:0] := ka. -/
  | kopsToa (a : BitVec 2)
  /-- KOPS_PREFIX (R247). kd := the low min(count, 128) bits set. -/
  | kopsPrefix (d : BitVec 2) (p : BitVec 3)
  /-- KOPS_POPC (R247). A lane 0 := the population count of ka. -/
  | kopsPopc (a : BitVec 2)
  /-- BR (R232). Unconditional branch. -/
  | br (n : BitVec 19)
  /-- BR_CALL (R248). Branch and set LINK. -/
  | brCall (n : BitVec 19)
  /-- BR_CNZ (R232). Branch if the count of P<sel> is non-zero. -/
  | brCnz (n : BitVec 19) (s : BitVec 3)
  /-- BR_CZ (R232). Branch if the count of P<sel> is zero. -/
  | brCz (n : BitVec 19) (s : BitVec 3)
  /-- BR_KANY (R232). Branch if any bit of K<sel> is set. -/
  | brKany (n : BitVec 19) (s : BitVec 2)
  /-- BR_KNONE (R232). Branch if no bit of K<sel> is set. -/
  | brKnone (n : BitVec 19) (s : BitVec 2)
  /-- BR_NEG (R232). Branch if A lane 0 is negative. -/
  | brNeg (n : BitVec 19)
  /-- BR_EQZ (R232). Branch if A lane 0 is zero. -/
  | brEqz (n : BitVec 19)
  /-- BR_NEZ (R232). Branch if A lane 0 is non-zero. -/
  | brNez (n : BitVec 19)
  /-- JUMP_JR (R249). PC := P<p>.base. -/
  | jumpJr (p : BitVec 3)
  /-- JUMP_JALR (R249). LINK := next address; PC := P<p>.base. -/
  | jumpJalr (p : BitVec 3)
  /-- JUMP_RET (R249). PC := LINK. -/
  | jumpRet
  /-- JUMP_JA (R249). PC := A lane 0. -/
  | jumpJa
  /-- JUMP_JIDX (R249). PC := P<p>.base + 2 x imm12. -/
  | jumpJidx (inc : BitVec 12) (p : BitVec 3)
  /-- TIME_RDST (R250). A lane 0 := STIME. -/
  | timeRdst
  /-- TIME_RDDEV (R250). A lane 0 := device time. -/
  | timeRddev
  /-- TIME_SETST (R250). STIME := A lane 0. -/
  | timeSetst
  /-- TIME_ADDST (R250). STIME := STIME + A lane 0. -/
  | timeAddst
  /-- TIME_SYNCST (R250). STIME := max(STIME, device time). -/
  | timeSyncst
  /-- CSR_RD (R255). A lane 0 := the control register. -/
  | csrRd (la : BitVec 4) (rm : BitVec 12)
  /-- CSR_WR (R255). Control register := A lane 0, discarded with CSRIGN if the value is invalid. -/
  | csrWr (la : BitVec 4) (rm : BitVec 12)
  /-- CSR_SETB (R255). Control register := register OR A lane 0. -/
  | csrSetb (la : BitVec 4) (rm : BitVec 12)
  /-- CSR_CLRB (R255). Control register := register AND NOT A lane 0. -/
  | csrClrb (la : BitVec 4) (rm : BitVec 12)
  /-- CSR_SKLD (R219). Load skein s from a checked 64-byte image in own scratchpad. -/
  | csrSkld (la : BitVec 4) (s : BitVec 6) (p : BitVec 3)
  /-- CSR_SKST (R257). Store skein s as a sealed image in own scratchpad. -/
  | csrSkst (la : BitVec 4) (s : BitVec 6) (p : BitVec 3)
  /-- TRAP_SWT (R261). Raise a SOFTWARE trap. -/
  | trapSwt (n : BitVec 12)
  /-- TRAP_BRK (R261). Raise a BREAK trap. -/
  | trapBrk (n : BitVec 12)
  /-- TRAP_RET (R262). Return from a trap handler to XRESUME, or deliver the next pending fault. -/
  | trapRet
  /-- TRAP_RETX (R262). Re-execute the trapping instruction alone, then return. -/
  | trapRetx
  /-- TRAP_HALT (R261). In a privileged domain, halt the core as by CORECMD HALT. -/
  | trapHalt
  /-- PROT_FLUSH (R264). Invalidate every PLB entry and count for the flush epoch. -/
  | protFlush
  /-- PROT_INVD (R264). Invalidate the PLB entries of one domain. -/
  | protInvd (d : BitVec 12)
  /-- PROT_INVA (R264). Invalidate the PLB entries covering an address. -/
  | protInva (p : BitVec 3)
  /-- PROT_RDE (R264). Read a PLB entry into A lanes 0 and 1. -/
  | protRde (e : BitVec 6)
  /-- PROT_WRE (R264). Write a PLB entry from A lanes 0 and 1. -/
  | protWre (e : BitVec 6)
  /-- CTXS_STOP (R265). Stop and hold a target strand. -/
  | ctxsStop (n : BitVec 4)
  /-- CTXS_SAVE (R266). Save a free or stopped strand to a 768-byte record. -/
  | ctxsSave (n : BitVec 4) (p : BitVec 3)
  /-- CTXS_LOAD (R265). Load a free strand from a record, leaving it stopped and held. -/
  | ctxsLoad (n : BitVec 4) (p : BitVec 3)
  /-- CTXS_GO (R265). Release a held strand. -/
  | ctxsGo (n : BitVec 4)
  /-- NOPS_NOP (R267). No operation. -/
  | nopsNop
  /-- NOPS_PAUSE (R267). Issue nothing for imm12 cycles. -/
  | nopsPause (n : BitVec 12)
  /-- STRN_START (R318). The lead strand starts the lowest free helper, waiting for one if needed. -/
  | strnStart (p : BitVec 3)
  /-- STRN_END (R319). The strand ends, with release. -/
  | strnEnd
  /-- STRN_JOINW (R319). Wait for a START-started helper to end, and acquire. -/
  | strnJoinw (h : BitVec 4)
  /-- STRN_YIELD (R319). Yield the issue port to other ready strands. -/
  | strnYield
  /-- STRN_STAT (R319). A lane 0 := the live strands, the handler strands and the own strand number. -/
  | strnStat
  /-- STRN_BINDH (R320). Bind a tag to a handler entry with a quota. -/
  | strnBindh (t : BitVec 8) (p : BitVec 3)
  /-- SYNC_ARRIVE (R156). Barrier arrival for phase q, with release. -/
  | syncArrive (q : BitVec 1) (p : BitVec 3)
  /-- SYNC_WAIT (R321). Wait until the barrier phase differs from q, and acquire. -/
  | syncWait (q : BitVec 1) (p : BitVec 3)
  /-- SYNC_ARRWT (R321). Arrive, then wait, for phase q. -/
  | syncArrwt (q : BitVec 1) (p : BitVec 3)
  /-- SYNC_SIGNAL (R157). Add the count to a counter, with release. -/
  | syncSignal (p : BitVec 3)
  /-- SYNC_CWAIT (R321). Wait until the counter is at least the count, and acquire. -/
  | syncCwait (p : BitVec 3)
  /-- SYNC_CREAD (R321). A lane 0 := the counter value. -/
  | syncCread (p : BitVec 3)
  /-- SYNC_CSET (R321). Set the counter and wake satisfied waiters. -/
  | syncCset (p : BitVec 3)
  /-- RING_AWAIT (R322). Wait for a filled ring slot, and return its address. -/
  | ringAwait (p : BitVec 3)
  /-- RING_RELEASE (R322). RD := RD + 1, or fault RING_EMPTY. -/
  | ringRelease (p : BitVec 3)
  /-- RING_POST (R322). WR := WR + 1 and wake awaiters, or fault RING_FULL. -/
  | ringPost (p : BitVec 3)
  /-- RING_SLOT (R322). A lane 0 := the address of slot WR; lane 1 := WR - RD. -/
  | ringSlot (p : BitVec 3)
  /-- MSG_SEND (R324). Give a packet with the first len bytes of A to the network interface, with release. -/
  | msgSend (la : BitVec 4) (n : BitVec 5) (p : BitVec 3)
  /-- MSG_POP (R325). Pop the oldest packet of a channel into A, waiting if it is empty. -/
  | msgPop (la : BitVec 4) (c : BitVec 3)
  /-- MSG_PEEK (R325). Read the header of a channel's head packet without waiting. -/
  | msgPeek (la : BitVec 4) (c : BitVec 3)
  /-- MSG_BINDC (R326). Bind a tag to a channel with a quota. -/
  | msgBindc (la : BitVec 4) (c : BitVec 3) (t : BitVec 8) (p : BitVec 3)
  /-- MSG_UNBIND (R326). Free a tag's binding. -/
  | msgUnbind (la : BitVec 4) (t : BitVec 8)
  /-- MSG_QUOTA (R326). Set a binding's quota. -/
  | msgQuota (la : BitVec 4) (t : BitVec 8) (p : BitVec 3)
  /-- COPY_APPEND (R329). Claim a copy-queue slot, write the sealed packet, and publish it. -/
  | copyAppend (la : BitVec 4) (p : BitVec 3)
  /-- COPY_EXPECT (R330). Arm a landing zone in own scratchpad. -/
  | copyExpect (la : BitVec 4) (p : BitVec 3)
  /-- COPY_WAIT (R331). Wait until earlier appended packets have completed and armed zones have retired. -/
  | copyWait (la : BitVec 4)
  /-- MTRX_SCLAIM (R339). Set the lowest clear bit of a claim word and return its number. -/
  | mtrxSclaim (p : BitVec 3)
  /-- MTRX_SREL (R339). Clear bit s of a claim word. -/
  | mtrxSrel (s : BitVec 5) (p : BitVec 3)
  /-- MTRX_WAIT (R340). Wait until the matrix queue is empty and idle, or fault if the unit is stopped. -/
  | mtrxWait
  /-- MTRX_STAT (R339). A lane 0 := MSTAT, optionally clearing FLAGS and BOUND. -/
  | mtrxStat (c : Bool)
  /-- MTRX_SEAL (R339). Write the CRC-32 of A bytes 0-59 into bytes 60-63. -/
  | mtrxSeal
  /-- MTRX_CONT (R340). Clear a stop and resume, optionally discarding queued commands. -/
  | mtrxCont (d : Bool)
  /-- BOOT_START (R20). The boot ROM starts on the service core and runs stages 1 to 4: it derives the identity key, verifies the configuration record and images, and floods discovery. -/
  | bootStart
  /-- SELFTEST_REPLY (R25). A core's self-test result reaches the corner core. -/
  | selftestReply
  /-- SELFTEST_REPLY_TIMEOUT (R25). A core that has not replied within 2 ms of the flood counts as failed. -/
  | selftestReplyTimeout
  /-- LOGICAL_MAP_BUILD (R25). Once all results are in, the corner core assigns logical identities in ascending physical index, or stops boot with PANEL_SHORT. -/
  | logicalMapBuild
  /-- DISCOVERY_TIMEOUT (R25). No result from a die within 10 ms stops boot with reason DISCOVERY_TIMEOUT. -/
  | discoveryTimeout
  /-- SUPERVISOR_IMAGE_DELIVERED (R26). A supervisor core's copy of the image is complete, and the core starts; a PANELS bit is set when both panels of its pair are done. -/
  | supervisorImageDelivered
  /-- DELIVERY_TIMEOUT (R24). A panel's supervisor cores have not all received the image within 10 ms, and boot stops with DELIVERY. -/
  | deliveryTimeout
  /-- FW_READY (R20). The service firmware reports ready; stage 6 completes and BOOTST.READY is set. -/
  | fwReady
  /-- FW_START_TIMEOUT (R24). The service firmware has not reported ready within 100 ms, and boot stops with FW_START. -/
  | fwStartTimeout
  /-- POWER_LIMIT_CLAMP (R18). Package power above 4,800 W averaged over 1 ms clamps every core clock to 0.6 GHz. -/
  | powerLimitClamp
  /-- POWER_LIMIT_RELEASE (R18). The power average falls below 4,560 W and the clamp is lifted. -/
  | powerLimitRelease
  /-- THERMAL_CLAMP (R18). A compute-die junction at or above 100 °C clamps that die's core clocks to 0.6 GHz. -/
  | thermalClamp
  /-- THERMAL_CLAMP_RELEASE (R18). The junction falls below 95 °C and the die's clamp is lifted. -/
  | thermalClampRelease
  /-- PACKAGE_SHUTDOWN (R18). A die junction at or above 110 °C stops all clocks, and the host link drops. -/
  | packageShutdown
  /-- SELF_REFRESH_ENTER (R75). A stack's critical-temperature signal asserts: its DRAM enters self-refresh, DRAM requests queue, and THERMAL entry events are posted. -/
  | selfRefreshEnter
  /-- SELF_REFRESH_EXIT (R76). The signal deasserts: queued requests are served in arrival order, and THERMAL exit events are posted. -/
  | selfRefreshExit
  /-- LINK_FLIT_RECEIVE (R32). A data flit arrives and passes its CRC; it is placed in its class buffer, or refused with a back-off hint if that buffer is full. -/
  | linkFlitReceive
  /-- LINK_IDLE_FLIT (R30). A KIND 0 flit carries an ACK, and the sender frees acknowledged flits from its replay buffer. -/
  | linkIdleFlit
  /-- LINK_RETRY_REQUEST (R31). A retry request arrives and the sender resends in order from the named SEQ, retraining after eight failures of one flit. -/
  | linkRetryRequest
  /-- LINK_REFUSAL (R33). A refusal arrives; the refused flit and the later flits of its class move to the hold queue. -/
  | linkRefusal
  /-- HOLD_QUEUE_RESEND (R33). A refusal's back-off hint elapses; the held flits of the class are resent in order under fresh SEQs, the first with RSM = 1. -/
  | holdQueueResend
  /-- TIME_SYNC_FLIT (R34). A KIND 4 flit synchronises device time between members of one domain. -/
  | timeSyncFlit
  /-- LINK_MANAGEMENT_FLIT (R30). A KIND 5 flit carries link training or lane status. -/
  | linkManagementFlit
  /-- LINK_RETRAIN_DONE (R31). Retraining ends; if it failed, the link is marked down, traffic is rerouted, and a LINK event is posted. -/
  | linkRetrainDone
  /-- LINKEN_WRITE (R38). The host writes LINKEN; set bits enable links and cleared bits start a shutdown of those links. -/
  | linkenWrite
  /-- LINKEN_CLEAR_EFFECT (R38). The replay buffer of a disabled link is acknowledged, or 100 µs pass; unacknowledged flits are lost and their senders get error replies. -/
  | linkenClearEffect
  /-- RCMD_ERASE (R40). The recovery command ERASE erases the 4 KiB flash block at RADDR. -/
  | rcmdErase
  /-- RCMD_WRITE (R40). The recovery command WRITE writes RLEN bytes of RBUF to flash at RADDR. -/
  | rcmdWrite
  /-- RCMD_READ (R40). The recovery command READ reads RLEN bytes of flash at RADDR into RBUF. -/
  | rcmdRead
  /-- RCMD_REBOOT (R40). The recovery command REBOOT restarts the boot ROM at stage 1. -/
  | rcmdReboot
  /-- RCMD_INVALID (R40). Any other code, or a command written while RSTAT is busy, sets RSTAT to error 4. -/
  | rcmdInvalid
  /-- RECOVERY_COMMAND_DONE (R40). A flash operation completes, and RSTAT becomes done or error. -/
  | recoveryCommandDone
  /-- REGISTER_WRITE (R41). A write to a host or control-space register that has no behaviour of its own stores the value, or leaves the register unchanged if the value is reserved. -/
  | registerWrite
  /-- PAGE_SHOOTDOWN (R173). A write of PGINV starts a page shootdown over PGCNT pages; PGINV then reads busy. -/
  | pageShootdown
  /-- PAGE_SHOOTDOWN_DONE (R173). Every slice and core has dropped its matching entries and old-translation accesses have completed, and PGINV clears BUSY. -/
  | pageShootdownDone
  /-- FLUSH_EPOCH_START (R168). A write of 1 to FLUSHEP records each identifier's current generation and starts a flush epoch. -/
  | flushEpochStart
  /-- LAW_TABLE_SHOOTDOWN (R303). A write of LAWINV makes law units and hooks drop the named law-table entries of a tenant. -/
  | lawTableShootdown
  /-- LAW_SHOOTDOWN_DONE (R303). Law operations that used the old entries have completed, and LAWINV clears BUSY. -/
  | lawShootdownDone
  /-- REGION_WRITE (R52). A write of a region-table entry is broadcast to all twelve translation slices and completes once every copy holds it. -/
  | regionWrite
  /-- REGION_SWAP_DRAIN (R58). Both regions of a swap are in STATE swapping; their home slices finish accepted requests, recall owners, write back dirty lines and demote slots. -/
  | regionSwapDrain
  /-- REGION_SWAP_EXCHANGE (R58). The hooks finish exchanging the two regions line by line, with poison and stamps. -/
  | regionSwapExchange
  /-- CHANNEL_RETIRE_MOVE (R60). Hooks move every line from its C = 32 place to its C = 31 place, the live count becomes 31, and the retired channel's tickets are dropped. -/
  | channelRetireMove
  /-- REGION_COUNTER_HALVE (R57). Each 1 ms, every region and stack access counter is halved. -/
  | regionCounterHalve
  /-- PAGE_COUNTER_HALVE (R174). Each 1 ms, every count of the page-access counter table is halved. -/
  | pageCounterHalve
  /-- PATROL_SCRUB (R131). The patrol scrub visits SRAM every 100 ms and DRAM every 24 h, correcting or poisoning as it goes. -/
  | patrolScrub
  /-- STORAGE_ERROR (R131). An ECC check finds an error; a corrected error is logged, and an uncorrectable one poisons the sector or kills the core. -/
  | storageError
  /-- HOME_ACCESS (R183). A load, store or registration request reaches its home slice and is served from the home cache or DRAM. -/
  | homeAccess
  /-- OWNER_RECALL_ACK (R64). The last owner acknowledges a recall, and the waiting eviction, routine or swap step proceeds. -/
  | ownerRecallAck
  /-- PROMOTION_FILL_DONE (R45). A 70 ns promotion copy or copy-back ends; the slot leaves FILLING, and the requests waiting on it are served. -/
  | promotionFillDone
  /-- FABRIC_RELEASE_REQUEST (R77). The fabric manager asks to release an expander extent, and the release sequence of firmware and stack 11 begins. -/
  | fabricReleaseRequest
  /-- FORCED_RELEASE (R77). The fabric manager forces a release before acknowledgement; the extent's dirty lines are poisoned and not written. -/
  | forcedRelease
  /-- HOOK_REQUEST (R68). A shipped or law request reaches a hook; it is queued, or refused with a 256-cycle hint if the queue is full. -/
  | hookRequest
  /-- HOOK_ADD_I64 (R294). Routine 0 adds h0 to the 64-bit target, wrapping, and returns the old value. -/
  | hookAddI64
  /-- HOOK_AND_I64 (R294). Routine 1 ANDs h0 into the target. -/
  | hookAndI64
  /-- HOOK_OR_I64 (R294). Routine 2 ORs h0 into the target. -/
  | hookOrI64
  /-- HOOK_XOR_I64 (R294). Routine 3 XORs h0 into the target. -/
  | hookXorI64
  /-- HOOK_MIN_I64 (R294). Routine 4 takes the signed minimum of the target and h0. -/
  | hookMinI64
  /-- HOOK_MAX_I64 (R294). Routine 5 takes the signed maximum of the target and h0. -/
  | hookMaxI64
  /-- HOOK_MINU_I64 (R294). Routine 6 takes the unsigned minimum of the target and h0. -/
  | hookMinuI64
  /-- HOOK_MAXU_I64 (R294). Routine 7 takes the unsigned maximum of the target and h0. -/
  | hookMaxuI64
  /-- HOOK_ADDSAT_I64 (R294). Routine 8 adds with saturation and reports SATURATED when it clamps. -/
  | hookAddsatI64
  /-- HOOK_ADD_I32 (R294). Routine 9 adds the low 32 bits of h0 to a 32-bit target. -/
  | hookAddI32
  /-- HOOK_MIN_I32 (R294). Routine 10 takes the signed 32-bit minimum. -/
  | hookMinI32
  /-- HOOK_MAX_I32 (R294). Routine 11 takes the signed 32-bit maximum. -/
  | hookMaxI32
  /-- HOOK_FADD_RNE (R294). Routine 12 adds h0 to an f64 target, rounding to nearest even. -/
  | hookFaddRne
  /-- HOOK_FADD_RM (R294). Routine 13 adds h0 to an f64 target under the requested rounding mode. -/
  | hookFaddRm
  /-- HOOK_FMIN (R294). Routine 14 takes the IEEE minimumNumber of the target and h0. -/
  | hookFmin
  /-- HOOK_FMAX (R294). Routine 15 takes the IEEE maximumNumber of the target and h0. -/
  | hookFmax
  /-- HOOK_SWAP_I64 (R294). Routine 16 swaps h0 into the 64-bit target. -/
  | hookSwapI64
  /-- HOOK_SWAP_I32 (R294). Routine 17 swaps the low 32 bits of h0 into the target. -/
  | hookSwapI32
  /-- HOOK_CAS_I64 (R294). Routine 18 writes h1 if the target equals h0, and otherwise reports MISMATCH. -/
  | hookCasI64
  /-- HOOK_CAS_I32 (R294). Routine 19 is the 32-bit compare-and-swap. -/
  | hookCasI32
  /-- HOOK_QUEUE_CLAIM (R87). Routine 20 claims the next queue slot, or refuses while the ring or the publish window is full. -/
  | hookQueueClaim
  /-- HOOK_QUEUE_PUBLISH (R88). Routine 21 marks slot s published, advances PUB over the contiguous run, and notifies the swift. -/
  | hookQueuePublish
  /-- HOOK_HASH_PROBE (R295). Routine 22 finds or inserts a key among the line's eight hash entries. -/
  | hookHashProbe
  /-- HOOK_HASH_FIND (R295). Routine 23 finds a key among the line's eight hash entries. -/
  | hookHashFind
  /-- HOOK_LAW_RD (R308). Routine 24 advances a law word in device memory and reports it. -/
  | hookLawRd
  /-- HOOK_LAW_ADD (R308). Routine 25 advances a law word and adds to it. -/
  | hookLawAdd
  /-- HOOK_LAW_SET (R308). Routine 26 sets a law word without advancing it. -/
  | hookLawSet
  /-- HOOK_LAW_SWAP (R308). Routine 27 advances a law word, reports it, and writes a new value. -/
  | hookLawSwap
  /-- HOOK_LAW_LAW (R308). Routine 28 advances a law word and changes its law index. -/
  | hookLawLaw
  /-- HOOK_LAW_CHK (R308). Routine 29 advances a law word, reports it, and clears its count and crossed flag. -/
  | hookLawChk
  /-- HOOK_LOADABLE_ROUTINE (R72). A loadable routine, 48 to 255, runs its micro-ops and ends in REPLY, REFUSE or an abort. -/
  | hookLoadableRoutine
  /-- HOST_WINDOW_READ (R83). A host read through a tenant window is translated and checked as a strand load, or completes with Unsupported Request and an ACCESS_FAULT event. -/
  | hostWindowRead
  /-- HOST_WINDOW_WRITE (R83). A host write through a tenant window is performed at the home slice as a CXL.mem write. -/
  | hostWindowWrite
  /-- SHIPGO (R85). A SHIPGO write starts the named routine at SHIPADDR after the host's earlier writes; it is discarded while busy, or sets ERROR if its fields are bad. -/
  | shipgo
  /-- HOST_SHIP_REPLY (R85). The hook's reply to a host ship arrives; SHIPREP and the SHIPVAL registers are filled, and busy clears. -/
  | hostShipReply
  /-- EVCONS_WRITE (R95). The host advances EVCONS; buffered events are written first, then an EVENTS_LOST record if events were dropped. -/
  | evconsWrite
  /-- TENANT_CREATE (R98). The mailbox command creates a tenant with its quotas, windows and declarations, and replies with its domain and generation. -/
  | tenantCreate
  /-- TENANT_DESTROY (R97). The mailbox command drains and stops the tenant's queues, discards its tasks, tickets and promotions, and frees its domain. -/
  | tenantDestroy
  /-- QUEUE_CREATE (R98). The mailbox command writes a live queue header and binds it to a swift or an edge engine. -/
  | queueCreate
  /-- QUEUE_DESTROY (R97). The mailbox command sets a queue draining; claims fail, published records are still dispensed, and the queue then goes off. -/
  | queueDestroy
  /-- ROUTINE_LOAD (R73). The mailbox command installs a loadable hook routine after validating it, or replies ROUTINE_INVALID. -/
  | routineLoad
  /-- ROUTINE_REPLACE (R98). Once no request for an old routine is running in any hook, its replacement takes effect. -/
  | routineReplace
  /-- ATTEST (R99). The mailbox command writes a signed attestation report into a host buffer. -/
  | attest
  /-- MAILBOX_INVALID (R98). A mailbox request with a bad command, byte or field is answered invalid, and nothing is done. -/
  | mailboxInvalid
  /-- SWIFT_READ_SLOT (R102). A slot enters the window of a queue; the swift reads and checks it, and consumes it at once if it fails. -/
  | swiftReadSlot
  /-- RECORD_READY (R103). A watched counter reaches WAIT, and the pending record becomes ready, latched. -/
  | recordReady
  /-- RECORD_AGE (R105). 100 µs after it was first passed over, a ready record ages. -/
  | recordAge
  /-- DISPATCH (R104). With an idle eligible core available, the swift chooses one ready record and one core, at most once per four router cycles. -/
  | dispatch
  /-- TASK_START (R107). The lead strand starts at ENTRY with the record's arguments and STIME, after cleansing if needed; the record is consumed. -/
  | taskStart
  /-- TRACE_DIVERGE (R114). The entry at TRPOS is unmatched within TDIVTO; the core is held, DIVERGED is set, and TRACE_DIVERGE is posted. -/
  | traceDiverge
  /-- TASK_COMPLETE (R108). The lead strand and helpers have ended and the matrix unit is idle; the running entry is freed, TASK_DONE is posted if asked for, and the core becomes IDLE. -/
  | taskComplete
  /-- PATCH_STATUS_CHANGE (R110). A patch becomes or stops being hot or over budget, and starts or stops withholding dispatch. -/
  | patchStatusChange
  /-- TOKEN_BUCKET_CYCLE (R111). Each router cycle a bucket refills and issues at most one waiting operation. -/
  | tokenBucketCycle
  /-- RAMP_MICROSECOND (R112). At each microsecond the ramp limiter recomputes its rise bucket and the floor for dummy slots. -/
  | rampMicrosecond
  /-- CORECMD_NONE (R115). CORECMD code 0 has no effect. -/
  | corecmdNone
  /-- CORECMD_PREEMPT (R117). PREEMPT stops the core's strands, drains windows and landings, and begins saving; STATE reads STOPPING. -/
  | corecmdPreempt
  /-- PREEMPT_SAVE_DONE (R117). The save area is written in layout order and STATE becomes IDLE. -/
  | preemptSaveDone
  /-- CORECMD_RESUME (R118). RESUME checks the save CRC, cleanses if needed, restores the state and parked zones, and makes the strands live. -/
  | corecmdResume
  /-- CORECMD_HALT (R119). HALT stops strands at boundaries and drains windows; the core becomes HALTED. -/
  | corecmdHalt
  /-- CORECMD_HALT_QUIET (R119). HALT_QUIET also waits for landings, freezes the scoreboard and refuses packets; the core becomes QUIET. -/
  | corecmdHaltQuiet
  /-- CORECMD_UNHALT (R115). UNHALT returns a HALTED or QUIET core to its state before the halt. -/
  | corecmdUnhalt
  /-- CORECMD_REJECT (R115). A reserved command, or a command in a state that does not accept it, sets ERR. -/
  | corecmdReject
  /-- ZONE_TIMEOUT (R120). After ZTO µs an armed zone is parked under PREEMPT, or stays armed under HALT_QUIET. -/
  | zoneTimeout
  /-- TRMODE_WRITE (R114). A TRMODE write selects off, record or replay and clears DIVERGED. -/
  | trmodeWrite
  /-- SWERR_READ (R101). A read of SWERR returns it and clears it. -/
  | swerrRead
  /-- SRCCLK_WRITE (R122). A write sets the source frequencies, or is rejected and sets SWERR; a changed source starts settling. -/
  | srcclkWrite
  /-- SOURCE_SETTLED (R122). 20 µs after a change, the source has settled, and waiting hops may proceed. -/
  | sourceSettled
  /-- PWRCTL_WRITE (R124). An accepted PWRCTL write starts a voltage ramp and a hop in the safe order; a bad write sets ERR. -/
  | pwrctlWrite
  /-- PWR_SEQUENCE_DONE (R124). The ramp and hop end, HOPPING clears, and any pending write starts. -/
  | pwrSequenceDone
  /-- PWRSTAT_READ (R123). A read of PWRSTAT returns it and clears DCOUNT. -/
  | pwrstatRead
  /-- DROOP_TRIP (R125). Supply below target minus DTHR stops the core clock; suspect instructions are discarded and re-issued. -/
  | droopTrip
  /-- DROOP_RECOVER (R125). Supply rises above target minus DTHR/2, and the clock resumes. -/
  | droopRecover
  /-- KILL_SCRUB (R135). The supervisor scrubs a killed core and reruns self-test. -/
  | killScrub
  /-- SCRUB_DONE (R135). The scrub ends; the core returns IDLE or is retired and remapped to a spare, and its task is re-dispensed with TASK_RESTARTED. -/
  | scrubDone
  /-- PACKET_ARRIVAL (R150). A packet reaches its core and is sealed, refused, rejected UNBOUND or FOREIGN, or accepted into a mailbox slot. -/
  | packetArrival
  /-- PACKET_REPLY (R324). The destination's reply to a packet reaches the sender's interface; error and sealed replies set sticky flags. -/
  | packetReply
  /-- PACKET_RETRY (R150). A refused packet's back-off elapses and the interface resends it. -/
  | packetRetry
  /-- RESERVATION_EXPIRE (R151). A reservation entry whose sender has not retried within 65,536 router cycles leaves the list. -/
  | reservationExpire
  /-- REQUEST_RETRY (R87). A refused hook request, claim or remote store is resent after its hint. -/
  | requestRetry
  /-- HANDLER_START (R152). An accepted handler packet starts a helper as a bound handler once its conditions hold, and frees its slot. -/
  | handlerStart
  /-- STRAND_WAKE (R146). An object's condition comes true, and every strand waiting on it is re-inserted, acquiring where the table says. -/
  | strandWake
  /-- PAUSE_END (R267). A pausing strand's cycle count expires, and it may issue again. -/
  | pauseEnd
  /-- YIELD_END (R319). A yielding strand becomes READY again after the others issued or 22 cycles passed. -/
  | yieldEnd
  /-- PAGER_RETRY (R176). A pager reply with code retry re-runs the access from its PLB lookup. -/
  | pagerRetry
  /-- PAGER_DELIVER_TRAP (R176). A pager reply with code deliver-trap raises a trap with CAUSE, or COPY_FAULT reason PAGE for an engine. -/
  | pagerDeliverTrap
  /-- PAGER_TERMINATE (R176). A pager reply with code terminate, or 3, ends the party's task or handler and posts ERROR TERMINATED. -/
  | pagerTerminate
  /-- LOOKAHEAD_COMMIT (R233). A pending instruction completes and its results become clean, and it commits. -/
  | lookaheadCommit
  /-- TICKET_FETCH (R298). A ticket fetch reaches its slice, takes an entry or is refused, and binds the line's value. -/
  | ticketFetch
  /-- TICKET_FILL_DONE (R298). The fetched data of a ticket entry arrives, and waiting redeems may proceed. -/
  | ticketFillDone
  /-- TICKET_REDEEM (R299). A redeem reaches its slice and faults stale or foreign, or sends the data and frees the entry. -/
  | ticketRedeem
  /-- TICKET_ORPHAN (R301). A filled, unredeemed entry older than the tenant's lifetime is freed as by DROP. -/
  | ticketOrphan
  /-- LANDING_ARRIVE (R330). A remote store or copy write lands in scratchpad and counts toward an armed zone, retiring it when full. -/
  | landingArrive
  /-- COPY_SLOT_READ (R327). An edge engine reads and checks a published copy-queue slot and consumes it. -/
  | copySlotRead
  /-- COPY_PACKET_COPY (R335). Opcode COPY copies LEN bytes from SRC to DST. -/
  | copyPacketCopy
  /-- COPY_PACKET_COPY2D (R335). Opcode COPY2D copies a 2-D block through two skeins, converting and checking bounds. -/
  | copyPacketCopy2d
  /-- COPY_PACKET_FILL (R335). Opcode FILL writes the 8-byte pattern over LEN bytes. -/
  | copyPacketFill
  /-- COPY_PACKET_REDUCE (R335). Opcode REDUCE adds N sources element by element in the fixed tree. -/
  | copyPacketReduce
  /-- COPY_PACKET_PUT (R335). Opcode PUT copies to another package. -/
  | copyPacketPut
  /-- COPY_PACKET_GET (R335). Opcode GET copies from another package. -/
  | copyPacketGet
  /-- COPY_PACKET_COMPLETE (R336). A packet's accesses are done; it writes its status, then signals its counter or posts its ring, and posts COPY_FAULT on failure. -/
  | copyPacketComplete
  /-- MATRIX_LOAD (R345). Command LOAD fills slot SA with K elements per line through skein SK. -/
  | matrixLoad
  /-- MATRIX_MMA (R345). Command MMA multiplies slots SA and SB into tile TD in fixed chunk order. -/
  | matrixMma
  /-- MATRIX_MROT (R348). Command MROT copies slot SA to slot SB of another core and may signal SOBJ there. -/
  | matrixMrot
  /-- MATRIX_STORE (R345). Command STORE converts tile TS through skein SK into memory, with bounds. -/
  | matrixStore
  /-- MATRIX_ZERO (R345). Command ZERO sets every cell of TD to +0. -/
  | matrixZero
  /-- MATRIX_MOVE (R345). Command MOVE copies or transposes tile TS into TD. -/
  | matrixMove
  /-- MATRIX_SCALE (R345). Command SCALE multiplies TS by a factor and optional row and column scales, adds BIAS, and rounds once into TD. -/
  | matrixScale
  /-- MATRIX_MARK (R345). Command MARK, after earlier commands, sets MARKV and optionally signals SOBJ. -/
  | matrixMark
  /-- MROT_LANDING (R348). An MROT landing reaches its destination core and is written, refused or stops the issuer. -/
  | mrotLanding
  /-- PF2_NOTIFY (R313). After the last prefetched line, the named counter or barrier is signalled. -/
  | pf2Notify
  /-- PANEL_WINDOW_READ (R163). A load through the panel window, or an engine read of a panel-window source, reaches its target core and is answered with data, or with an error reply when the domain differs, the target is IDLE, or it is killed. -/
  | panelWindowRead
  deriving DecidableEq, Repr

end Sys2Proof
end

