-- ==== Sys2Proof/Machine/State.lean ====
section
/-!
DEFINITION. State.lean: every piece of state the spec gives the S9, as plain data; the faults and refusals; and the
machine right after reset. INVENTORY.md lists each piece with its rule. A Table lists the entries that differ from
the default of its kind, keys strictly rising (log 2).
-/
namespace Sys2Proof.Machine

/-- Why the machine stops with a fault. -/
inductive Fault where
  /-- raised by step once the package has shut down (01 R18): all clocks are stopped. Safe. -/
  | shutdown
  deriving DecidableEq, Repr

/-- Why a step has no meaning in the model. -/
inductive Refusal where
  /-- an instruction without a meaning yet; raised by Dispatch.lean. Safe. -/
  | notModelled (mnemonic : String)
  deriving DecidableEq, Repr

/-- Bytes by address: addresses strictly rising, no entry zero (an unlisted byte reads as zero; log 2). -/
abbrev Memory := List Host.Cell
/-- Entries by number: numbers strictly rising, no entry equal to the default. -/
abbrev Table (α : Type) := List (Nat × α)

/-! ## Strands -/

/-- A pointer (10 R221, 11 R241). -/
structure Pointer where
  base : W64 := 0
  stride : BitVec 32 := 0
  count : BitVec 32 := 0
  deriving DecidableEq, Repr

/-- A fault of an instruction: cause code (11 R263, R316, R350), address and XAUX word (11 R258). -/
structure FaultInfo where
  cause : BitVec 8
  addr : W64
  aux : W64 := 0
  deriving DecidableEq, Repr

/-- A translation fault for the pager (07 R175). -/
structure PagerInfo where
  addr : W64
  /-- 0 read, 1 write, 2 fetch, 3 ticket, 4 law, 5 ship -/
  access : Nat
  /-- STATE found: 0 or 6 -/
  found : Nat
  deriving DecidableEq, Repr

/-- A register a pending instruction writes (10 R233, R234). -/
inductive Reg where
  | a
  | p (n : BitVec 3)
  | k (n : BitVec 2)
  | link
  | stime
  | sst
  /-- the sticky flags of SST, written by an instruction whose result can raise one (log 37) -/
  | flags
  | fixed
  | pat (n : BitVec 2)
  | xvec
  | xresume
  /-- a skein of the core, or a binding: state that CSR.SKLD or MSG writes -/
  | skein (n : BitVec 6)
  deriving DecidableEq, Repr

/-- A result of an instruction, taken into the strand at its commit (10 R233). -/
inductive RegWrite where
  | a (v : Strip)
  | p (n : BitVec 3) (v : Pointer)
  | k (n : BitVec 2) (v : Mask)
  | link (v : W64)
  | stime (v : W64)
  /-- flags ORed into SST (09 R205) -/
  | flags (v : W64)
  /-- SST written by CSR (11 R256) -/
  | sst (v : W64)
  | fixed (v : W64)
  | pat (n : BitVec 2) (v : BitVec 256)
  | xvec (v : W64)
  | xresume (v : W64)
  | skein (n : BitVec 6) (v : BitVec 512)
  /-- the zone of this identifier is armed (20 R379) -/
  | zone (id : Nat)
  deriving DecidableEq, Repr

/-- Sixteen generations: a horizon or a deposit (08 R196, R198). -/
abbrev Horizon := List (BitVec 18)

/-- What a strand runs (06 R139). -/
inductive Role where
  | lead
  | helper
  | handler (tag : BitVec 8)
  deriving DecidableEq, Repr

/-- A queued matrix command (14 R338). -/
structure Command where
  word : BitVec 512
  strand : Nat
  /-- entry of the queue window it occupied -/
  entry : Nat
  /-- horizon of a fixed-mode strand at the push -/
  horizon : Option Horizon
  domain : BitVec 16
  /-- the item number of its push (08 R189) -/
  id : Nat := 0
  /-- the pattern slots of its pusher as they stood at the push (14 R338) -/
  pats : List (BitVec 256) := []
  /-- the skein that it names, as it stood at the push (14 R338) -/
  skein : BitVec 512 := 0
  /-- what its pusher ran -/
  role : Role := .lead
  /-- the handler or the task that pushed it has ended -/
  orphan : Bool := false
  deriving DecidableEq, Repr

/-- How far a pending instruction has come (10 R233, R236). -/
inductive PendState where
  /-- completed, with its results -/
  | done (ws : List RegWrite)
  /-- waits for the reply to item id; what it writes on completion beside the reply -/
  | waiting (id : Nat) (ws : List RegWrite)
  /-- issued, and complete once its strand is woken (06 R145): what it writes then -/
  | waits (ws : List RegWrite)
  /-- performed; its change of a skein or a pattern slot waits for the matrix commands that refer to it (14 R338) -/
  | held (ws : List RegWrite)
  /-- a matrix command that finds no entry of the queue free: it is pushed once one is; what it writes then (14 R338) -/
  | pushes (m : Command) (ws : List RegWrite)
  /-- waits for the packets and the zones of its strand that are numbered below mark (14 R331) -/
  | copies (mark : Nat)
  | faulted (f : FaultInfo)
  /-- a fault found at its issue (10 R231), and the address after it: taken once everything before it has committed, and forgotten
  where that faults -/
  | atIssue (f : FaultInfo) (resume : W64)
  | pager (f : PagerInfo)
  deriving DecidableEq, Repr

/-- An instruction between its issue and its commit (10 R233). -/
structure Pending where
  parcels : BitVec 32
  pc : W64
  /-- instructions still to issue before it must commit -/
  left : Nat
  dests : List Reg
  state : PendState
  deriving DecidableEq, Repr

/-- A fault kept for delivery after the trap before it returns (10 R236, 11 R266). -/
structure PendFault where
  fault : FaultInfo
  pc : W64
  parcels : BitVec 32
  /-- a translation fault, to be parked when its turn comes -/
  pager : Option PagerInfo := none
  deriving DecidableEq, Repr

/-- The four strand states (06 R139). -/
inductive SState where
  | free
  | ready
  | waiting
  | stopped
  deriving DecidableEq, Repr

/-- What a waiting strand waits for (06 R145, 11 R266 KIND). -/
inductive WaitOn where
  | nothing
  | channel (c : Nat)
  | barrier (obj : Nat) (phase : Bool)
  | counter (obj : Nat) (value : BitVec 32)
  | ring (obj : Nat)
  /-- the scoreboard: a range of the own scratchpad, or a free range for EXPECT -/
  | landing
  | pager
  | join (helper : Nat)
  | helperSlot
  | sendBuffer
  deriving DecidableEq, Repr

/-- An instruction to run once more, alone, before the strand goes on (10 R236, 11 R262, 07 R176). -/
structure Redo where
  /-- the address of the instruction -/
  pc : W64
  /-- where the strand goes on afterwards -/
  resume : W64
  deriving DecidableEq, Repr

/-- The registers of a strand as they stood when the instruction in hand issued: it reads these while it waits, whatever
commits meanwhile (10 R233). -/
structure View where
  a : Strip
  p : Vector Pointer 8
  k1 : Mask
  k2 : Mask
  k3 : Mask
  link : W64
  stime : W64
  sst : W64
  fixed : W64
  pat : Vector (BitVec 256) 4
  xvec : W64
  xresume : W64
  /-- the number of the next item when it issued: what has a lower one was pushed before it (08 R189) -/
  mark : Nat := 0
  /-- the skeins of its core -/
  skeins : Table (BitVec 512) := []
  deriving DecidableEq, Repr

/-- One strand context (10 R221). -/
structure Strand where
  a : Strip := 0
  p : Vector Pointer 8 := Vector.replicate 8 {}
  k1 : Mask := 0
  k2 : Mask := 0
  k3 : Mask := 0
  pc : W64 := 0
  link : W64 := 0
  stime : W64 := 0
  sst : W64 := 0
  fpctl : W64 := 0
  drow : W64 := 0
  fixed : W64 := 0
  pat : Vector (BitVec 256) 4 := Vector.replicate 4 0
  rply : W64 := 0
  xvec : W64 := 0
  xparcels : BitVec 32 := 0
  xcause : BitVec 8 := 0
  xin : Bool := false
  xaddr : W64 := 0
  xpc : W64 := 0
  xresume : W64 := 0
  xaux : W64 := 0
  /-- pending faults, oldest first, at most 15 -/
  faults : List PendFault := []
  /-- current domain: identifier [15:4], generation [3:0] -/
  domain : BitVec 16 := 0
  state : SState := .free
  /-- the state a stopped strand goes back to -/
  stoppedFrom : SState := .ready
  /-- held by CTXS (11 R265) -/
  held : Bool := false
  role : Role := .helper
  wait : WaitOn := .nothing
  /-- the condition waited for has come true -/
  satisfied : Bool := false
  /-- the deposit a fixed-mode wake joins (08 R198) -/
  deposit : Option Horizon := none
  /-- the parcels and the address of the instruction that waits -/
  waitParcels : BitVec 32 := 0
  waitPc : W64 := 0
  /-- the instruction in hand has issued and waits to be performed: the registers at its issue -/
  view : Option View := none
  pending : List Pending := []
  redo : Option Redo := none
  /-- the access parked on the pager (07 R175) -/
  parked : Option PagerInfo := none
  parkedSeq : BitVec 32 := 0
  /-- an escalation or terminate is due at a pager reply for this instruction -/
  faultSeq : BitVec 32 := 0
  /-- PAUSE and YIELD (11 R267, 14 R319) -/
  paused : Bool := false
  yielded : Bool := false
  /-- helper started by START, for JOINW (14 R319) -/
  started : Bool := false
  /-- the strand stops when its windows have drained (04 R117, R119; 11 R265): held by CTXS, or by a command -/
  stopping : Option Bool := none
  deriving DecidableEq, Repr

/-! ## Cores -/

/-! ## Places -/

/-- Where a byte lives. -/
inductive Place where
  /-- scratchpad of a core -/
  | scratch (core : CoreId) (off : Nat)
  /-- media of the package: the key of device memory -/
  | dev (key : Nat)
  /-- a physical address of another package of the domain -/
  | remote (member pa : Nat)
  /-- a host bus address -/
  | host (addr : Nat)
  /-- a discarded page: reads zero -/
  | zero
  deriving DecidableEq, Repr

/-- CORESTAT.STATE (04 R116). -/
inductive CoreState where
  | idle
  | running
  | stopping
  | halted
  | quiet
  | killed
  | retired
  deriving DecidableEq, Repr

/-- A binding of a tag (06 R149). -/
structure Binding where
  tag : BitVec 8
  /-- 1 handler, 2 channel -/
  kind : BitVec 2
  chan : BitVec 3
  quota : Nat
  domain : BitVec 16
  entry : W64
  /-- its domain is destroyed: it is freed once no packet of it occupies a slot (14 R320) -/
  closing : Bool := false
  deriving DecidableEq, Repr

/-- A packet (06 R148) in flight or accepted. -/
structure Packet where
  id : Nat
  route : W64
  time : W64
  source : BitVec 32
  payload : List Byte
  /-- the sending strand, if a strand sent it -/
  sender : Option StrandId
  /-- identifier and generation of the sender's domain -/
  domain : BitVec 16
  /-- the sender is firmware, or an engine or hook acting for the binding's domain -/
  trusted : Bool
  /-- refusals so far -/
  refusals : Nat := 0
  /-- place in the order of its pair (06 R154) -/
  order : Nat := 0
  /-- device time of its last refusal -/
  refusedAt : Nat := 0
  /-- sent, and not answered yet -/
  outstanding : Bool := false
  /-- the 32-byte sectors of its payload that are poisoned, in the sender's buffer or in the mailbox slot (05 R131) -/
  bad : List Nat := []
  /-- outcome on its way back: 0 accepted, 1 refused, 2 UNBOUND or FOREIGN, 3 sealed -/
  outcome : Option Nat := none
  deriving DecidableEq, Repr

/-- A range of the scoreboard (08 R191, 14 R330). -/
structure Range where
  /-- scratchpad offset and length -/
  off : Nat
  len : Nat
  /-- a zone armed by EXPECT, or a landing of item id -/
  zone : Bool
  id : Nat
  /-- bytes landed -/
  landed : Nat
  /-- the arming strand number -/
  strand : Nat
  /-- the EXPECT that armed the zone has committed (20 R379) -/
  armed : Bool := false
  deriving DecidableEq, Repr

/-- A resident L1 line (07 R391): 128 bytes of a virtual line. -/
structure L1Line where
  line : Nat
  data : Strip
  /-- valid 4-byte words -/
  valid : BitVec 32
  /-- owned words -/
  owned : BitVec 32
  /-- the place of the line's first byte: where the line was filled from -/
  home : Place
  /-- the copy's poisoned sectors; no word of such a sector is owned (05 R131) -/
  bad : BitVec 4 := 0
  deriving DecidableEq, Repr

/-- A buffered byte of a fixed-mode strand (08 R197). -/
structure BufByte where
  strand : Nat
  va : Nat
  key : Nat
  value : Byte
  /-- the byte came from a poisoned sector (05 R132) -/
  bad : Bool := false
  deriving DecidableEq, Repr

/-- One logical core. -/
structure Core where
  status : CoreState := .idle
  /-- the state before a halt -/
  before : CoreState := .idle
  tenant : Nat := 0
  err : Bool := false
  withheld : Bool := false
  diverged : Bool := false
  /-- the core's current domain (04 R107) -/
  domain : BitVec 16 := 0
  scratch : Memory := []
  /-- poisoned sectors of the scratchpad -/
  scratchPoison : List Nat := []
  /-- operand memory: slot × 8192 + offset -/
  operand : Memory := []
  operandPoison : List Nat := []
  /-- acc tiles: tile × 4096 + row × 64 + column, 36-bit cells -/
  tiles : Table (BitVec 36) := []
  /-- cells with an error that cannot be corrected (05 R131) -/
  tileBad : List Nat := []
  skeins : Table (BitVec 512) := []
  cmdq : List Command := []
  cmdqNext : Nat := 0
  /-- the command that runs -/
  active : Option Command := none
  /-- MSTAT but for DEPTH and RUN -/
  markv : BitVec 16 := 0
  mcause : BitVec 8 := 0
  mstrand : BitVec 4 := 0
  stop : Bool := false
  mbound : Bool := false
  mflags : BitVec 5 := 0
  /-- the parked matrix access -/
  mparked : Option PagerInfo := none
  mparkedSeq : BitVec 32 := 0
  mretry : Bool := false
  /-- PLB entries and their order of use, most recent first -/
  plb : Table (BitVec 128) := []
  plbUse : List Nat := []
  l1 : List L1Line := []
  buffered : List BufByte := []
  /-- sectors (device key div 32) the L1 records as a strand's own publish -/
  published : List (Nat × Nat) := []
  bindings : List Binding := []
  mailbox : List Packet := []
  reservations : List (BitVec 32 × BitVec 8 × Nat) := []
  isSealed : Bool := false
  ranges : List Range := []
  /-- zones parked with a save (04 R120): the saved domain, the save area, the zone -/
  parkedZones : List (BitVec 16 × Nat × Range) := []
  /-- buffered words of pre-empted fixed-mode strands, by save area (log 15) -/
  heldBuffered : List (Nat × BufByte) := []
  /-- the roles of the live strands of pre-empted tasks, and whether START started them: save area, strand (log 41) -/
  savedRoles : List (Nat × Nat × Role × Bool) := []
  /-- what a save area has no place for, of a strand whose instruction in hand had issued: area, strand, the registers of its issue,
  its parcels and its address (10 R233; log 41) -/
  savedViews : List (Nat × Nat × View × BitVec 32 × W64) := []
  /-- what such a strand has pending that no drain waits for: area, strand, instruction (log 55) -/
  savedPending : List (Nat × Nat × Pending) := []
  /-- the queued commands of a save as they were pushed: area, command (09 R220, 14 R338, R347; log 41) -/
  savedQueue : List (Nat × Command) := []
  zoneWaitFrom : Option Nat := none
  /-- CORECMD in progress: 0 none, 1 PREEMPT, 3 HALT, 4 HALT_QUIET, 5 PREEMPT that saves, 6 HALT_QUIET that waits for no
  armed zone -/
  stopCmd : Nat := 0
  /-- the save area of a PREEMPT -/
  saveArea : Nat := 0
  corecmd : W64 := 0
  /-- a pre-empted and not resumed save, by tenant -/
  savedTenants : List Nat := []
  tmask : BitVec 32 := 0
  trbase : W64 := 0
  trlim : W64 := 0
  trpos : W64 := 0
  trmode : BitVec 2 := 0
  trSince : Nat := 0
  trCounts : List (BitVec 32 × BitVec 8 × Nat) := []
  /-- PWRCTL and PWRSTAT (05 R123) -/
  volt : BitVec 8 := 120
  dthr : BitVec 6 := 24
  src : Bool := false
  vnow : BitVec 8 := 120
  srcnow : Bool := false
  hopping : Bool := false
  stretch : Bool := false
  pwrErr : Bool := false
  forced : Bool := false
  dcount : BitVec 16 := 0
  /-- the regulator target and the source of the sequence in progress, and of the one to follow it -/
  vTarget : BitVec 8 := 120
  srcTarget : Bool := false
  pwrPending : Option (BitVec 8 × Bool) := none
  trips : List Nat := []
  /-- the law unit's cached entries: tenant × 256 + index (13 R302) -/
  lawCache : List (Nat × BitVec 256) := []
  startWaits : Bool := false
  flushed : Bool := false
  killCause : BitVec 8 := 0
  /-- a kill that waits for a hop to complete, and its cause (05 R137) -/
  killWaits : Option Nat := none
  scrubbing : Bool := false
  /-- array cycles of its matrix commands that fall in later microseconds (04 R112) -/
  arrayLeft : Nat := 0
  /-- array cycles of its matrix commands in the current microsecond (04 R112) -/
  arrayNow : Nat := 0
  /-- an error was found during the scrub (05 R137) -/
  scrubFailed : Bool := false
  deriving DecidableEq, Repr

/-! ## Panels, stacks, links, tenants -/

/-- A record of the swift's buffer (04 R102–R105). -/
structure TaskRec where
  id : Nat
  tenant : Nat
  queue : Nat
  slot : Nat
  word : BitVec 512
  ready : Bool
  passedAt : Option Nat
  agedAt : Option Nat
  /-- its dispatch counts at the pointer of its class (04 R104 rule 3) -/
  counts : Bool := true
  deriving DecidableEq, Repr

/-- One panel: swift, sources, counters, error log. -/
structure Panel where
  qbind : Table W64 := []
  tweight : Table (BitVec 4) := []
  tdivto : Table (BitVec 16) := []
  patchctl : Table (BitVec 16) := []
  patchst : Table (BitVec 2) := []
  rampup : BitVec 20 := 65536
  rampdn : BitVec 20 := 65536
  /-- slots of the last and of the current microsecond, and the rise balance (04 R112) -/
  rampPrev : Nat := 0
  rampNow : Nat := 0
  rampBalance : Int := 65536
  rampDummy : Nat := 0
  swerr : Bool := false
  zto : BitVec 16 := 200
  fa : BitVec 12 := 1900
  fb : BitVec 12 := 600
  settlingA : Bool := false
  settlingB : Bool := false
  records : List TaskRec := []
  /-- consumed slots at or above READ: tenant, queue, slot; and the next slot to read per queue -/
  consumed : List (Nat × Nat × Nat) := []
  nextRead : Table Nat := []
  rrTenant : Table Nat := []
  rrCount : Table Nat := []
  corePtr : Nat := 0
  /-- the record chosen for a core and not started yet -/
  chosen : List (CoreId × TaskRec) := []
  runningTable : List (CoreId × TaskRec) := []
  redispense : List (CoreId × TaskRec) := []
  /-- running-table entries of pre-empted tasks: core, save area, record -/
  suspended : List (CoreId × Nat × TaskRec) := []
  regionCounts : Table (BitVec 16) := []
  stackCounts : Table (BitVec 32) := []
  /-- page-access counters: page, local, remote, host (07 R174) -/
  pageCounts : List (Nat × Nat × Nat × Nat) := []
  tlb : List (Nat × Nat × W64) := []
  walkCache : List (Nat × Nat × W64) := []
  errlog : Table (W64 × W64) := []
  errpos : Nat := 0
  clamped : Bool := false
  supervised : Bool := true
  /-- logical core index to physical index plus one; spares; retired physical cores -/
  coreMap : Table Nat := []
  spares : List Nat := []
  lost : List Nat := []
  /-- kills in hand (05 R135) -/
  kills : List CoreId := []
  deriving DecidableEq, Repr

/-- The states of a promotion slot (02 R45). -/
inductive SlotState where
  | free
  | clean
  | dirty
  | filling
  deriving DecidableEq, Repr

/-- A promotion slot in use: its number is subarray × 16 + slot, the subarray numbered
(channel × 32 + bank) × 64 + subarray. -/
structure Slot where
  state : SlotState := .free
  /-- the far row held, 32–511 -/
  row : Nat := 0
  pin : Bool := false
  tenant : Nat := 0
  /-- order of the last promotion: greater is later -/
  age : Nat := 0
  /-- the far row to be received when a copy-back ends -/
  next : Option Nat := none
  /-- the tenant that promoted that row -/
  heir : Nat := 0
  /-- a copy-back: the slot is free when it ends -/
  emptying : Bool := false
  /-- a write waits for the copy in progress: the slot is then dirty -/
  wrote : Bool := false
  deriving DecidableEq, Repr

/-- A line of the home cache (02 R61): the media line, its way, its sectors, dirty. -/
structure HomeLine where
  line : Nat
  way : Nat
  sectors : Nat
  dirty : Bool
  deriving DecidableEq, Repr

/-- A ticket entry (13 R298, R301). -/
structure TicketEntry where
  used : Bool := false
  filled : Bool := false
  gen : BitVec 20 := 0
  domain : BitVec 12 := 0
  size : BitVec 2 := 0
  bytes : List Byte := []
  /-- poisoned sectors among the bytes -/
  poison : List Nat := []
  tenant : Nat := 0
  age : Nat := 0
  /-- the tenant's active time when the age was last brought up to date -/
  since : Nat := 0
  /-- redeems that wait for the fill -/
  waiters : List Nat := []
  deriving DecidableEq, Repr

/-- One stack. -/
structure Stack where
  /-- the retired channel, once there is one (02 R60) -/
  retired : Option Nat := none
  dead : Bool := false
  refresh : Bool := false
  slots : Table Slot := []
  ageNext : Nat := 1
  /-- home lines of a set, least recently used first; the set is numbered slice × 2048 + set -/
  home : Table (List HomeLine) := []
  /-- requests that wait for self-refresh to end, with their slice (02 R75) -/
  queue : List (Nat × Nat) := []
  tickets : Table TicketEntry := []
  /-- the hooks' cached law entries: (slice, tenant × 256 + index, entry) -/
  lawCache : List (Nat × Nat × BitVec 256) := []
  deriving DecidableEq, Repr

/-- One Ndemen link (01 R29–R33, R38). -/
structure Link where
  /-- 0 up, 1 retraining, 2 down, 3 held in reset (03 R93) -/
  status : BitVec 2 := 3
  /-- SEQ of the next new flit -/
  txSeq : BitVec 8 := 0
  /-- sent and not acknowledged, oldest first -/
  replay : List Flit := []
  /-- refused flits per class -/
  hold : Table (List Flit) := []
  /-- device time at which a class's held flits may be resent -/
  holdUntil : Table Nat := []
  /-- held flits per class of a resend under way that have found no room in the replay buffer yet (01 R33) -/
  resend : Table (List Flit) := []
  /-- flits per class not sent yet -/
  waiting : Table (List Flit) := []
  /-- SEQ expected next -/
  rxSeq : BitVec 8 := 0
  /-- classes whose flits are refused until one with RSM finds room -/
  refusing : Table Bool := []
  /-- flits accepted per class -/
  rx : Table (List Flit) := []
  failSeq : BitVec 8 := 0
  fails : Nat := 0
  errors : Nat := 0
  /-- flits given to the wire, oldest first -/
  wire : List Flit := []
  closing : Bool := false
  closeFrom : Nat := 0
  /-- flits lost at a shutdown: their senders receive error replies -/
  lost : List Flit := []
  /-- the payload of the last management flit -/
  management : List Byte := []
  deriving DecidableEq, Repr

/-- A queue of a tenant: header address, panel, consumer (0 swift, 1–8 engine). -/
structure Queue where
  header : Nat
  panel : Nat
  consumer : Nat
  /-- a slot read of an engine parked on the pager -/
  parked : Option PagerInfo := none
  parkedSeq : BitVec 32 := 0
  nextSlot : Nat := 0
  deriving DecidableEq, Repr

/-- One tenant: its page, queues, registers of the control space. -/
structure Tenant where
  present : Bool := false
  tdom : W64 := 0
  tlife : BitVec 32 := 1000
  /-- device time for which some core has run, or held saved state of, the tenant (13 R301) -/
  activeFor : Nat := 0
  pquota : W64 := 0
  lawbase : W64 := 0
  pal : Table W64 := []
  queues : Table Queue := []
  windows : Table (W64 × W64) := []
  shipAddr : W64 := 0
  shipOp0 : W64 := 0
  shipOp1 : W64 := 0
  shipOp2 : W64 := 0
  /-- the target and the operands of the ship in progress, as SHIPGO found them (03 R85) -/
  shipArgs : List W64 := []
  shipRep : W64 := 0
  shipVals : Table W64 := []
  shipId : Nat := 0
  evBase : W64 := 0
  evCtl : W64 := 0
  evProd : W64 := 0
  evCons : W64 := 0
  evLost : W64 := 0
  evBuffer : List (BitVec 512) := []
  evSince : Nat := 0
  /-- the MSI-X vectors raised, oldest first (03 R82) -/
  raised : List Nat := []
  deriving DecidableEq, Repr

/-! ## Items in flight -/

/-- A store to device memory, a remote or a host page, not performed yet (08 R183). -/
structure StoreReq where
  id : Nat
  core : CoreId
  strand : StrandId
  /-- path: 0 core, 4 matrix, 5 copy, 7 host -/
  path : Nat
  va : Nat
  bytes : List (Place × Byte)
  /-- places whose sectors receive poison (05 R132) -/
  poison : List Place := []
  /-- the item that the storing instruction waits for: a store at another package may be answered with an error; 0 none -/
  reply : Nat := 0
  /-- the palette object and the generation that a fixed-mode release stamps its words with (08 R197) -/
  stamp : Option (Nat × BitVec 18) := none
  deriving DecidableEq, Repr

/-- Who sent a request to a hook. -/
inductive Requester where
  | strand (k : StrandId)
  | host (tenant : Nat)
  /-- the publish that follows an APPEND's claim, or the claim itself -/
  | append (k : StrandId)
  deriving DecidableEq, Repr

/-- How a hook answers (13 R293; 02 R72, R74). -/
inductive HookReply where
  /-- values (five for a law operation: the report and none), status, IEEE flags -/
  | done (vals : List W64) (status flags : Nat)
  | error (cause : BitVec 8)
  /-- refused, with its back-off hint -/
  | refused (hint : BitVec 16)
  deriving DecidableEq, Repr

/-- A request to a hook (02 R68–R70, 13 R293, R305). -/
structure HookReq where
  id : Nat
  routine : Nat
  place : Place
  va : W64
  h0 : W64
  h1 : W64
  h3 : W64
  rm : BitVec 2
  tenant : Nat
  requester : Requester
  /-- acquire at the reply -/
  acquire : Bool
  /-- an acquire or release carrier, which FENC counts on the core path too (08 R189) -/
  carrier : Bool := false
  /-- 0 on its way, 1 queued at the hook, 2 refused and waiting, 3 its routine runs, 4 answered, 5 an APPEND's claim is
  answered and its slot store waits -/
  stage : Nat
  /-- the domain that it acts for -/
  domain : BitVec 16
  /-- order of arrival at the hook -/
  arrival : Nat := 0
  reply : Option HookReply := none
  /-- an APPEND's at its issue: its A and the skeins that its packet names (09 R220), its horizon, and the translations of the
  ring's pages: page number of 64 KiB, leaf entry, level (14 R329) -/
  packet : BitVec 512 := 0
  skeinS : BitVec 512 := 0
  skeinD : BitVec 512 := 0
  horizon : Option Horizon := none
  leaves : List (Nat × W64 × Nat) := []
  deriving DecidableEq, Repr

/-- A ticket fetch or redeem on its way (13 R298, R299). -/
structure TicketReq where
  id : Nat
  strand : StrandId
  lane : Nat
  /-- fetch: places of the bytes, size code -/
  bytes : List Place
  size : BitVec 2
  /-- the stack and slice addressed -/
  stack : Nat
  slice : Nat
  /-- redeem: the ticket, and the landing offset -/
  ticket : W64
  off : Nat
  redeem : Bool
  deriving DecidableEq, Repr

/-- Who waits for a landing. -/
inductive LandingFrom where
  | strand (k : StrandId)
  | packet (id : Nat)
  | ticket (k : StrandId)
  | mrot (core : CoreId)
  deriving DecidableEq, Repr

/-- A write on its way to a scratchpad (07 R163, 14 R330). -/
structure Landing where
  id : Nat
  target : CoreId
  off : Nat
  bytes : List (Nat × Byte)
  poison : List Nat
  sender : LandingFrom
  domain : BitVec 16
  supervisor : Bool
  /-- a fixed-mode packet: only armed zones are written (20 R379) -/
  zonesOnly : Bool
  deriving DecidableEq, Repr

/-- A load through the panel window (07 R163): on its way while it has no reply. -/
structure PanelRead where
  id : Nat
  strand : StrandId
  target : CoreId
  off : Nat
  size : Nat
  /-- the answer: bytes, or the cause of an error reply -/
  reply : Option (Except (BitVec 8) (List Byte)) := none
  /-- poisoned sectors (number in the target's scratchpad) among the bytes -/
  poison : List Nat := []
  deriving DecidableEq, Repr

/-- A copy packet being performed (14 R332–R336). -/
structure CopyJob where
  id : Nat
  panel : Nat
  engine : Nat
  tenant : Nat
  queue : Nat
  /-- the slot's index until its slot is read, then the slot's address -/
  slotAddr : Nat
  word : BitVec 512
  /-- the core whose strand appended it, the strand, and its skeins -/
  appender : Option StrandId
  skeinS : BitVec 512
  skeinD : BitVec 512
  horizon : Option Horizon
  domain : BitVec 16
  /-- 0 to be performed, 1 parked, 2 writes outstanding, 3 to be completed, 4 appended and its slot not read yet -/
  stage : Nat
  reason : Nat
  flags : BitVec 7
  parked : Option PagerInfo
  parkedSeq : BitVec 32
  /-- STAT and COBJ may not be used (14 R336) -/
  noStat : Bool := false
  noSignal : Bool := false
  /-- bursts still to issue under its tenant's bucket (14 R337) -/
  bursts : Nat := 0
  /-- the place of STAT, once it has been checked -/
  statPlace : Option Place := none
  /-- what fills the ring's slot at completion: bytes, and whether each is poisoned -/
  data : List (Byte × Bool) := []
  deriving DecidableEq, Repr

/-- A line to be read at its home slice, waiting in the slice's queue for self-refresh to end (02 R75): for the L1 of a core
at a virtual address, or for none. -/
structure HomeRead where
  id : Nat
  key : Nat
  fill : Option (CoreId × Nat)
  /-- the operands of the event of an engine, a matrix unit, the host or firmware that asks again once the line is read -/
  party : Option EventArg := none
  deriving DecidableEq, Repr

/-- A prefetch with notification (13 R313). -/
structure Prefetch where
  id : Nat
  notify : Option W64
  lines : Nat
  deriving DecidableEq, Repr

/-- An MROT on its way (14 R348). -/
structure Rotation where
  id : Nat
  fromCore : CoreId
  target : CoreId
  slot : Nat
  bytes : Memory
  poison : List Nat
  signal : Option Nat
  domain : BitVec 16
  deriving DecidableEq, Repr

/-! ## Sync objects -/

/-- A barrier (06 R156, 08 R198). -/
structure Barrier where
  owner : Option (BitVec 12) := none
  phase : Bool := false
  expect : BitVec 13 := 1
  cur : BitVec 13 := 0
  nxt : BitVec 13 := 0
  gen : BitVec 18 := 0
  joinCur : Option Horizon := none
  joinNxt : Option Horizon := none
  deposit : Option Horizon := none
  deriving DecidableEq, Repr

/-- A counter (06 R157, 08 R198). -/
structure Counter where
  owner : Option (BitVec 12) := none
  value : BitVec 32 := 0
  installed : BitVec 32 := 0
  signaller : Option StrandId := none
  /-- the last 16 deposits, oldest first, with the value after the signal -/
  deposits : List (BitVec 32 × Horizon) := []
  /-- the greatest value after a signal whose deposit is no longer kept -/
  dropped : Option (BitVec 32) := none
  deriving DecidableEq, Repr

/-- A ring (06 R158). -/
structure Ring where
  owner : Option (BitVec 12) := none
  slots : BitVec 7 := 1
  base : Nat := 0
  size : Nat := 128
  core : CoreId := 0
  wr : BitVec 16 := 0
  rd : BitVec 16 := 0
  deriving DecidableEq, Repr

/-! ## The package -/

/-- Where boot stands (01 R20). -/
inductive BootPhase where
  | notStarted
  | discovery
  | delivery
  | firmware
  | ready
  | stopped
  deriving DecidableEq, Repr

/-- Boot ROM, flash and recovery mailbox. -/
structure Boot where
  phase : BootPhase := .notStarted
  bootst : BitVec 32 := 0
  /-- the identity key -/
  identity : Option (BitVec 384) := none
  flash : Memory := []
  /-- results of self-test: panel × 256 + physical index, 1 passed, 2 failed -/
  results : Table Nat := []
  mapped : List Nat := []
  delivered : List Nat := []
  since : Nat := 0
  raddr : W64 := 0
  rlen : BitVec 13 := 0
  rstat : BitVec 2 := 0
  rerr : BitVec 8 := 0
  rbuf : Memory := []
  /-- the recovery command in progress -/
  rcmd : Nat := 0
  deriving DecidableEq, Repr

/-- Host control block, control space and host side. -/
structure Package where
  boot : Boot := {}
  linken : BitVec 18 := 0
  /-- DMAWIN n at n, XPWIN n at 16 + n: base, limit, enable -/
  windows : Table (BitVec 48 × BitVec 48 × Bool) := []
  ptroot : W64 := 0
  pginv : W64 := 0
  pgcnt : BitVec 21 := 1
  pgBusy : Bool := false
  flushBusy : Bool := false
  /-- identifiers' G and O, and the generations an epoch recorded (07 R168) -/
  gens : Table (BitVec 4 × BitVec 4) := []
  epoch : Table (BitVec 4) := []
  lawinv : W64 := 0
  lawBusy : Bool := false
  sevbase : W64 := 0
  sevprod : W64 := 0
  sevcons : W64 := 0
  sevBuffer : List (BitVec 512) := []
  sevLost : W64 := 0
  /-- event counts per source word (03 R92, R96) -/
  eventSeq : Table W64 := []
  /-- the region table, as the difference from its default -/
  regions : Table (BitVec 32) := []
  /-- the configuration record whose default region table is in use, once boot has verified one (01 R14) -/
  regionRecord : Option (List Byte) := none
  /-- the hook table's loadable entries: permitted tenants and micro-ops (02 R69, R73) -/
  routines : Table (BitVec 32 × List (BitVec 32)) := []
  /-- replacements that wait for running requests (03 R98) -/
  routineNext : Table (BitVec 32 × List (BitVec 32)) := []
  mailReq : BitVec 512 := 0
  mailRep : BitVec 512 := 0
  doorbell : Bool := false
  hostMem : Memory := []
  /-- the answers of host reads: tag, bytes, poisoned (03 R83) -/
  hostReads : List (Nat × List Byte × Bool) := []
  hostErrors : Nat := 0
  powerClamp : Bool := false
  shutdown : Bool := false
  /-- members of the domain that answer (07 R172) -/
  reachable : List Nat := []
  /-- this package's identifier (01 R34) -/
  pkg : BitVec 14 := 0
  remoteMem : Memory := []
  /-- poisoned sectors of other packages' memory: (member × 2^40 + address) div 32 (05 R132) -/
  remoteBad : List Nat := []
  /-- poisoned sectors of host memory: address div 32 (05 R132) -/
  hostBad : List Nat := []
  clockSkew : W64 := 0
  /-- the MSI-X table (03 R82): address [63:0], data [95:64], vector control [127:96], whose bit 0 masks -/
  msix : Table (BitVec 128) := []
  /-- the vectors that are pending while masked -/
  msixPending : List Nat := []
  /-- extents asked back: first region, count, forced (02 R77) -/
  releasing : List (Nat × Nat × Bool) := []
  deriving DecidableEq, Repr

/-- What the step acts on next: a strand, or an event with its operands. -/
inductive Turn where
  | strand (k : StrandId)
  | event (i : Instr) (arg : EventArg)
  deriving DecidableEq, Repr

/-- Whose access is held at a translation slice (02 R54): a strand's, or that of an engine, a matrix unit, the host or firmware,
known by the operands of the event that tries it again. -/
inductive Holder where
  | strand (k : StrandId)
  | event (arg : EventArg)
  deriving DecidableEq, Repr

/-- The machine. -/
structure State where
  package : Package := {}
  deviceTime : Nat := 0
  strands : Table Strand := []
  cores : Table Core := []
  panels : Table Panel := []
  gstacks : Table Stack := []
  links : Table Link := []
  tenants : Table Tenant := []
  /-- device memory by media key: ((class × 16 + stack) × 2^23 + media region) × 2^21 + offset -/
  dmem : Memory := []
  /-- sector metadata by media key div 32 (02 R65) -/
  sectors : Table W64 := []
  barriers : Table Barrier := []
  counters : Table Counter := []
  rings : Table Ring := []
  stores : List StoreReq := []
  hookReqs : List HookReq := []
  packets : List Packet := []
  ticketReqs : List TicketReq := []
  landings : List Landing := []
  panelReads : List PanelRead := []
  copyJobs : List CopyJob := []
  homeReads : List HomeRead := []
  /-- accesses held at translation slices, oldest first: whose, and the region (02 R54, R58) -/
  held : List (Holder × Nat) := []
  prefetches : List Prefetch := []
  rotations : List Rotation := []
  /-- token buckets: (panel × 8 + engine) × 64 + tenant; balance in 1/256, depth, rate (04 R111) -/
  buckets : Table (Int × Nat × Nat) := []
  /-- READY strands, longest ready first (06 R143) -/
  ready : List StrandId := []
  /-- what is due to happen, oldest first; its content is the outside's and the machine's (log 4) -/
  agenda : List Turn := []
  /-- the strand the instruction in hand belongs to, and the operands of the event in hand -/
  cur : StrandId := 0
  arg : EventArg := {}
  /-- identifier of the next item in flight -/
  nextId : Nat := 1
  /-- steps taken: the source of free values (log 5) -/
  steps : Nat := 0
  deriving DecidableEq, Repr

/-- The machine right after reset: every field at the value the spec states for reset, or at the value log 1 names;
boot has not started, so no strand is live. -/
def State.reset : State := {}

end Sys2Proof.Machine
end

