-- ==== Sys2Proof/Machine/Table.lean ====
section
/-!
DEFINITION. Table.lean: reading and writing tables and memories, which list only what differs from their default,
in rising order of their keys.
-/
namespace Sys2Proof.Machine

/-- The entry at k; d where none is listed. -/
def Table.get {α : Type} (d : α) : Table α → Nat → α
  | [], _ => d
  | (j, v) :: t, k => if k = j then v else if k < j then d else Table.get d t k

/-- The table with v at k: listed in order, or removed where v is the default. -/
def Table.set {α : Type} [DecidableEq α] (d : α) : Table α → Nat → α → Table α
  | [], k, v => if v = d then [] else [(k, v)]
  | (j, w) :: t, k, v =>
    if k = j then if v = d then t else (k, v) :: t
    else if k < j then if v = d then (j, w) :: t else (k, v) :: (j, w) :: t
    else (j, w) :: Table.set d t k v

/-- Every listed entry changed by f; what becomes the default is listed no more. -/
def Table.mapValues {α : Type} [DecidableEq α] (d : α) (f : α → α) (t : Table α) : Table α :=
  (t.map fun e => (e.1, f e.2)).filter fun e => e.2 != d

/-- The table without the entries of keys lo … lo + n − 1. -/
def Table.drop {α : Type} (t : Table α) (lo n : Nat) : Table α :=
  t.filter fun e => !(lo ≤ e.1 && e.1 < lo + n)

/-- The canonical form: keys strictly rising, no entry equal to the default. -/
def Table.wf {α : Type} [DecidableEq α] (d : α) (t : Table α) : Bool :=
  decide (t.Pairwise (fun x y => x.1 < y.1)) && t.all fun e => e.2 != d

/-- The canonical form of a memory (log 2): addresses strictly rising, no zero byte listed. -/
abbrev Memory.wf (m : Memory) : Bool := Table.wf (α := Byte) 0 m

/-- One byte of a memory: 0 where none is listed. -/
def Memory.byte (m : Memory) (a : Nat) : Byte := Table.get (0 : Byte) m a
/-- One byte written. -/
def Memory.setByte (m : Memory) (a : Nat) (v : Byte) : Memory := Table.set (0 : Byte) m a v

/-- n bytes from address a. -/
def Memory.bytes (m : Memory) (a : Nat) : Nat → List Byte
  | 0 => []
  | n + 1 => m.byte a :: m.bytes (a + 1) n

/-- Bytes written from address a on. -/
def Memory.setBytes (m : Memory) (a : Nat) : List Byte → Memory
  | [] => m
  | b :: bs => (m.setByte a b).setBytes (a + 1) bs

/-- Bytes as a number, least significant first (00 R5). -/
def ofBytes : List Byte → Nat
  | [] => 0
  | b :: bs => b.toNat + 256 * ofBytes bs

/-- The n low bytes of a number, least significant first (00 R5). -/
def toBytes : Nat → Nat → List Byte
  | 0, _ => []
  | n + 1, w => BitVec.ofNat 8 w :: toBytes n (w / 256)

/-- n bytes at a as a little-endian number. -/
def Memory.nat (m : Memory) (a n : Nat) : Nat := ofBytes (m.bytes a n)

/-- The item with this identifier. -/
def findId {α : Type} (key : α → Nat) (l : List α) (id : Nat) : Option α := l.find? fun x => key x == id
/-- The list without the item of this identifier. -/
def dropId {α : Type} (key : α → Nat) (l : List α) (id : Nat) : List α := l.filter fun x => key x != id
/-- The list with the item of x's identifier replaced by x. -/
def putId {α : Type} (key : α → Nat) (l : List α) (x : α) : List α := l.map fun y => if key y == key x then x else y

/-! ## Parts of the machine -/

/-- A strand. -/
def State.strand (s : State) (k : StrandId) : Strand := Table.get {} s.strands k
/-- A strand written. -/
def State.setStrand (s : State) (k : StrandId) (x : Strand) : State :=
  { s with strands := Table.set {} s.strands k x }
/-- A core. -/
def State.core (s : State) (c : CoreId) : Core := Table.get {} s.cores c
/-- A core written. -/
def State.setCore (s : State) (c : CoreId) (x : Core) : State := { s with cores := Table.set {} s.cores c x }
/-- A panel. -/
def State.panel (s : State) (p : Nat) : Panel := Table.get {} s.panels p
/-- A panel written. -/
def State.setPanel (s : State) (p : Nat) (x : Panel) : State := { s with panels := Table.set {} s.panels p x }
/-- A stack. -/
def State.stack (s : State) (p : Nat) : Stack := Table.get {} s.gstacks p
/-- A stack written. -/
def State.setStack (s : State) (p : Nat) (x : Stack) : State := { s with gstacks := Table.set {} s.gstacks p x }
/-- A link. -/
def State.link (s : State) (l : Nat) : Link := Table.get {} s.links l
/-- A link written. -/
def State.setLink (s : State) (l : Nat) (x : Link) : State := { s with links := Table.set {} s.links l x }
/-- A tenant. -/
def State.tenant (s : State) (t : Nat) : Tenant := Table.get {} s.tenants t
/-- A tenant written. -/
def State.setTenant (s : State) (t : Nat) (x : Tenant) : State := { s with tenants := Table.set {} s.tenants t x }

/-- An event joins what is due, with its operands. -/
def State.post (s : State) (i : Instr) (arg : EventArg) : State :=
  { s with agenda := s.agenda ++ [.event i arg] }

/-- A fresh identifier. -/
def State.fresh (s : State) : Nat × State := (s.nextId, { s with nextId := s.nextId + 1 })

/-- The device time as the 64-bit count that every reader sees (01 R16). -/
def State.now (s : State) : W64 := BitVec.ofNat 64 s.deviceTime + s.package.clockSkew

end Sys2Proof.Machine
end

