-- ==== Sys2Proof/Machine/Num.lean ====
section
/-!
DEFINITION. Num.lean: the number formats of 09 R202, exact values, and the one rounding of an exact value
(09 R203–R212). Bit patterns are numbers below 2^width. Flags are SST bits: NV 1, DZ 2, OF 4, UF 8, NX 16, SAT 32,
BOUND 64 (11 R253).
-/
namespace Sys2Proof.Machine

/-- How a format encodes infinities and NaNs (09 R202). -/
inductive FKind where
  /-- exponent all ones: infinity or NaN -/
  | ieee
  /-- E4M3: no infinity, NaN only at all ones -/
  | e4m3
  /-- E2M1: neither -/
  | finite
  deriving DecidableEq, Repr

/-- A floating-point format (09 R202). -/
structure FFmt where
  width : Nat
  /-- fraction bits -/
  fb : Nat
  bias : Nat
  kind : FKind
  /-- an IEEE format, whose signalling NaNs count (09 R204) -/
  std : Bool
  deriving DecidableEq, Repr

/-- binary64 -/
def f64 : FFmt := ⟨64, 52, 1023, .ieee, true⟩
/-- binary32 -/
def f32 : FFmt := ⟨32, 23, 127, .ieee, true⟩
/-- binary16 -/
def f16 : FFmt := ⟨16, 10, 15, .ieee, true⟩
/-- bfloat16 -/
def bf16 : FFmt := ⟨16, 7, 127, .ieee, true⟩
/-- FP8 E5M2 -/
def e5m2 : FFmt := ⟨8, 2, 15, .ieee, false⟩
/-- FP8 E4M3 -/
def e4m3 : FFmt := ⟨8, 3, 7, .e4m3, false⟩
/-- FP4 E2M1 -/
def e2m1 : FFmt := ⟨4, 1, 1, .finite, false⟩
/-- W34 (09 R212) -/
def w34 : FFmt := ⟨34, 23, 511, .ieee, false⟩

/-- The float format of a lane format 4–7 (10 R227). -/
def laneF (fmt : BitVec 3) : FFmt :=
  match fmt.toNat with
  | 4 => f64 | 5 => f32 | 6 => bf16 | _ => f16

namespace Flag
/-- invalid -/
def nv : Nat := 1
/-- divide-by-zero -/
def dz : Nat := 2
/-- overflow -/
def of : Nat := 4
/-- underflow -/
def uf : Nat := 8
/-- inexact -/
def nx : Nat := 16
/-- an integer result saturated -/
def sat : Nat := 32
/-- a write-back met its bounds -/
def bound : Nat := 64
end Flag

/-- The value a bit pattern stands for. -/
inductive Num where
  | nan (signalling : Bool)
  | inf (neg : Bool)
  /-- ± m × 2^e -/
  | fin (neg : Bool) (m : Nat) (e : Int)
  deriving DecidableEq, Repr

/-- Exponent field width. -/
def FFmt.eb (f : FFmt) : Nat := f.width - 1 - f.fb
/-- The pattern of the largest exponent field. -/
def FFmt.expOnes (f : FFmt) : Nat := 2 ^ f.eb - 1
/-- The bit of the sign. -/
def FFmt.signBit (f : FFmt) : Nat := 2 ^ (f.width - 1)
/-- A pattern with this sign. -/
def FFmt.signed (f : FFmt) (neg : Bool) (mag : Nat) : Nat := if neg then mag + f.signBit else mag
/-- The pattern of an infinity; E4M3's NaN and E2M1's 6 stand for it (09 R209). -/
def FFmt.infinity (f : FFmt) (neg : Bool) : Nat :=
  match f.kind with
  | .ieee => f.signed neg (f.expOnes * 2 ^ f.fb)
  | .e4m3 => 0x7F
  | .finite => f.signed neg 7
/-- The magnitude pattern of the largest finite value. -/
def FFmt.maxMag (f : FFmt) : Nat :=
  match f.kind with
  | .ieee => f.expOnes * 2 ^ f.fb - 1
  | .e4m3 => 0x7E
  | .finite => 7
/-- The canonical NaN (09 R204). -/
def FFmt.nan (f : FFmt) : Nat :=
  match f.kind with
  | .ieee => f.expOnes * 2 ^ f.fb + 2 ^ (f.fb - 1)
  | .e4m3 => 0x7F
  | .finite => 0

/-- The value of a pattern (09 R202). -/
def FFmt.decode (f : FFmt) (bits : Nat) : Num :=
  let neg := bits / f.signBit % 2 == 1
  let ex := bits / 2 ^ f.fb % 2 ^ f.eb
  let fr := bits % 2 ^ f.fb
  let special :=
    match f.kind with
    | .ieee => ex == f.expOnes
    | .e4m3 => ex == f.expOnes && fr == 7
    | .finite => false
  if special then
    if f.kind == .ieee && fr == 0 then .inf neg
    else .nan (f.std && fr / 2 ^ (f.fb - 1) % 2 == 0)
  else if ex = 0 then .fin neg fr (1 - (f.bias : Int) - f.fb)
  else .fin neg (fr + 2 ^ f.fb) ((ex : Int) - f.bias - f.fb)

/-- Rounding modes (09 R206, R207); dither carries its table entry. -/
inductive Rm where
  | ne
  | zero
  | up
  | down
  | dither (d : Nat)
  deriving DecidableEq, Repr

/-- m × 2^−shift (and a little more where sticky) rounded to a whole number (09 R206, R207): the number and whether
it is inexact. -/
def roundShift (rm : Rm) (neg : Bool) (m : Nat) (shift : Int) (sticky : Bool) : Nat × Bool :=
  let sh := shift.toNat
  let q := if shift < 0 then m * 2 ^ (-shift).toNat else m / 2 ^ sh
  let r := if shift < 0 then 0 else m % 2 ^ sh
  let unit := if shift < 0 then 1 else 2 ^ sh
  let inexact := r != 0 || sticky
  let up :=
    match rm with
    | .ne => 2 * r > unit || (2 * r == unit && (sticky || q % 2 == 1))
    | .zero => false
    | .up => !neg && inexact
    | .down => neg && inexact
    | .dither d => 64 * r > d * unit || (64 * r == d * unit && sticky)
  (if up then q + 1 else q, inexact)

/-- The result of rounding a magnitude into a format with no limit above. -/
structure Rounded where
  /-- the magnitude is mant × 2^q -/
  mant : Nat
  q : Int
  inexact : Bool
  tiny : Bool
  tooBig : Bool
  deriving DecidableEq, Repr

/-- The exponent of the leading bit of m × 2^e. -/
def leadExp (m : Nat) (e : Int) : Int := (Nat.log2 m : Int) + e

/-- m × 2^e (m > 0) rounded into f, its exponent unbounded above (09 R205, R206). -/
def roundMag (f : FFmt) (rm : Rm) (neg : Bool) (m : Nat) (e : Int) (sticky : Bool) : Rounded :=
  let emin : Int := 1 - f.bias
  let ex := leadExp m e
  let q := max ex emin - f.fb
  let (mant, inexact) := roundShift rm neg m (q - e) sticky
  let (free, _) := roundShift rm neg m (ex - f.fb - e) sticky
  let tiny := ex < emin && !(ex == emin - 1 && free == 2 ^ (f.fb + 1))
  let lead := leadExp mant q
  let norm := if lead ≥ q + f.fb then mant / 2 ^ (lead - q - f.fb).toNat else mant
  let emax : Int := match f.kind with | .ieee => f.bias | .e4m3 => 8 | .finite => 2
  let top := match f.kind with | .ieee => 2 ^ (f.fb + 1) - 1 | .e4m3 => 14 | .finite => 3
  { mant, q, inexact, tiny, tooBig := mant != 0 && (lead > emax || (lead == emax && norm > top)) }

/-- The magnitude pattern of a rounded magnitude that does not overflow. -/
def FFmt.pack (f : FFmt) (r : Rounded) : Nat :=
  if r.mant < 2 ^ f.fb then r.mant
  else
    let lead := leadExp r.mant r.q
    ((lead + f.bias).toNat) * 2 ^ f.fb + r.mant / 2 ^ (lead - r.q - f.fb).toNat % 2 ^ f.fb

/-- Inexact and underflow of a rounded magnitude. -/
def Rounded.flags (r : Rounded) : Nat :=
  (if r.inexact then Flag.nx else 0) + (if r.inexact && r.tiny then Flag.uf else 0)

/-- The magnitude delivered on overflow (09 R206). -/
def overflowMag (f : FFmt) (rm : Rm) (neg : Bool) : Nat :=
  match rm with
  | .zero => f.maxMag
  | .up => if neg then f.maxMag else f.infinity false
  | .down => if neg then f.infinity false else f.maxMag
  | _ => f.infinity false

/-- An exact result before its one rounding. -/
inductive Exact where
  /-- NaN; whether it sets invalid -/
  | nan (nv : Bool)
  | inf (neg : Bool)
  /-- ± (m × 2^e, and a little more where sticky) -/
  | val (neg : Bool) (m : Nat) (e : Int) (sticky : Bool)
  deriving DecidableEq, Repr

/-- Round an exact result into an IEEE format or W34 (09 R204–R206): pattern and flags. -/
def Exact.round (f : FFmt) (rm : Rm) : Exact → Nat × Nat
  | .nan nv => (f.nan, if nv then Flag.nv else 0)
  | .inf neg => (f.infinity neg, 0)
  | .val neg m e sticky =>
    if m = 0 then (f.signed neg 0, 0)
    else
      let r := roundMag f rm neg m e sticky
      if r.tooBig then (f.signed neg (overflowMag f rm neg), Flag.of + Flag.nx)
      else (f.signed neg (f.pack r), r.flags)

/-- Signed m × 2^e as an integer tooBig 2^e0 (e0 ≤ e). -/
def scaled (neg : Bool) (m : Nat) (e e0 : Int) : Int :=
  let v : Int := (m * 2 ^ (e - e0).toNat : Nat)
  if neg then -v else v

/-- The exact sum of two finite values; a zero sum takes its sign under 09 R204. -/
def addFin (down : Bool) (n1 : Bool) (m1 : Nat) (e1 : Int) (n2 : Bool) (m2 : Nat) (e2 : Int) : Exact :=
  let e0 := min e1 e2
  let v := scaled n1 m1 e1 e0 + scaled n2 m2 e2 e0
  if v = 0 then .val (if n1 == n2 then n1 else down) 0 0 false
  else .val (decide (v < 0)) v.natAbs e0 false

/-- A signalling NaN among the operands. -/
def Num.snan : Num → Bool
  | .nan s => s
  | _ => false

/-- The exact sum (09 R204, R205); down: the mode rounds down. -/
def Num.add (down : Bool) (x y : Num) : Exact :=
  match x, y with
  | .nan _, _ => .nan (x.snan || y.snan)
  | _, .nan _ => .nan y.snan
  | .inf a, .inf b => if a == b then .inf a else .nan true
  | .inf a, _ => .inf a
  | _, .inf b => .inf b
  | .fin n1 m1 e1, .fin n2 m2 e2 => addFin down n1 m1 e1 n2 m2 e2

/-- The negated value. -/
def Num.neg : Num → Num
  | .nan s => .nan s
  | .inf n => .inf (!n)
  | .fin n m e => .fin (!n) m e

/-- The exact product. -/
def Num.mul (x y : Num) : Exact :=
  match x, y with
  | .nan _, _ => .nan (x.snan || y.snan)
  | _, .nan _ => .nan y.snan
  | .inf a, .inf b => .inf (a != b)
  | .inf a, .fin b m _ => if m = 0 then .nan true else .inf (a != b)
  | .fin a m _, .inf b => if m = 0 then .nan true else .inf (a != b)
  | .fin n1 m1 e1, .fin n2 m2 e2 => .val (n1 != n2) (m1 * m2) (e1 + e2) false

/-- c + x × y, exactly (12 R274, R275: ∞ × 0 is invalid even beside a quiet NaN). -/
def Num.fma (down : Bool) (c x y : Num) : Exact :=
  match x.mul y with
  | .nan nv => .nan (nv || c.snan)
  | .inf n =>
    match c with
    | .nan s => .nan s
    | .inf a => if a == n then .inf a else .nan true
    | _ => .inf n
  | .val n m e _ =>
    match c with
    | .nan s => .nan s
    | .inf a => .inf a
    | .fin n2 m2 e2 => addFin down n2 m2 e2 n m e

/-- The exact quotient; the flag word beside it holds divide-by-zero. -/
def Num.div (x y : Num) : Exact × Nat :=
  match x, y with
  | .nan _, _ => (.nan (x.snan || y.snan), 0)
  | _, .nan _ => (.nan y.snan, 0)
  | .inf _, .inf _ => (.nan true, 0)
  | .inf a, .fin b _ _ => (.inf (a != b), 0)
  | .fin a _ _, .inf b => (.val (a != b) 0 0 false, 0)
  | .fin n1 m1 e1, .fin n2 m2 e2 =>
    if m2 = 0 then
      if m1 = 0 then (.nan true, 0) else (.inf (n1 != n2), Flag.dz)
    else
      let k := Nat.log2 m2 + 80
      let num := m1 * 2 ^ k
      (.val (n1 != n2) (num / m2) (e1 - e2 - k) (num % m2 != 0), 0)

/-- The whole square root of n, found bit by bit from bit i down. -/
def isqrtFrom (n : Nat) : Nat → Nat → Nat
  | 0, r => r
  | i + 1, r =>
    let t := r + 2 ^ i
    isqrtFrom n i (if t * t ≤ n then t else r)

/-- The whole square root. -/
def isqrt (n : Nat) : Nat := isqrtFrom n (Nat.log2 n / 2 + 1) 0

/-- The exact square root; √−0 = −0. -/
def Num.sqrt (x : Num) : Exact :=
  match x with
  | .nan s => .nan s
  | .inf n => if n then .nan true else .inf false
  | .fin n m e =>
    if m = 0 then .val n 0 0 false
    else if n then .nan true
    else
      let k : Int := if (e % 2 = 0) then 160 else 161
      let v := m * 2 ^ k.toNat
      let r := isqrt v
      .val false r ((e - k) / 2) (r * r != v)

/-- x < y; −0 and +0 are equal, and a NaN is less than nothing. -/
def Num.lt (x y : Num) : Bool :=
  match x, y with
  | .nan _, _ => false
  | _, .nan _ => false
  | .inf true, .inf true => false
  | .inf true, _ => true
  | _, .inf true => false
  | .inf false, _ => false
  | _, .inf false => true
  | .fin n1 m1 e1, .fin n2 m2 e2 =>
    let e0 := min e1 e2
    decide (scaled n1 m1 e1 e0 < scaled n2 m2 e2 e0)

/-- A NaN. -/
def Num.isNan : Num → Bool
  | .nan _ => true
  | _ => false

/-- Equal values; −0 equals +0. -/
def Num.eqv (x y : Num) : Bool := !x.isNan && !y.isNan && !x.lt y && !y.lt x

/-- Negative, by the sign. -/
def Num.sign : Num → Bool
  | .nan _ => false
  | .inf n => n
  | .fin n _ _ => n

/-- Zero of either sign. -/
def Num.isZero : Num → Bool
  | .fin _ m _ => m == 0
  | _ => false

/-- minimumNumber or maximumNumber of IEEE 754-2019 with −0 < +0 (12 R274): pattern and flags. -/
def minMaxNumber (f : FFmt) (isMax : Bool) (a b : Nat) : Nat × Nat :=
  let x := f.decode a
  let y := f.decode b
  let fl := if x.snan || y.snan then Flag.nv else 0
  if x.isNan then (if y.isNan then f.nan else b, fl)
  else if y.isNan then (a, fl)
  else
    let less := x.lt y || (x.eqv y && x.sign && !y.sign)
    (if less != isMax then a else b, fl)

/-- minimum or maximum of IEEE 754-2019: a NaN propagates (02 R72, m = 1). -/
def minMaxNan (f : FFmt) (isMax : Bool) (a b : Nat) : Nat × Nat :=
  let x := f.decode a
  let y := f.decode b
  if x.isNan || y.isNan then (f.nan, if x.snan || y.snan then Flag.nv else 0)
  else minMaxNumber f isMax a b

/-! ## Integers (09 R203) -/

/-- The w-bit two's-complement value of a pattern. -/
def toSigned (w : Nat) (x : Nat) : Int := if x % 2 ^ w < 2 ^ (w - 1) then (x % 2 ^ w : Nat) else (x % 2 ^ w : Nat) - (2 ^ w : Nat)
/-- The w-bit pattern of an integer, wrapping. -/
def ofInt (w : Nat) (x : Int) : Nat := (x % (2 ^ w : Nat)).toNat
/-- The least and the greatest w-bit integer. -/
def intMin (w : Nat) : Int := -(2 ^ (w - 1) : Nat)
/-- The greatest w-bit integer. -/
def intMax (w : Nat) : Int := (2 ^ (w - 1) : Nat) - 1
/-- An integer result: wrapped, or clamped with SAT (09 R203). -/
def intResult (w : Nat) (sat : Bool) (x : Int) : Nat × Nat :=
  if sat then
    if x < intMin w then (ofInt w (intMin w), Flag.sat)
    else if x > intMax w then (ofInt w (intMax w), Flag.sat)
    else (ofInt w x, 0)
  else (ofInt w x, 0)

/-! ## Conversions (09 R203, R206–R209; 12 R279) -/

/-- A value as an exact result. -/
def Num.exact : Num → Exact
  | .nan s => .nan s
  | .inf n => .inf n
  | .fin n m e => .val n m e false

/-- An exact value into a w-bit integer: clamps, NaN gives 0, both invalid (09 R203). -/
def Exact.toInt (w : Nat) (rm : Rm) : Exact → Nat × Nat
  | .nan _ => (0, Flag.nv)
  | .inf n => (ofInt w (if n then intMin w else intMax w), Flag.nv)
  | .val n m e sticky =>
    let (q, nx) := roundShift rm n m (-e) sticky
    let v : Int := if n then -(q : Int) else q
    if v < intMin w then (ofInt w (intMin w), Flag.nv)
    else if v > intMax w then (ofInt w (intMax w), Flag.nv)
    else (ofInt w v, if nx then Flag.nx else 0)

/-- A value into FP8 or FP4 (09 R209). -/
def narrow (f : FFmt) (rm : Rm) (sat : Bool) (x : Num) : Nat × Nat :=
  match x with
  | .nan _ => (f.nan, Flag.nv)
  | .inf n =>
    match f.kind with
    | .ieee => (f.signed n (if sat then f.maxMag else f.infinity false), 0)
    | .e4m3 => if sat then (f.signed n f.maxMag, Flag.of) else (0x7F, Flag.of + Flag.nv)
    | .finite => (f.signed n 7, Flag.nv)
  | .fin n m e =>
    if m = 0 then (f.signed n 0, 0)
    else
      let r := roundMag f rm n m e false
      if r.tooBig then
        match f.kind with
        | .ieee => (f.signed n (if sat then f.maxMag else f.infinity false), Flag.of + Flag.nx)
        | .e4m3 => if sat then (f.signed n f.maxMag, Flag.of + Flag.nx) else (0x7F, Flag.of + Flag.nv + Flag.nx)
        | .finite => (f.signed n 7, Flag.of + Flag.nx)
      else (f.signed n (f.pack r), r.flags)

/-- The dither table of 09 R207, row by row. -/
def ditherRows : List (List Nat) :=
  [[0, 32, 8, 40, 2, 34, 10, 42], [48, 16, 56, 24, 50, 18, 58, 26],
   [12, 44, 4, 36, 14, 46, 6, 38], [60, 28, 52, 20, 62, 30, 54, 22],
   [3, 35, 11, 43, 1, 33, 9, 41], [51, 19, 59, 27, 49, 17, 57, 25],
   [15, 47, 7, 39, 13, 45, 5, 37], [63, 31, 55, 23, 61, 29, 53, 21]]

/-- The dither entry d at a row and a column (09 R207). -/
def ditherEntry (row column : Nat) : Nat := ((ditherRows.getD (row % 8) []).getD (column % 8) 0)

/-- The mode of an FPCTL code (09 R206) at a dither coordinate; dither only for targets of 16 bits or fewer (R207). -/
def modeOf (code width row column : Nat) : Rm :=
  match code with
  | 1 => .zero
  | 2 => .up
  | 3 => .down
  | 4 => if width ≤ 16 then .dither (ditherEntry row column) else .ne
  | _ => .ne

/-- The FPCTL code that an rm field selects (09 R206). -/
def codeOf (rm : BitVec 2) (fpctl : W64) : Nat :=
  match rm.toNat with
  | 0 => 0
  | 1 => 1
  | 2 => 4
  | _ => fpctl.toNat % 8

/-! ## Formats of a skein (09 R210, R211, R217) -/

/-- The bits of an element of a skein format. -/
def skBits (fmt : Nat) : Nat :=
  match fmt with
  | 0 => 64 | 1 => 32 | 2 => 16 | 3 => 16 | 4 => 8 | 5 => 8 | 6 => 4 | 7 => 8 | 8 => 8 | 9 => 4
  | 17 => 64 | 18 => 32 | 19 => 16 | 20 => 8
  | n => if 10 ≤ n ∧ n ≤ 16 then n - 8 else 0
/-- A format with block scales. -/
def skScaled (fmt : Nat) : Bool := decide (7 ≤ fmt ∧ fmt ≤ 16)
/-- A reserved format code. -/
def skReserved (fmt : Nat) : Bool := decide (21 ≤ fmt)
/-- An integer format. -/
def skInt (fmt : Nat) : Bool := decide (17 ≤ fmt ∧ fmt ≤ 20)
/-- The element float format, also of an MX format. -/
def skF (fmt : Nat) : FFmt :=
  match fmt with
  | 0 => f64 | 1 => f32 | 2 => bf16 | 3 => f16 | 4 => e4m3 | 5 => e5m2 | 6 => e2m1
  | 7 => e4m3 | 8 => e5m2 | _ => e2m1

/-- The value of an element of a skein format with its block scale byte. -/
def skValue (fmt scale bits : Nat) : Num :=
  if skInt fmt then
    let v := toSigned (skBits fmt) bits
    .fin (decide (v < 0)) v.natAbs 0
  else if 10 ≤ fmt ∧ fmt ≤ 16 then
    if scale = 255 then .nan false
    else
      let v := toSigned (fmt - 8) bits
      .fin (decide (v < 0)) v.natAbs ((scale : Int) - 127 - (fmt - 8 - 2 : Nat))
  else if skScaled fmt then
    if scale = 255 then .nan false
    else
      match (skF fmt).decode bits with
      | .fin n m e => .fin n m (e + (scale : Int) - 127)
      | x => x
  else (skF fmt).decode bits

/-- A value into an unscaled skein format. -/
def skConvert (fmt : Nat) (rm : Rm) (sat : Bool) (x : Num) : Nat × Nat :=
  if skInt fmt then x.exact.toInt (skBits fmt) rm
  else if fmt ≤ 3 then x.exact.round (skF fmt) rm
  else narrow (skF fmt) rm sat x

/-- The greatest leading exponent of a block's finite non-zero values. -/
def blockExp : List Num → Option Int
  | [] => none
  | .fin _ m e :: r =>
    if m = 0 then blockExp r
    else
      match blockExp r with
      | none => some (leadExp m e)
      | some x => some (max x (leadExp m e))
  | _ :: r => blockExp r

/-- A NaN or an infinity in the block. -/
def blockBad (xs : List Num) : Bool :=
  xs.any fun x => match x with | .fin _ _ _ => false | _ => true

/-- A block of 32 values into a scaled format (09 R210, R211): scale byte, elements, flags; rm gives each element's
mode. -/
def blockConvert (fmt : Nat) (rm : Nat → Rm) (xs : List Num) : Nat × List Nat × Nat :=
  if 10 ≤ fmt then
    let m := fmt - 8
    if blockBad xs then (255, xs.map fun _ => 0, Flag.nv)
    else
      match blockExp xs with
      | none => (0, xs.map fun _ => 0, 0)
      | some e =>
        let ef := min (max (e + 127) 0) 254
        let els := xs.mapIdx fun i x =>
          match x with
          | .fin n mm ee =>
            let (q, nx) := roundShift (rm i) n mm (-(ee + (m - 2 : Nat) - (ef - 127))) false
            let v : Int := if n then -(q : Int) else q
            let c := min (max v (intMin m)) (intMax m)
            (ofInt m c, if nx || c != v then Flag.nx else 0)
          | _ => (0, 0)
        (ef.toNat, els.map Prod.fst,
          els.foldl (fun a r => a ||| r.2) (if e + 127 > 254 then Flag.of + Flag.nx else 0))
  else
    let f := skF fmt
    let emax : Int := match f.kind with | .ieee => 15 | .e4m3 => 8 | .finite => 2
    if blockBad xs then (255, xs.map fun _ => 0, Flag.nv)
    else
      match blockExp xs with
      | none => (0, xs.map fun x => f.signed x.sign 0, 0)
      | some le =>
        let e := le - emax
        let s := min (max e (-127)) 127 + 127
        let els := xs.mapIdx fun i x =>
          match x with
          | .fin n mm ee => narrow f (rm i) true (.fin n mm (ee - (s - 127)))
          | _ => (0, 0)
        (s.toNat, els.map Prod.fst,
          els.foldl (fun a r => a ||| r.2) (if e > 127 then Flag.of + Flag.nx else 0))

/-! ## W34 cells (09 R212) -/

/-- The exclusive-or of bits i, i + 2, … below 34. -/
def parityFrom (w : Nat) : Nat → Nat → Nat
  | 0, _ => 0
  | n + 1, i => (w / 2 ^ i % 2 + parityFrom w n (i + 2)) % 2
/-- The 36-bit cell of a W34 pattern: PE in [34], PO in [35]. -/
def cellOf (w : Nat) : BitVec 36 :=
  BitVec.ofNat 36 (w + parityFrom w 17 0 * 2 ^ 34 + parityFrom w 17 1 * 2 ^ 35)
/-- The W34 pattern of a cell. -/
def cellValue (c : BitVec 36) : Nat := c.toNat % 2 ^ 34
/-- The check bits of a cell agree with its value. -/
def cellOk (c : BitVec 36) : Bool := c == cellOf (cellValue c)

end Sys2Proof.Machine
end

