-- ==== Sys2Proof/WellFormed.lean ====
section
/-!
DEFINITION. WellFormed.lean: which terms of Instr are instructions of the S9. An encoding whose term fails its check
here is no instruction and raises ILLEGAL_INSTR (10 R226, R229; 12 R272, R286; 13 R288–R292, R297; 14 R317, R323).
An event has no encoding and no fields: every event term is well formed.
-/
namespace Sys2Proof

/-- The float formats are fmt 4–7 (12 R272). -/
def isFloat (fmt : BitVec 3) : Bool := decide (4 ≤ fmt.toNat)

/-- The lane width of fmt in bits (10 R222). -/
def laneBits (fmt : BitVec 3) : Nat :=
  match fmt.toNat with
  | 0 => 64 | 1 => 32 | 2 => 16 | 3 => 8 | 4 => 64 | 5 => 32 | _ => 16

/-- The lane width of fmt in bytes. -/
def laneBytes (fmt : BitVec 3) : Nat := laneBits fmt / 8

/-- The access size of sz in bytes (10 R227). -/
def size (sz : BitVec 3) : Nat := 2 ^ sz.toNat

/-- A core of the package: panel 0–11, logical index 0–195 (00 R3, 02 R65). -/
def coreOk (c : CoreId) : Bool := decide (c.panel < 12 ∧ c.index < 196)

/-- A strand of a core: number 0–10 (06 R139). -/
def strandOk (k : StrandId) : Bool := coreOk k.core && decide (k.num < 11)

/-- The function reads neither operand a nor operand b: their fields are zero (10 R229 rule 3, rule 5). -/
def LaneOps.readsNone (o : LaneOps) : Bool :=
  !o.cb && !o.ib && o.pb == 0 && !o.ia && o.pa == 0

/-- The function reads operand b and not operand a; cb and ib exclude each other (10 R229 rule 5). -/
def LaneOps.readsB (o : LaneOps) : Bool :=
  !(o.cb && o.ib) && !o.ia && o.pa == 0

/-- The function reads operands a and b; one pointer is not post-incremented twice (12 R269). -/
def LaneOps.readsAB (o : LaneOps) : Bool :=
  !(o.cb && o.ib) && !(o.ia && o.ib && o.pa == o.pb)

/-- VCVT TSK: pa names the skein, every other operand field is zero (12 R280). -/
def LaneOps.readsSkein (o : LaneOps) : Bool :=
  !o.cb && !o.ib && o.pb == 0 && !o.ia

/-- rm and sat of an arithmetic result (12 R272, first two rows). -/
def arith (sat : Bool) (rm : BitVec 2) (o : LaneOps) : Bool :=
  if isFloat o.fmt then !sat else rm == 0

/-- rm and sat of an exact result (12 R272, third row). -/
def exact (sat : Bool) (rm : BitVec 2) : Bool := !sat && rm == 0

/-- rm and sat of ABS and NEG (12 R272, R275). -/
def absNeg (sat : Bool) (rm : BitVec 2) (o : LaneOps) : Bool :=
  rm == 0 && (!isFloat o.fmt || !sat)

/-- rm and sat of a conversion into an integer (12 R279). -/
def toInt (sat : Bool) (rm : BitVec 2) (o : LaneOps) : Bool :=
  if isFloat o.fmt then !sat else rm == 0

/-- Every value of fmt is exact in the float format dst (12 R279). -/
def exactInto (fmt : BitVec 3) (dst : Nat) : Bool :=
  match fmt.toNat, dst with
  | 5, 4 => true | 6, 4 => true | 7, 4 => true | 6, 5 => true | 7, 5 => true
  | 3, 4 => true | 3, 5 => true | 3, 6 => true | 3, 7 => true
  | 2, 4 => true | 2, 5 => true
  | 1, 4 => true
  | _, _ => false

/-- The control registers of 11 R252. -/
def csrListed (r : BitVec 12) : Bool :=
  decide (r.toNat ≤ 8 ∨ (16 ≤ r.toNat ∧ r.toNat ≤ 21))

/-- The control registers that CSR writes (11 R252). -/
def csrWritable (r : BitVec 12) : Bool :=
  decide (r.toNat ≤ 4 ∨ r.toNat = 16 ∨ r.toNat = 20)

/-- The term is an instruction, or an event. -/
def Instr.wf : Instr → Bool
  | .bootStart => true
  | .selftestReply => true
  | .selftestReplyTimeout => true
  | .logicalMapBuild => true
  | .discoveryTimeout => true
  | .supervisorImageDelivered => true
  | .deliveryTimeout => true
  | .fwReady => true
  | .fwStartTimeout => true
  | .powerLimitClamp => true
  | .powerLimitRelease => true
  | .thermalClamp => true
  | .thermalClampRelease => true
  | .packageShutdown => true
  | .selfRefreshEnter => true
  | .selfRefreshExit => true
  | .linkFlitReceive => true
  | .linkIdleFlit => true
  | .linkRetryRequest => true
  | .linkRefusal => true
  | .holdQueueResend => true
  | .timeSyncFlit => true
  | .linkManagementFlit => true
  | .linkRetrainDone => true
  | .linkenWrite => true
  | .linkenClearEffect => true
  | .rcmdErase => true
  | .rcmdWrite => true
  | .rcmdRead => true
  | .rcmdReboot => true
  | .rcmdInvalid => true
  | .recoveryCommandDone => true
  | .registerWrite => true
  | .pageShootdown => true
  | .pageShootdownDone => true
  | .flushEpochStart => true
  | .lawTableShootdown => true
  | .lawShootdownDone => true
  | .regionWrite => true
  | .regionSwapDrain => true
  | .regionSwapExchange => true
  | .channelRetireMove => true
  | .regionCounterHalve => true
  | .pageCounterHalve => true
  | .patrolScrub => true
  | .storageError => true
  | .homeAccess => true
  | .ownerRecallAck => true
  | .promotionFillDone => true
  | .fabricReleaseRequest => true
  | .forcedRelease => true
  | .hookRequest => true
  | .hookAddI64 => true
  | .hookAndI64 => true
  | .hookOrI64 => true
  | .hookXorI64 => true
  | .hookMinI64 => true
  | .hookMaxI64 => true
  | .hookMinuI64 => true
  | .hookMaxuI64 => true
  | .hookAddsatI64 => true
  | .hookAddI32 => true
  | .hookMinI32 => true
  | .hookMaxI32 => true
  | .hookFaddRne => true
  | .hookFaddRm => true
  | .hookFmin => true
  | .hookFmax => true
  | .hookSwapI64 => true
  | .hookSwapI32 => true
  | .hookCasI64 => true
  | .hookCasI32 => true
  | .hookQueueClaim => true
  | .hookQueuePublish => true
  | .hookHashProbe => true
  | .hookHashFind => true
  | .hookLawRd => true
  | .hookLawAdd => true
  | .hookLawSet => true
  | .hookLawSwap => true
  | .hookLawLaw => true
  | .hookLawChk => true
  | .hookLoadableRoutine => true
  | .hostWindowRead => true
  | .hostWindowWrite => true
  | .shipgo => true
  | .hostShipReply => true
  | .evconsWrite => true
  | .tenantCreate => true
  | .tenantDestroy => true
  | .queueCreate => true
  | .queueDestroy => true
  | .routineLoad => true
  | .routineReplace => true
  | .attest => true
  | .mailboxInvalid => true
  | .swiftReadSlot => true
  | .recordReady => true
  | .recordAge => true
  | .dispatch => true
  | .taskStart => true
  | .traceDiverge => true
  | .taskComplete => true
  | .patchStatusChange => true
  | .tokenBucketCycle => true
  | .rampMicrosecond => true
  | .corecmdNone => true
  | .corecmdPreempt => true
  | .preemptSaveDone => true
  | .corecmdResume => true
  | .corecmdHalt => true
  | .corecmdHaltQuiet => true
  | .corecmdUnhalt => true
  | .corecmdReject => true
  | .zoneTimeout => true
  | .trmodeWrite => true
  | .swerrRead => true
  | .srcclkWrite => true
  | .sourceSettled => true
  | .pwrctlWrite => true
  | .pwrSequenceDone => true
  | .pwrstatRead => true
  | .droopTrip => true
  | .droopRecover => true
  | .killScrub => true
  | .scrubDone => true
  | .packetArrival => true
  | .packetReply => true
  | .packetRetry => true
  | .reservationExpire => true
  | .requestRetry => true
  | .handlerStart => true
  | .strandWake => true
  | .pauseEnd => true
  | .yieldEnd => true
  | .pagerRetry => true
  | .pagerDeliverTrap => true
  | .pagerTerminate => true
  | .lookaheadCommit => true
  | .ticketFetch => true
  | .ticketFillDone => true
  | .ticketRedeem => true
  | .ticketOrphan => true
  | .landingArrive => true
  | .copySlotRead => true
  | .copyPacketCopy => true
  | .copyPacketCopy2d => true
  | .copyPacketFill => true
  | .copyPacketReduce => true
  | .copyPacketPut => true
  | .copyPacketGet => true
  | .copyPacketComplete => true
  | .matrixLoad => true
  | .matrixMma => true
  | .matrixMrot => true
  | .matrixStore => true
  | .matrixZero => true
  | .matrixMove => true
  | .matrixScale => true
  | .matrixMark => true
  | .mrotLanding => true
  | .hLda o => (!o.ch || !o.inc) && !(o.ch == false && o.k == 0 && o.fmt == 0 && o.inc == false && o.p == 0)
  | .hSta _ _ _ _ => true
  | .hAdd o => !o.ch || !o.inc
  | .hSub o => !o.ch || !o.inc
  | .hRsub o => !o.ch || !o.inc
  | .hMul o => !o.ch || !o.inc
  | .hFma o => !o.ch || !o.inc
  | .hMin o => !o.ch || !o.inc
  | .hMax o => !o.ch || !o.inc
  | .hAnd o => !o.ch || !o.inc
  | .hOr o => !o.ch || !o.inc
  | .hXor o => !o.ch || !o.inc
  | .hShl ch _ inc _ => !ch || !inc
  | .hShra ch _ inc _ => !ch || !inc
  | .hAcc o => !o.ch || !o.inc
  | .hCmplt o => !o.ch || !o.inc
  | .illegalInstruction _ => true
  | .variAdd sat rm o => o.readsB && arith sat rm o
  | .variSub sat rm o => o.readsB && arith sat rm o
  | .variRsub sat rm o => o.readsB && arith sat rm o
  | .variMul sat rm o => o.readsB && arith sat rm o
  | .variFma sat rm o => o.readsAB && arith sat rm o
  | .variFms sat rm o => o.readsAB && arith sat rm o
  | .variFmal sat rm o => o.readsB && arith sat rm o
  | .variMin sat rm o => o.readsB && exact sat rm
  | .variMax sat rm o => o.readsB && exact sat rm
  | .variDiv sat rm o => o.readsB && arith sat rm o && isFloat o.fmt
  | .variSqrt sat rm o => o.readsB && arith sat rm o && isFloat o.fmt
  | .variAbs sat rm o => o.readsNone && absNeg sat rm o
  | .variNeg sat rm o => o.readsNone && absNeg sat rm o
  | .variMov sat rm o => o.readsB && exact sat rm
  | .variMulh sat rm o => o.readsB && exact sat rm && !isFloat o.fmt
  | .variCpysgn sat rm o => o.readsB && exact sat rm && isFloat o.fmt
  | .vbitAnd o => o.readsB && !isFloat o.fmt
  | .vbitOr o => o.readsB && !isFloat o.fmt
  | .vbitXor o => o.readsB && !isFloat o.fmt
  | .vbitAndn o => o.readsB && !isFloat o.fmt
  | .vbitShl o => o.readsB && !isFloat o.fmt
  | .vbitShr o => o.readsB && !isFloat o.fmt
  | .vbitShra o => o.readsB && !isFloat o.fmt
  | .vbitRol o => o.readsB && !isFloat o.fmt
  | .vbitNot o => o.readsNone && !isFloat o.fmt
  | .vbitPopc o => o.readsNone && !isFloat o.fmt
  | .vbitClz o => o.readsNone && !isFloat o.fmt
  | .vcmpEq _ o => o.readsB
  | .vcmpNe _ o => o.readsB
  | .vcmpLt _ o => o.readsB
  | .vcmpLe _ o => o.readsB
  | .vcmpGt _ o => o.readsB
  | .vcmpGe _ o => o.readsB
  | .vcmpUn _ o => o.readsB && isFloat o.fmt
  | .vcmpLtu _ o => o.readsB && !isFloat o.fmt
  | .vcmpLeu _ o => o.readsB && !isFloat o.fmt
  | .vcmpGtu _ o => o.readsB && !isFloat o.fmt
  | .vcmpGeu _ o => o.readsB && !isFloat o.fmt
  | .vcvtTi64 sat rm o => o.readsNone && o.fmt != 0 && toInt sat rm o
  | .vcvtTi32 sat rm o => o.readsNone && o.fmt != 1 && toInt sat rm o
  | .vcvtTi16 sat rm o => o.readsNone && o.fmt != 2 && toInt sat rm o
  | .vcvtTi8 sat rm o => o.readsNone && o.fmt != 3 && toInt sat rm o
  | .vcvtTf64 sat rm o => o.readsNone && o.fmt != 4 && !sat && (rm == 0 || !exactInto o.fmt 4)
  | .vcvtTf32 sat rm o => o.readsNone && o.fmt != 5 && !sat && (rm == 0 || !exactInto o.fmt 5)
  | .vcvtTbf16 sat rm o => o.readsNone && o.fmt != 6 && !sat && (rm == 0 || !exactInto o.fmt 6)
  | .vcvtTf16 sat rm o => o.readsNone && o.fmt != 7 && !sat && (rm == 0 || !exactInto o.fmt 7)
  | .vcvtTe4m3 _ _ o => o.readsNone && isFloat o.fmt
  | .vcvtTe5m2 _ _ o => o.readsNone && isFloat o.fmt
  | .vcvtTe2m1 _ _ o => o.readsNone && isFloat o.fmt
  | .vcvtTsk _ _ o => o.readsSkein
  | .vcvtFe4m3 o => o.readsNone && isFloat o.fmt
  | .vcvtFe5m2 o => o.readsNone && isFloat o.fmt
  | .vcvtFe2m1 o => o.readsNone && isFloat o.fmt
  | .vpermBcast o => o.readsNone
  | .vpermPerm o => o.readsB
  | .vpermSldn o => o.readsAB
  | .vpermSlup o => o.readsAB
  | .vpermZiplo o => o.readsB
  | .vpermZiphi o => o.readsB
  | .vpermUnzev o => o.readsB
  | .vpermUnzod o => o.readsB
  | .vpermCompr o => o.readsB
  | .vpermExpnd o => o.readsB
  | .vpermRev o => o.readsNone
  | .vpermIota o => o.readsNone
  | .vredSum sat rm o => o.readsNone && arith sat rm o
  | .vredMin o => o.readsNone
  | .vredMax o => o.readsNone
  | .vredAcc sat rm o => o.readsB && arith sat rm o
  | .vredDot sat rm o => o.readsAB && arith sat rm o
  | .vredAnd o => o.readsNone && !isFloat o.fmt
  | .vredOr o => o.readsNone && !isFloat o.fmt
  | .vredXor o => o.readsNone && !isFloat o.fmt
  | .vfunExp2 _ o => o.readsNone && (o.fmt == 5 || o.fmt == 6)
  | .vfunLog2 _ o => o.readsNone && (o.fmt == 5 || o.fmt == 6)
  | .vfunSint _ o => o.readsNone && (o.fmt == 5 || o.fmt == 6)
  | .vfunCost _ o => o.readsNone && (o.fmt == 5 || o.fmt == 6)
  | .vfunTanh _ o => o.readsNone && (o.fmt == 5 || o.fmt == 6)
  | .vfunRecip _ o => o.readsNone && (o.fmt == 5 || o.fmt == 6)
  | .vfunRsqrt _ o => o.readsNone && (o.fmt == 5 || o.fmt == 6)
  | .randRaw _ _ _ _ => true
  | .randUnif _ _ _ _ => true
  | .lda o => laneBytes o.fmt ≤ size o.sz && o.ord.toNat < 2
  | .ldaBc o => laneBytes o.fmt = size o.sz && o.ord.toNat < 2
  | .ldaZx o => laneBytes o.fmt ≤ size o.sz && o.ord.toNat < 2
  | .sta o => laneBytes o.fmt ≤ size o.sz && (o.ord == 0 || o.ord == 2)
  | .gathGather o => laneBytes o.fmt = size o.sz && o.ord == 0
  | .gathScatter o => laneBytes o.fmt = size o.sz && o.ord == 0
  | .lineMove _ _ _ _ _ _ _ => true
  | .lineFill _ _ sz _ _ => 3 ≤ sz.toNat
  | .ship _ _ rm n _ => (rm == 0 || n == 13) && !(24 ≤ n.toNat && n.toNat ≤ 29)
  | .tickLd _ _ sz _ => sz != 3
  | .tickRd _ _ _ => true
  | .tickDrop _ _ => true
  | .tickQ _ _ => true
  | .lawoRd _ _ _ => true
  | .lawoAdd _ _ _ => true
  | .lawoSet _ _ _ => true
  | .lawoSwap _ _ _ => true
  | .lawoLaw _ _ _ => true
  | .lawoChk _ _ _ => true
  | .patnSet _ _ _ => true
  | .patnGet _ _ _ => true
  | .patnClr _ _ => true
  | .cachPf2 _ _ _ => true
  | .pf2Notify => true
  | .cachFlush _ _ => true
  | .cachInv _ _ => true
  | .cachSinv _ => true
  | .cachFlushall _ => true
  | .dramPromote _ _ => true
  | .dramPin _ _ => true
  | .dramUnpin _ _ => true
  | .dramDemote _ _ => true
  | .fenc _ _ _ => true
  | .pset n s fld _ => fld != 3 && (fld == 0 || s.toNat < 2) && n.extractLsb' 16 2 != 3
  | .paddImm _ fld _ => fld != 3
  | .paddSh12 _ fld _ => fld != 3
  | .paddStep _ _ => true
  | .pmovMov _ _ _ => true
  | .pmovToa _ _ _ => true
  | .pmovFroma _ _ _ => true
  | .pmovGsv _ _ n m _ => m.toNat ≤ n.toNat
  | .pmovGld _ _ n m _ => m.toNat ≤ n.toNat
  | .pmovZero _ _ => true
  | .pmovGetlink _ _ => true
  | .pmovSetlink _ _ => true
  | .aimmBcast _ _ => true
  | .aimmLane0 _ _ => true
  | .aimmOnly0 _ _ => true
  | .aimmAdd _ _ => true
  | .kopsAnd _ _ _ => true
  | .kopsOr _ _ _ => true
  | .kopsXor _ _ _ => true
  | .kopsAndn _ _ _ => true
  | .kopsNot _ _ => true
  | .kopsMov _ _ => true
  | .kopsSet _ => true
  | .kopsClr _ => true
  | .kopsFirst _ _ => true
  | .kopsFroma _ => true
  | .kopsToa _ => true
  | .kopsPrefix _ _ => true
  | .kopsPopc _ => true
  | .br _ => true
  | .brCall _ => true
  | .brCnz _ _ => true
  | .brCz _ _ => true
  | .brKany _ _ => true
  | .brKnone _ _ => true
  | .brNeg _ => true
  | .brEqz _ => true
  | .brNez _ => true
  | .jumpJr _ => true
  | .jumpJalr _ => true
  | .jumpRet => true
  | .jumpJa => true
  | .jumpJidx _ _ => true
  | .timeRdst => true
  | .timeRddev => true
  | .timeSetst => true
  | .timeAddst => true
  | .timeSyncst => true
  | .csrRd _ rm => csrListed rm
  | .csrWr _ rm => csrWritable rm
  | .csrSetb _ rm => csrWritable rm
  | .csrClrb _ rm => csrWritable rm
  | .csrSkld _ _ _ => true
  | .csrSkst _ _ _ => true
  | .trapSwt _ => true
  | .trapBrk _ => true
  | .trapRet => true
  | .trapRetx => true
  | .trapHalt => true
  | .protFlush => true
  | .protInvd _ => true
  | .protInva _ => true
  | .protRde _ => true
  | .protWre _ => true
  | .ctxsStop n => n.toNat ≤ 10
  | .ctxsSave n _ => n.toNat ≤ 10
  | .ctxsLoad n _ => n.toNat ≤ 10
  | .ctxsGo n => n.toNat ≤ 10
  | .nopsNop => true
  | .nopsPause _ => true
  | .strnStart _ => true
  | .strnEnd => true
  | .strnJoinw h => 1 ≤ h.toNat && h.toNat ≤ 10
  | .strnYield => true
  | .strnStat => true
  | .strnBindh _ _ => true
  | .syncArrive _ _ => true
  | .syncWait _ _ => true
  | .syncArrwt _ _ => true
  | .syncSignal _ => true
  | .syncCwait _ => true
  | .syncCread _ => true
  | .syncCset _ => true
  | .ringAwait _ => true
  | .ringRelease _ => true
  | .ringPost _ => true
  | .ringSlot _ => true
  | .msgSend _ n _ => n.toNat ≤ 16
  | .msgPop _ _ => true
  | .msgPeek _ _ => true
  | .msgBindc _ _ _ _ => true
  | .msgUnbind _ _ => true
  | .msgQuota _ _ _ => true
  | .copyAppend _ _ => true
  | .copyExpect _ _ => true
  | .copyWait _ => true
  | .mtrxSclaim _ => true
  | .mtrxSrel _ _ => true
  | .mtrxWait => true
  | .mtrxStat _ => true
  | .mtrxSeal => true
  | .mtrxCont _ => true
  | .panelWindowRead => true

end Sys2Proof
end

