-- ==== Sys2Proof/Machine/Lanes.lean ====
section
/-!
DEFINITION. Lanes.lean: what the lane operations compute (chapter 12), as functions of strips. A lane is a number
below 2^w. A lane function answers the lane's new pattern and the flags it raises.
-/
namespace Sys2Proof.Machine

/-- Lane i of width w (10 R222). -/
def lane (w : Nat) (x : Strip) (i : Nat) : Nat := x.toNat / 2 ^ (w * i) % 2 ^ w

/-- The number whose n lanes of width w are f 0, f 1, … -/
def packLanes (w : Nat) (f : Nat → Nat) : Nat → Nat
  | 0 => 0
  | n + 1 => packLanes w f n + f n % 2 ^ w * 2 ^ (w * n)

/-- The OR of the flags of n lanes. -/
def orFlags (f : Nat → Nat) : Nat → Nat
  | 0 => 0
  | n + 1 => orFlags f n ||| f n

/-- A strip of n lanes given by f. -/
def ofLanes (w n : Nat) (f : Nat → Nat) : Strip := BitVec.ofNat 1024 (packLanes w f n)

/-- The enabled lanes replaced, the others kept, the flags of the enabled lanes (12 R271). -/
def mapLanes (w : Nat) (g : Nat → Bool) (a : Strip) (f : Nat → Nat × Nat) : Strip × Nat :=
  let n := 1024 / w
  (ofLanes w n fun i => if g i then (f i).1 else lane w a i,
    orFlags (fun i => if g i then (f i).2 else 0) n)

/-- A with lane 0 (of width w) replaced. -/
def setLane0 (w : Nat) (a : Strip) (v : Nat) : Strip :=
  BitVec.ofNat 1024 (a.toNat / 2 ^ w * 2 ^ w + v % 2 ^ w)

/-- A with its i64 lane i replaced. -/
def setLane64 (a : Strip) (i : Nat) (v : W64) : Strip :=
  ofLanes 64 16 fun j => if j = i then v.toNat else lane 64 a j

/-- The i64 lane i. -/
def lane64 (a : Strip) (i : Nat) : W64 := BitVec.ofNat 64 (lane 64 a i)

/-- Bit i of a mask. -/
def Mask.on (m : Mask) (i : Nat) : Bool := m.getLsbD i

/-- The bytes of a strip, byte b at bits [8b + 7 : 8b] (10 R222). -/
def stripBytes (a : Strip) : List Byte := toBytes 128 a.toNat
/-- The strip of at most 128 bytes, zero-padded. -/
def ofStripBytes (bs : List Byte) : Strip := BitVec.ofNat 1024 (ofBytes (bs.take 128))

/-! ## VARI (12 R274, R275) -/

/-- A lane function: format, sat, mode, A[i], a[i], b[i]. -/
abbrev LaneFn := BitVec 3 → Bool → Rm → Nat → Nat → Nat → Nat × Nat

/-- The signed value of a lane. -/
def sval (fmt : BitVec 3) (x : Nat) : Int := toSigned (laneBits fmt) x
/-- The float value of a lane. -/
def fval (fmt : BitVec 3) (x : Nat) : Num := (laneF fmt).decode x
/-- A float result, rounded; or an integer result, wrapped or clamped. -/
def result (fmt : BitVec 3) (sat : Bool) (rm : Rm) (e : Unit → Exact) (v : Unit → Int) : Nat × Nat :=
  if isFloat fmt then (e ()).round (laneF fmt) rm else intResult (laneBits fmt) sat (v ())

/-- ADD -/
def laneAdd : LaneFn := fun fmt sat rm a _ b =>
  result fmt sat rm (fun _ => (fval fmt a).add (rm == .down) (fval fmt b)) (fun _ => sval fmt a + sval fmt b)
/-- SUB -/
def laneSub : LaneFn := fun fmt sat rm a _ b =>
  result fmt sat rm (fun _ => (fval fmt a).add (rm == .down) (fval fmt b).neg) (fun _ => sval fmt a - sval fmt b)
/-- RSUB -/
def laneRsub : LaneFn := fun fmt sat rm a x b => laneSub fmt sat rm b x a
/-- MUL -/
def laneMul : LaneFn := fun fmt sat rm a _ b =>
  result fmt sat rm (fun _ => (fval fmt a).mul (fval fmt b)) (fun _ => sval fmt a * sval fmt b)
/-- FMA -/
def laneFma : LaneFn := fun fmt sat rm a x b =>
  result fmt sat rm (fun _ => Num.fma (rm == .down) (fval fmt a) (fval fmt x) (fval fmt b))
    (fun _ => sval fmt a + sval fmt x * sval fmt b)
/-- FMS -/
def laneFms : LaneFn := fun fmt sat rm a x b =>
  result fmt sat rm (fun _ => Num.fma (rm == .down) (fval fmt a) (fval fmt x).neg (fval fmt b))
    (fun _ => sval fmt a - sval fmt x * sval fmt b)
/-- MIN -/
def laneMin : LaneFn := fun fmt _ _ a _ b =>
  if isFloat fmt then minMaxNumber (laneF fmt) false a b else (if sval fmt a ≤ sval fmt b then a else b, 0)
/-- MAX -/
def laneMax : LaneFn := fun fmt _ _ a _ b =>
  if isFloat fmt then minMaxNumber (laneF fmt) true a b else (if sval fmt a ≥ sval fmt b then a else b, 0)
/-- DIV -/
def laneDiv : LaneFn := fun fmt _ rm a _ b =>
  let (e, fl) := (fval fmt a).div (fval fmt b)
  let (v, fl2) := e.round (laneF fmt) rm
  (v, fl ||| fl2)
/-- SQRT -/
def laneSqrt : LaneFn := fun fmt _ rm _ _ b => (fval fmt b).sqrt.round (laneF fmt) rm
/-- A float sign operation on A: a NaN gives the canonical NaN, signalling sets invalid (12 R275). -/
def signOp (fmt : BitVec 3) (a : Nat) (neg : Bool) : Nat × Nat :=
  let f := laneF fmt
  match f.decode a with
  | .nan s => (f.nan, if s then Flag.nv else 0)
  | _ => (f.signed neg (a % f.signBit), 0)
/-- ABS -/
def laneAbs : LaneFn := fun fmt sat _ a _ _ =>
  if isFloat fmt then signOp fmt a false else intResult (laneBits fmt) sat (sval fmt a).natAbs
/-- NEG -/
def laneNeg : LaneFn := fun fmt sat _ a _ _ =>
  if isFloat fmt then signOp fmt a (!(fval fmt a).sign) else intResult (laneBits fmt) sat (-(sval fmt a))
/-- MOV -/
def laneMov : LaneFn := fun _ _ _ _ _ b => (b, 0)
/-- MULH -/
def laneMulh : LaneFn := fun fmt _ _ a _ b =>
  (ofInt (laneBits fmt) ((sval fmt a * sval fmt b) / (2 ^ laneBits fmt : Nat)), 0)
/-- CPYSGN: either operand may be a signalling NaN (09 R204; log 34). -/
def laneCpysgn : LaneFn := fun fmt _ _ a _ b =>
  let r := signOp fmt a (b / (laneF fmt).signBit % 2 == 1)
  (r.1, r.2 ||| if ((laneF fmt).decode b).snan then Flag.nv else 0)

/-! ## VBIT (12 R276) -/

/-- AND -/
def laneAnd : LaneFn := fun _ _ _ a _ b => (a &&& b, 0)
/-- OR -/
def laneOr : LaneFn := fun _ _ _ a _ b => (a ||| b, 0)
/-- XOR -/
def laneXor : LaneFn := fun _ _ _ a _ b => (a ^^^ b, 0)
/-- ANDN -/
def laneAndn : LaneFn := fun fmt _ _ a _ b => (a &&& (2 ^ laneBits fmt - 1 - b), 0)
/-- SHL -/
def laneShl : LaneFn := fun fmt _ _ a _ b => (a * 2 ^ (b % laneBits fmt) % 2 ^ laneBits fmt, 0)
/-- SHR -/
def laneShr : LaneFn := fun fmt _ _ a _ b => (a / 2 ^ (b % laneBits fmt), 0)
/-- SHRA -/
def laneShra : LaneFn := fun fmt _ _ a _ b => (ofInt (laneBits fmt) (sval fmt a / (2 ^ (b % laneBits fmt) : Nat)), 0)
/-- ROL -/
def laneRol : LaneFn := fun fmt _ _ a _ b =>
  let w := laneBits fmt
  let c := b % w
  (a * 2 ^ c % 2 ^ w + a / 2 ^ (w - c), 0)
/-- NOT -/
def laneNot : LaneFn := fun fmt _ _ a _ _ => (2 ^ laneBits fmt - 1 - a, 0)
/-- The set bits among the low n bits. -/
def countBits (x : Nat) : Nat → Nat
  | 0 => 0
  | n + 1 => countBits x n + x / 2 ^ n % 2
/-- POPC -/
def lanePopc : LaneFn := fun fmt _ _ a _ _ => (countBits a (laneBits fmt), 0)
/-- CLZ -/
def laneClz : LaneFn := fun fmt _ _ a _ _ =>
  (if a = 0 then laneBits fmt else laneBits fmt - 1 - Nat.log2 a, 0)

/-! ## VCMP (12 R277) -/

/-- A relation: format, A[i], b[i] to truth and flags. -/
abbrev CmpFn := BitVec 3 → Nat → Nat → Bool × Nat

/-- A float relation that is false on a NaN; ordered relations are invalid on any NaN. -/
def floatCmp (fmt : BitVec 3) (a b : Nat) (ordered : Bool) (onNan : Bool) (r : Num → Num → Bool) : Bool × Nat :=
  let x := fval fmt a
  let y := fval fmt b
  let nan := x.isNan || y.isNan
  (if nan then onNan else r x y, if (ordered && nan) || x.snan || y.snan then Flag.nv else 0)

/-- EQ -/
def cmpEq : CmpFn := fun fmt a b => if isFloat fmt then floatCmp fmt a b false false Num.eqv else (a == b, 0)
/-- NE -/
def cmpNe : CmpFn := fun fmt a b => if isFloat fmt then floatCmp fmt a b false true (fun x y => !x.eqv y) else (a != b, 0)
/-- LT -/
def cmpLt : CmpFn := fun fmt a b =>
  if isFloat fmt then floatCmp fmt a b true false Num.lt else (decide (sval fmt a < sval fmt b), 0)
/-- LE -/
def cmpLe : CmpFn := fun fmt a b =>
  if isFloat fmt then floatCmp fmt a b true false (fun x y => !y.lt x) else (decide (sval fmt a ≤ sval fmt b), 0)
/-- GT -/
def cmpGt : CmpFn := fun fmt a b =>
  if isFloat fmt then floatCmp fmt a b true false (fun x y => y.lt x) else (decide (sval fmt b < sval fmt a), 0)
/-- GE -/
def cmpGe : CmpFn := fun fmt a b =>
  if isFloat fmt then floatCmp fmt a b true false (fun x y => !x.lt y) else (decide (sval fmt b ≤ sval fmt a), 0)
/-- UN -/
def cmpUn : CmpFn := fun fmt a b => floatCmp fmt a b false true (fun _ _ => false)
/-- LTU -/
def cmpLtu : CmpFn := fun _ a b => (decide (a < b), 0)
/-- LEU -/
def cmpLeu : CmpFn := fun _ a b => (decide (a ≤ b), 0)
/-- GTU -/
def cmpGtu : CmpFn := fun _ a b => (decide (b < a), 0)
/-- GEU -/
def cmpGeu : CmpFn := fun _ a b => (decide (b ≤ a), 0)

/-- The mask with the enabled bits replaced and the others kept (12 R277). -/
def cmpMask (w : Nat) (g : Nat → Bool) (old : Mask) (f : Nat → Bool) : Mask :=
  BitVec.ofNat 128 (packLanes 1 (fun i => if (if i < 1024 / w && g i then f i else old.getLsbD i) then 1 else 0) 128)

/-! ## VCVT (12 R278–R280) -/

/-- The value of a source lane of any format. -/
def srcValue (fmt : BitVec 3) (x : Nat) : Num :=
  if isFloat fmt then fval fmt x
  else .fin (decide (sval fmt x < 0)) (sval fmt x).natAbs 0

/-- Source elements of width ws converted into target elements of width wt (12 R278): f answers element i. -/
def convertLanes (ws wt : Nat) (g : Nat → Bool) (a : Strip) (f : Nat → Nat → Nat × Nat) : Strip × Nat :=
  let ns := 1024 / ws
  let m := min ns (1024 / wt)
  (BitVec.ofNat 1024 (packLanes wt (fun i => if g i then (f i (lane ws a i)).1 else lane wt a i) m +
      (if ns * wt < 1024 then 0 else a.toNat / 2 ^ (wt * m) * 2 ^ (wt * m))),
    orFlags (fun i => if g i then (f i (lane ws a i)).2 else 0) m)

/-- Into an integer format of width w (12 R279, fn 0–3). -/
def cvtInt (w : Nat) (fmt : BitVec 3) (sat : Bool) (rm : Rm) (x : Nat) : Nat × Nat :=
  if isFloat fmt then (fval fmt x).exact.toInt w rm else intResult w sat (sval fmt x)

/-- Into a float format (12 R279, fn 4–7); a signalling NaN is invalid. -/
def cvtFloat (f : FFmt) (fmt : BitVec 3) (rm : Rm) (x : Nat) : Nat × Nat := (srcValue fmt x).exact.round f rm

/-- From a narrow format, exactly and without flags (12 R279, fn 12–14). -/
def cvtFrom (src : FFmt) (fmt : BitVec 3) (x : Nat) : Nat := ((src.decode x).exact.round (laneF fmt) .ne).1

/-! ## Bounds (05 R129) -/

/-- The value of a format next at or above (up) or at or below x, where there is one: its pattern. A finite x beyond the finite
range of a format with infinities has the infinity of its sign on its far side (09 R206). -/
def snap (fmt scale : Nat) (up : Bool) (x : Num) : Option Nat :=
  let rm := if up then Rm.up else Rm.down
  if skInt fmt || (10 ≤ fmt && fmt ≤ 16) then
    let w := skBits fmt
    if skScaled fmt && scale == 255 then none
    else
      let e0 : Int := if skInt fmt then 0 else (scale : Int) - 127 - (fmt - 8 - 2 : Nat)
      match x with
      | .nan _ => none
      | .inf n => if n == up then some (ofInt w (if up then intMin w else intMax w)) else none
      | .fin n m e =>
        let (q, _) := roundShift rm n m (e0 - e) false
        let v : Int := if n then -(q : Int) else q
        if up then (if v > intMax w then none else some (ofInt w (max v (intMin w))))
        else (if v < intMin w then none else some (ofInt w (min v (intMax w))))
  else if skScaled fmt && scale == 255 then none
  else
    let f := skF fmt
    let sh : Int := if skScaled fmt then (scale : Int) - 127 else 0
    match x with
    | .nan _ => none
    | .inf n =>
      if f.kind == .ieee && !skScaled fmt then some (f.infinity n)
      else if n == up then some (f.signed n f.maxMag) else none
    | .fin n m e =>
      if m = 0 then some (f.signed n 0)
      else
        let r := roundMag f rm n m (e - sh) false
        if r.tooBig then
          if n == up then some (f.signed n f.maxMag)
          else if f.kind == .ieee && !skScaled fmt then some (f.infinity n) else none
        else some (f.signed n (f.pack r))

/-- x ≤ y, neither a NaN. -/
def Num.le (x y : Num) : Bool := !x.isNan && !y.isNan && !y.lt x

/-- An element outside [lo, hi] (05 R129). -/
def outside (lo hi x : Num) : Bool := x.isNan || x.lt lo || hi.lt x

/-- What the bound policy leaves of the elements of one write-back. -/
inductive Bounded where
  /-- the elements to write, and whether flag or clamp acted -/
  | write (els : List Nat) (acted : Bool)
  /-- trap, or replay that fails again: nothing is written -/
  | trap
  /-- SKEIN_INVALID: nothing is written -/
  | invalid
  deriving DecidableEq, Repr

/-- The bound policy pol on the checked elements (05 R129); each element with its block scale and whether it is
checked. A replay re-executes its producer from unchanged sources, so it finds the same elements. -/
def bounds (pol fmt : Nat) (lo hi : Num) (els : List (Nat × Nat × Bool)) : Bounded :=
  let out := fun (e : Nat × Nat × Bool) => e.2.2 && outside lo hi (skValue fmt e.2.1 e.1)
  if pol = 0 then .write (els.map Prod.fst) false
  else if pol > 4 || lo.isNan || hi.isNan || hi.lt lo then .invalid
  else if !els.any out then .write (els.map Prod.fst) false
  else
    match pol with
    | 1 => .write (els.map Prod.fst) true
    | 2 =>
      let fix := els.map fun e =>
        if out e then
          let v := skValue fmt e.2.1 e.1
          let c := if hi.lt v then snap fmt e.2.1 false hi else snap fmt e.2.1 true lo
          match c with
          | some b => if lo.le (skValue fmt e.2.1 b) && (skValue fmt e.2.1 b).le hi then some b else none
          | none => none
        else some e.1
      if fix.any Option.isNone then .invalid else .write (fix.map fun x => x.getD 0) true
    | _ => .trap

/-! ## Fields of a skein image (09 R217) -/

/-- Bits [lo + n − 1 : lo] of a record. -/
def recBits (r : BitVec 512) (lo n : Nat) : Nat := r.toNat / 2 ^ lo % 2 ^ n
/-- FMT -/
def skFmt (r : BitVec 512) : Nat := recBits r 352 5
/-- POL -/
def skPol (r : BitVec 512) : Nat := recBits r 357 3
/-- DORG -/
def skDorg (r : BitVec 512) : Nat := recBits r 360 3
/-- NDIM -/
def skNdim (r : BitVec 512) : Nat := recBits r 363 2
/-- LO -/
def skLo (r : BitVec 512) : Num := f32.decode (recBits r 288 32)
/-- HI -/
def skHi (r : BitVec 512) : Num := f32.decode (recBits r 320 32)
/-- Extent of dimension i. -/
def skExt (r : BitVec 512) (i : Nat) : Nat := recBits r (128 + 16 * i) 16 + 1
/-- Stride of dimension i, 1–3. -/
def skStr (r : BitVec 512) (i : Nat) : Int := toSigned 32 (recBits r (160 + 32 * i) 32)
/-- BASE -/
def skBase (r : BitVec 512) : Nat := recBits r 0 64
/-- SBASE -/
def skSbase (r : BitVec 512) : Nat := recBits r 64 64

/-- What VCVT TSK leaves: A and flags, or a fault (12 R280). -/
inductive TskResult where
  | ok (a : Strip) (flags : Nat)
  | bound
  | invalid
  deriving DecidableEq, Repr

/-- VCVT TSK (12 R280): the lanes of A through skein sk. -/
def tsk (sk : BitVec 512) (fmt : BitVec 3) (sat : Bool) (code row : Nat) (g : Nat → Bool) (a : Strip) : TskResult :=
  let t := skFmt sk
  let ws := laneBits fmt
  let wt := skBits t
  let ns := 1024 / ws
  let m := min ns (1024 / wt)
  if skReserved t then .invalid
  else if skScaled t then
    if fmt != 5 then .invalid
    else
      let xs := (List.range 32).map fun i => if g i then fval fmt (lane 32 a i) else .fin false 0 0
      let (s, els, fl) := blockConvert t (fun i => modeOf code wt row i) xs
      match bounds (skPol sk) t (skLo sk) (skHi sk) (els.mapIdx fun i e => (e, s, g i)) with
      | .trap => .bound
      | .invalid => .invalid
      | .write es acted =>
        .ok (BitVec.ofNat 1024 (packLanes wt (fun i => if g i then es.getD i 0 else 0) 32 + s * 2 ^ 1016))
          (fl ||| if acted then Flag.bound else 0)
  else
    let conv := fun i =>
      if skInt t then
        if isFloat fmt then (fval fmt (lane ws a i)).exact.toInt wt (modeOf code wt row i)
        else intResult wt sat (sval fmt (lane ws a i))
      else skConvert t (modeOf code wt row i) sat (srcValue fmt (lane ws a i))
    let idx := List.range m
    match bounds (skPol sk) t (skLo sk) (skHi sk) (idx.map fun i => ((conv i).1, 0, g i)) with
    | .trap => .bound
    | .invalid => .invalid
    | .write es acted =>
      let (r, fl) := convertLanes ws wt g a fun i _ => (es.getD i 0, (conv i).2)
      .ok r (fl ||| if acted then Flag.bound else 0)

/-! ## VPERM (12 R281) -/

/-- The lanes of the guard among the first n, ascending. -/
def enabled (g : Nat → Bool) (n : Nat) : List Nat := (List.range n).filter g
/-- How many lanes below i the guard enables. -/
def rank (g : Nat → Bool) (i : Nat) : Nat := (enabled g i).length

/-- BCAST -/
def permBcast (w : Nat) (g : Nat → Bool) (a : Strip) : Strip := (mapLanes w g a fun _ => (lane w a 0, 0)).1
/-- PERM -/
def permPerm (w : Nat) (g : Nat → Bool) (a b : Strip) : Strip :=
  (mapLanes w g a fun i => (lane w a (lane w b i % (1024 / w)), 0)).1
/-- SLDN -/
def permSldn (w s : Nat) (g : Nat → Bool) (a b : Strip) : Strip :=
  (mapLanes w g a fun i =>
    (if i + s < 1024 / w then lane w a (i + s) else lane w b (i + s - 1024 / w), 0)).1
/-- SLUP -/
def permSlup (w s : Nat) (g : Nat → Bool) (a b : Strip) : Strip :=
  (mapLanes w g a fun i => (if s ≤ i then lane w a (i - s) else lane w b (1024 / w + i - s), 0)).1
/-- ZIPLO (hi = 0) and ZIPHI (hi = n/2) -/
def permZip (w hi : Nat) (g : Nat → Bool) (a b : Strip) : Strip :=
  (mapLanes w g a fun i => (if i % 2 = 0 then lane w a (i / 2 + hi) else lane w b (i / 2 + hi), 0)).1
/-- UNZEV (odd = 0) and UNZOD (odd = 1) -/
def permUnz (w odd : Nat) (g : Nat → Bool) (a b : Strip) : Strip :=
  let h := 1024 / w / 2
  (mapLanes w g a fun i => (if i < h then lane w a (2 * i + odd) else lane w b (2 * (i - h) + odd), 0)).1
/-- COMPR -/
def permCompr (w : Nat) (g : Nat → Bool) (b : Strip) : Strip :=
  let n := 1024 / w
  let es := enabled g n
  ofLanes w n fun i => if i < es.length then lane w b (es.getD i 0) else 0
/-- EXPND -/
def permExpnd (w : Nat) (g : Nat → Bool) (a b : Strip) : Strip :=
  (mapLanes w g a fun i => (lane w b (rank g i), 0)).1
/-- REV -/
def permRev (w : Nat) (g : Nat → Bool) (a : Strip) : Strip :=
  (mapLanes w g a fun i => (lane w a (1024 / w - 1 - i), 0)).1
/-- IOTA -/
def permIota (fmt : BitVec 3) (g : Nat → Bool) (a : Strip) : Strip :=
  (mapLanes (laneBits fmt) g a fun i =>
    (if isFloat fmt then ((Exact.val false i 0 false).round (laneF fmt) .ne).1 else i, 0)).1

/-! ## VRED (09 R216, 12 R282) -/

/-- One level of the tree: node i of a pair (x, y); ε is none. -/
def treeLevel (op : Nat → Nat → Nat → Nat × Nat) : Nat → List (Option Nat) → List (Option Nat) × Nat
  | i, x :: y :: r =>
    let (rest, fl) := treeLevel op (i + 1) r
    match x, y with
    | none, z => (z :: rest, fl)
    | some u, none => (some u :: rest, fl)
    | some u, some v =>
      let (z, f) := op i u v
      (some z :: rest, fl ||| f)
  | _, l => (l, 0)

/-- The tree of 09 R216: root (ε as none) and flags; fuel is the number of levels. -/
def tree (op : Nat → Nat → Nat → Nat × Nat) : Nat → List (Option Nat) → Option Nat × Nat
  | 0, l => (l.headD none, 0)
  | f + 1, l =>
    let (l2, fl) := treeLevel op 0 l
    let (r, fl2) := tree op f l2
    (r, fl ||| fl2)

/-- The enabled lanes of a strip as leaves. -/
def leaves (w : Nat) (g : Nat → Bool) (f : Nat → Nat) : List (Option Nat) :=
  (List.range (1024 / w)).map fun i => if g i then some (f i) else none

/-- The number of levels for n lanes. -/
def levels (w : Nat) : Nat := Nat.log2 (1024 / w)

/-- The largest integer pattern of a format, or +∞. -/
def topValue (fmt : BitVec 3) : Nat :=
  if isFloat fmt then (laneF fmt).infinity false else ofInt (laneBits fmt) (intMax (laneBits fmt))
/-- The least integer pattern of a format, or −∞. -/
def bottomValue (fmt : BitVec 3) : Nat :=
  if isFloat fmt then (laneF fmt).infinity true else ofInt (laneBits fmt) (intMin (laneBits fmt))

/-! ## RAND (12 R284) -/

/-- One Philox4x32 round. -/
def philoxRound (c : Nat × Nat × Nat × Nat) (q0 q1 : Nat) : Nat × Nat × Nat × Nat :=
  let p0 := 0xD2511F53 * c.1
  let p1 := 0xCD9E8D57 * c.2.2.1
  let m := 2 ^ 32
  ((p1 / m) ^^^ c.2.1 ^^^ q0, p1 % m, (p0 / m) ^^^ c.2.2.2 ^^^ q1, p0 % m)

/-- n further rounds, the key bumped after each. -/
def philoxFrom (c : Nat × Nat × Nat × Nat) (q0 q1 : Nat) : Nat → Nat × Nat × Nat × Nat
  | 0 => c
  | n + 1 => philoxFrom (philoxRound c q0 q1) ((q0 + 0x9E3779B9) % 2 ^ 32) ((q1 + 0xBB67AE85) % 2 ^ 32) n

/-- Philox4x32-10: word j of the block for these counter words and key. -/
def philox (c0 c1 c2 c3 key : Nat) (j : Nat) : Nat :=
  let r := philoxFrom (c0, c1, c2, c3) (key % 2 ^ 32) (key / 2 ^ 32 % 2 ^ 32) 10
  match j with
  | 0 => r.1
  | 1 => r.2.1
  | 2 => r.2.2.1
  | _ => r.2.2.2

/-- Word i (0–31) of the random strip of A. -/
def randWord (a : Strip) (key i : Nat) : Nat :=
  let g := i / 4
  philox (lane 32 a (4 * g)) (lane 32 a (4 * g + 1)) (lane 32 a (4 * g + 2)) (lane 32 a (4 * g + 3)) key (i % 4)

/-- (word >> 8) × 2^−24 in f32, exactly. -/
def unif (word : Nat) : Nat := ((Exact.val false (word / 256) (-24) false).round f32 .ne).1

/-! ## AIMM (11 R246) -/

/-- The constant of AIMM: fld 0 i64, 1 i32, 2 f64, 3 f32. -/
def aimmConst (fld : BitVec 2) (n : BitVec 18) : Nat :=
  match fld.toNat with
  | 0 => (n.signExtend 64).toNat
  | 1 => (n.signExtend 32).toNat
  | 2 => n.toNat * 2 ^ 46
  | _ => n.toNat * 2 ^ 14

/-- The lane width of an AIMM format. -/
def aimmWidth (fld : BitVec 2) : Nat := if fld.toNat % 2 = 0 then 64 else 32

end Sys2Proof.Machine
end

