-- ==== Sys2Proof/Decode.lean ====
section
/-!
DEFINITION. Decode.lean: from the bytes at the program counter to an instruction, or a rejection by name
(10 R223–R229), and the encoder from the same tables. Instructions are little-endian 16-bit parcels; bit 0 of the
first parcel gives the length. Fields are pulled out here and nowhere else.
-/
namespace Sys2Proof

/-- Why bytes are no instruction. -/
inductive DecodeError where
  /-- fewer bytes than the instruction has parcels -/
  | truncated
  /-- a 16-bit encoding that is not an instruction (10 R226) -/
  | badParcel
  /-- a 32-bit encoding of an unlisted major or function, or with a non-zero must-be-zero field
  (10 R229 rules 1, 2, 3, 6, 7) -/
  | badWord
  /-- a field holds a value its instruction does not take (10 R229 rules 4, 5; R226) -/
  | badField (i : Instr)
  deriving DecidableEq, Repr

/-- Bits [lo + n − 1 : lo] of w. -/
def field (w lo n : Nat) : BitVec n := BitVec.ofNat n (w / 2 ^ lo)
/-- Bit lo of w. -/
def flag (w lo : Nat) : Bool := w / 2 ^ lo % 2 == 1
/-- A flag as a bit. -/
def bit (b : Bool) : Nat := if b then 1 else 0

/-- The fields of format H (10 R225). -/
def hOps (w : Nat) : HOps :=
  { ch := flag w 13, k := field w 11 2, fmt := field w 9 2, inc := flag w 8, p := field w 5 3 }
/-- The guard, format and operand fields of format V (10 R227). -/
def laneOps (w : Nat) : LaneOps :=
  { k := field w 19 2, fmt := field w 16 3, cb := flag w 15, ib := flag w 14, pb := field w 11 3,
    ia := flag w 10, pa := field w 7 3 }
/-- The fields of format M (10 R227) but for fn7. -/
def memOps (w : Nat) : MemOps :=
  { la := field w 28 4, k := field w 19 2, fmt := field w 16 3, ord := field w 14 2, sz := field w 11 3,
    ip := flag w 10, p := field w 7 3 }

/-- Format H (10 R225): op in [4:1], [15:14] zero. -/
def decodeH (w : Nat) : Option Instr :=
  match w / 2 ^ 1 % 2 ^ 4 with
  | 0 => if w / 2 ^ 14 % 2 ^ 2 = 0 then some (.hLda (hOps w)) else none
  | 1 => if w / 2 ^ 13 % 2 ^ 3 = 0 then some (.hSta (field w 11 2) (field w 9 2) (flag w 8) (field w 5 3)) else none
  | 2 => if w / 2 ^ 14 % 2 ^ 2 = 0 then some (.hAdd (hOps w)) else none
  | 3 => if w / 2 ^ 14 % 2 ^ 2 = 0 then some (.hSub (hOps w)) else none
  | 4 => if w / 2 ^ 14 % 2 ^ 2 = 0 then some (.hRsub (hOps w)) else none
  | 5 => if w / 2 ^ 14 % 2 ^ 2 = 0 then some (.hMul (hOps w)) else none
  | 6 => if w / 2 ^ 14 % 2 ^ 2 = 0 then some (.hFma (hOps w)) else none
  | 7 => if w / 2 ^ 14 % 2 ^ 2 = 0 then some (.hMin (hOps w)) else none
  | 8 => if w / 2 ^ 14 % 2 ^ 2 = 0 then some (.hMax (hOps w)) else none
  | 9 => if w / 2 ^ 14 % 2 ^ 2 = 0 then some (.hAnd (hOps w)) else none
  | 10 => if w / 2 ^ 14 % 2 ^ 2 = 0 then some (.hOr (hOps w)) else none
  | 11 => if w / 2 ^ 14 % 2 ^ 2 = 0 then some (.hXor (hOps w)) else none
  | 12 => if w / 2 ^ 9 % 2 ^ 2 = 3 ∧ w / 2 ^ 14 % 2 ^ 2 = 0 then some (.hShl (flag w 13) (field w 11 2) (flag w 8) (field w 5 3)) else none
  | 13 => if w / 2 ^ 9 % 2 ^ 2 = 3 ∧ w / 2 ^ 14 % 2 ^ 2 = 0 then some (.hShra (flag w 13) (field w 11 2) (flag w 8) (field w 5 3)) else none
  | 14 => if w / 2 ^ 14 % 2 ^ 2 = 0 then some (.hAcc (hOps w)) else none
  | 15 => if w / 2 ^ 14 % 2 ^ 2 = 0 then some (.hCmplt (hOps w)) else none
  | _ => none

/-- Major 1 VARI (10 R228). -/
def decodeVari (w : Nat) : Option Instr :=
  match w / 2 ^ 24 % 2 ^ 4 with
  | 0 => if w / 2 ^ 28 % 2 ^ 4 = 0 then some (.variAdd (flag w 23) (field w 21 2) (laneOps w)) else none
  | 1 => if w / 2 ^ 28 % 2 ^ 4 = 0 then some (.variSub (flag w 23) (field w 21 2) (laneOps w)) else none
  | 2 => if w / 2 ^ 28 % 2 ^ 4 = 0 then some (.variRsub (flag w 23) (field w 21 2) (laneOps w)) else none
  | 3 => if w / 2 ^ 28 % 2 ^ 4 = 0 then some (.variMul (flag w 23) (field w 21 2) (laneOps w)) else none
  | 4 => if w / 2 ^ 28 % 2 ^ 4 = 0 then some (.variFma (flag w 23) (field w 21 2) (laneOps w)) else none
  | 5 => if w / 2 ^ 28 % 2 ^ 4 = 0 then some (.variFms (flag w 23) (field w 21 2) (laneOps w)) else none
  | 6 => if w / 2 ^ 28 % 2 ^ 4 = 0 then some (.variFmal (flag w 23) (field w 21 2) (laneOps w)) else none
  | 7 => if w / 2 ^ 28 % 2 ^ 4 = 0 then some (.variMin (flag w 23) (field w 21 2) (laneOps w)) else none
  | 8 => if w / 2 ^ 28 % 2 ^ 4 = 0 then some (.variMax (flag w 23) (field w 21 2) (laneOps w)) else none
  | 9 => if w / 2 ^ 28 % 2 ^ 4 = 0 then some (.variDiv (flag w 23) (field w 21 2) (laneOps w)) else none
  | 10 => if w / 2 ^ 28 % 2 ^ 4 = 0 then some (.variSqrt (flag w 23) (field w 21 2) (laneOps w)) else none
  | 11 => if w / 2 ^ 28 % 2 ^ 4 = 0 then some (.variAbs (flag w 23) (field w 21 2) (laneOps w)) else none
  | 12 => if w / 2 ^ 28 % 2 ^ 4 = 0 then some (.variNeg (flag w 23) (field w 21 2) (laneOps w)) else none
  | 13 => if w / 2 ^ 28 % 2 ^ 4 = 0 then some (.variMov (flag w 23) (field w 21 2) (laneOps w)) else none
  | 14 => if w / 2 ^ 28 % 2 ^ 4 = 0 then some (.variMulh (flag w 23) (field w 21 2) (laneOps w)) else none
  | 15 => if w / 2 ^ 28 % 2 ^ 4 = 0 then some (.variCpysgn (flag w 23) (field w 21 2) (laneOps w)) else none
  | _ => none

/-- Major 2 VBIT (10 R228). -/
def decodeVbit (w : Nat) : Option Instr :=
  match w / 2 ^ 24 % 2 ^ 4 with
  | 0 => if w / 2 ^ 21 % 2 ^ 3 = 0 ∧ w / 2 ^ 28 % 2 ^ 4 = 0 then some (.vbitAnd (laneOps w)) else none
  | 1 => if w / 2 ^ 21 % 2 ^ 3 = 0 ∧ w / 2 ^ 28 % 2 ^ 4 = 0 then some (.vbitOr (laneOps w)) else none
  | 2 => if w / 2 ^ 21 % 2 ^ 3 = 0 ∧ w / 2 ^ 28 % 2 ^ 4 = 0 then some (.vbitXor (laneOps w)) else none
  | 3 => if w / 2 ^ 21 % 2 ^ 3 = 0 ∧ w / 2 ^ 28 % 2 ^ 4 = 0 then some (.vbitAndn (laneOps w)) else none
  | 4 => if w / 2 ^ 21 % 2 ^ 3 = 0 ∧ w / 2 ^ 28 % 2 ^ 4 = 0 then some (.vbitShl (laneOps w)) else none
  | 5 => if w / 2 ^ 21 % 2 ^ 3 = 0 ∧ w / 2 ^ 28 % 2 ^ 4 = 0 then some (.vbitShr (laneOps w)) else none
  | 6 => if w / 2 ^ 21 % 2 ^ 3 = 0 ∧ w / 2 ^ 28 % 2 ^ 4 = 0 then some (.vbitShra (laneOps w)) else none
  | 7 => if w / 2 ^ 21 % 2 ^ 3 = 0 ∧ w / 2 ^ 28 % 2 ^ 4 = 0 then some (.vbitRol (laneOps w)) else none
  | 8 => if w / 2 ^ 21 % 2 ^ 3 = 0 ∧ w / 2 ^ 28 % 2 ^ 4 = 0 then some (.vbitNot (laneOps w)) else none
  | 9 => if w / 2 ^ 21 % 2 ^ 3 = 0 ∧ w / 2 ^ 28 % 2 ^ 4 = 0 then some (.vbitPopc (laneOps w)) else none
  | 10 => if w / 2 ^ 21 % 2 ^ 3 = 0 ∧ w / 2 ^ 28 % 2 ^ 4 = 0 then some (.vbitClz (laneOps w)) else none
  | _ => none

/-- Major 3 VCMP (10 R228). -/
def decodeVcmp (w : Nat) : Option Instr :=
  match w / 2 ^ 24 % 2 ^ 4 with
  | 0 => if w / 2 ^ 21 % 2 ^ 3 = 0 ∧ w / 2 ^ 30 % 2 ^ 2 = 0 then some (.vcmpEq (field w 28 2) (laneOps w)) else none
  | 1 => if w / 2 ^ 21 % 2 ^ 3 = 0 ∧ w / 2 ^ 30 % 2 ^ 2 = 0 then some (.vcmpNe (field w 28 2) (laneOps w)) else none
  | 2 => if w / 2 ^ 21 % 2 ^ 3 = 0 ∧ w / 2 ^ 30 % 2 ^ 2 = 0 then some (.vcmpLt (field w 28 2) (laneOps w)) else none
  | 3 => if w / 2 ^ 21 % 2 ^ 3 = 0 ∧ w / 2 ^ 30 % 2 ^ 2 = 0 then some (.vcmpLe (field w 28 2) (laneOps w)) else none
  | 4 => if w / 2 ^ 21 % 2 ^ 3 = 0 ∧ w / 2 ^ 30 % 2 ^ 2 = 0 then some (.vcmpGt (field w 28 2) (laneOps w)) else none
  | 5 => if w / 2 ^ 21 % 2 ^ 3 = 0 ∧ w / 2 ^ 30 % 2 ^ 2 = 0 then some (.vcmpGe (field w 28 2) (laneOps w)) else none
  | 6 => if w / 2 ^ 21 % 2 ^ 3 = 0 ∧ w / 2 ^ 30 % 2 ^ 2 = 0 then some (.vcmpUn (field w 28 2) (laneOps w)) else none
  | 7 => if w / 2 ^ 21 % 2 ^ 3 = 0 ∧ w / 2 ^ 30 % 2 ^ 2 = 0 then some (.vcmpLtu (field w 28 2) (laneOps w)) else none
  | 8 => if w / 2 ^ 21 % 2 ^ 3 = 0 ∧ w / 2 ^ 30 % 2 ^ 2 = 0 then some (.vcmpLeu (field w 28 2) (laneOps w)) else none
  | 9 => if w / 2 ^ 21 % 2 ^ 3 = 0 ∧ w / 2 ^ 30 % 2 ^ 2 = 0 then some (.vcmpGtu (field w 28 2) (laneOps w)) else none
  | 10 => if w / 2 ^ 21 % 2 ^ 3 = 0 ∧ w / 2 ^ 30 % 2 ^ 2 = 0 then some (.vcmpGeu (field w 28 2) (laneOps w)) else none
  | _ => none

/-- Major 4 VCVT (10 R228). -/
def decodeVcvt (w : Nat) : Option Instr :=
  match w / 2 ^ 24 % 2 ^ 4 with
  | 0 => if w / 2 ^ 28 % 2 ^ 4 = 0 then some (.vcvtTi64 (flag w 23) (field w 21 2) (laneOps w)) else none
  | 1 => if w / 2 ^ 28 % 2 ^ 4 = 0 then some (.vcvtTi32 (flag w 23) (field w 21 2) (laneOps w)) else none
  | 2 => if w / 2 ^ 28 % 2 ^ 4 = 0 then some (.vcvtTi16 (flag w 23) (field w 21 2) (laneOps w)) else none
  | 3 => if w / 2 ^ 28 % 2 ^ 4 = 0 then some (.vcvtTi8 (flag w 23) (field w 21 2) (laneOps w)) else none
  | 4 => if w / 2 ^ 28 % 2 ^ 4 = 0 then some (.vcvtTf64 (flag w 23) (field w 21 2) (laneOps w)) else none
  | 5 => if w / 2 ^ 28 % 2 ^ 4 = 0 then some (.vcvtTf32 (flag w 23) (field w 21 2) (laneOps w)) else none
  | 6 => if w / 2 ^ 28 % 2 ^ 4 = 0 then some (.vcvtTbf16 (flag w 23) (field w 21 2) (laneOps w)) else none
  | 7 => if w / 2 ^ 28 % 2 ^ 4 = 0 then some (.vcvtTf16 (flag w 23) (field w 21 2) (laneOps w)) else none
  | 8 => if w / 2 ^ 28 % 2 ^ 4 = 0 then some (.vcvtTe4m3 (flag w 23) (field w 21 2) (laneOps w)) else none
  | 9 => if w / 2 ^ 28 % 2 ^ 4 = 0 then some (.vcvtTe5m2 (flag w 23) (field w 21 2) (laneOps w)) else none
  | 10 => if w / 2 ^ 28 % 2 ^ 4 = 0 then some (.vcvtTe2m1 (flag w 23) (field w 21 2) (laneOps w)) else none
  | 11 => if w / 2 ^ 10 % 2 ^ 1 = 0 ∧ w / 2 ^ 28 % 2 ^ 4 = 0 then some (.vcvtTsk (flag w 23) (field w 21 2) { laneOps w with ia := false }) else none
  | 12 => if w / 2 ^ 21 % 2 ^ 3 = 0 ∧ w / 2 ^ 28 % 2 ^ 4 = 0 then some (.vcvtFe4m3 (laneOps w)) else none
  | 13 => if w / 2 ^ 21 % 2 ^ 3 = 0 ∧ w / 2 ^ 28 % 2 ^ 4 = 0 then some (.vcvtFe5m2 (laneOps w)) else none
  | 14 => if w / 2 ^ 21 % 2 ^ 3 = 0 ∧ w / 2 ^ 28 % 2 ^ 4 = 0 then some (.vcvtFe2m1 (laneOps w)) else none
  | _ => none

/-- Major 5 VPERM (10 R228). -/
def decodeVperm (w : Nat) : Option Instr :=
  match w / 2 ^ 24 % 2 ^ 4 with
  | 0 => if w / 2 ^ 21 % 2 ^ 3 = 0 ∧ w / 2 ^ 28 % 2 ^ 4 = 0 then some (.vpermBcast (laneOps w)) else none
  | 1 => if w / 2 ^ 21 % 2 ^ 3 = 0 ∧ w / 2 ^ 28 % 2 ^ 4 = 0 then some (.vpermPerm (laneOps w)) else none
  | 2 => if w / 2 ^ 21 % 2 ^ 3 = 0 ∧ w / 2 ^ 28 % 2 ^ 4 = 0 then some (.vpermSldn (laneOps w)) else none
  | 3 => if w / 2 ^ 21 % 2 ^ 3 = 0 ∧ w / 2 ^ 28 % 2 ^ 4 = 0 then some (.vpermSlup (laneOps w)) else none
  | 4 => if w / 2 ^ 21 % 2 ^ 3 = 0 ∧ w / 2 ^ 28 % 2 ^ 4 = 0 then some (.vpermZiplo (laneOps w)) else none
  | 5 => if w / 2 ^ 21 % 2 ^ 3 = 0 ∧ w / 2 ^ 28 % 2 ^ 4 = 0 then some (.vpermZiphi (laneOps w)) else none
  | 6 => if w / 2 ^ 21 % 2 ^ 3 = 0 ∧ w / 2 ^ 28 % 2 ^ 4 = 0 then some (.vpermUnzev (laneOps w)) else none
  | 7 => if w / 2 ^ 21 % 2 ^ 3 = 0 ∧ w / 2 ^ 28 % 2 ^ 4 = 0 then some (.vpermUnzod (laneOps w)) else none
  | 8 => if w / 2 ^ 21 % 2 ^ 3 = 0 ∧ w / 2 ^ 28 % 2 ^ 4 = 0 then some (.vpermCompr (laneOps w)) else none
  | 9 => if w / 2 ^ 21 % 2 ^ 3 = 0 ∧ w / 2 ^ 28 % 2 ^ 4 = 0 then some (.vpermExpnd (laneOps w)) else none
  | 10 => if w / 2 ^ 21 % 2 ^ 3 = 0 ∧ w / 2 ^ 28 % 2 ^ 4 = 0 then some (.vpermRev (laneOps w)) else none
  | 11 => if w / 2 ^ 21 % 2 ^ 3 = 0 ∧ w / 2 ^ 28 % 2 ^ 4 = 0 then some (.vpermIota (laneOps w)) else none
  | _ => none

/-- Major 6 VRED (10 R228). -/
def decodeVred (w : Nat) : Option Instr :=
  match w / 2 ^ 24 % 2 ^ 4 with
  | 0 => if w / 2 ^ 28 % 2 ^ 4 = 0 then some (.vredSum (flag w 23) (field w 21 2) (laneOps w)) else none
  | 1 => if w / 2 ^ 21 % 2 ^ 3 = 0 ∧ w / 2 ^ 28 % 2 ^ 4 = 0 then some (.vredMin (laneOps w)) else none
  | 2 => if w / 2 ^ 21 % 2 ^ 3 = 0 ∧ w / 2 ^ 28 % 2 ^ 4 = 0 then some (.vredMax (laneOps w)) else none
  | 3 => if w / 2 ^ 28 % 2 ^ 4 = 0 then some (.vredAcc (flag w 23) (field w 21 2) (laneOps w)) else none
  | 4 => if w / 2 ^ 28 % 2 ^ 4 = 0 then some (.vredDot (flag w 23) (field w 21 2) (laneOps w)) else none
  | 5 => if w / 2 ^ 21 % 2 ^ 3 = 0 ∧ w / 2 ^ 28 % 2 ^ 4 = 0 then some (.vredAnd (laneOps w)) else none
  | 6 => if w / 2 ^ 21 % 2 ^ 3 = 0 ∧ w / 2 ^ 28 % 2 ^ 4 = 0 then some (.vredOr (laneOps w)) else none
  | 7 => if w / 2 ^ 21 % 2 ^ 3 = 0 ∧ w / 2 ^ 28 % 2 ^ 4 = 0 then some (.vredXor (laneOps w)) else none
  | _ => none

/-- Major 7 VFUN (10 R228). -/
def decodeVfun (w : Nat) : Option Instr :=
  match w / 2 ^ 24 % 2 ^ 4 with
  | 0 => if w / 2 ^ 23 % 2 ^ 1 = 0 ∧ w / 2 ^ 28 % 2 ^ 4 = 0 then some (.vfunExp2 (field w 21 2) (laneOps w)) else none
  | 1 => if w / 2 ^ 23 % 2 ^ 1 = 0 ∧ w / 2 ^ 28 % 2 ^ 4 = 0 then some (.vfunLog2 (field w 21 2) (laneOps w)) else none
  | 2 => if w / 2 ^ 23 % 2 ^ 1 = 0 ∧ w / 2 ^ 28 % 2 ^ 4 = 0 then some (.vfunSint (field w 21 2) (laneOps w)) else none
  | 3 => if w / 2 ^ 23 % 2 ^ 1 = 0 ∧ w / 2 ^ 28 % 2 ^ 4 = 0 then some (.vfunCost (field w 21 2) (laneOps w)) else none
  | 4 => if w / 2 ^ 23 % 2 ^ 1 = 0 ∧ w / 2 ^ 28 % 2 ^ 4 = 0 then some (.vfunTanh (field w 21 2) (laneOps w)) else none
  | 5 => if w / 2 ^ 23 % 2 ^ 1 = 0 ∧ w / 2 ^ 28 % 2 ^ 4 = 0 then some (.vfunRecip (field w 21 2) (laneOps w)) else none
  | 6 => if w / 2 ^ 23 % 2 ^ 1 = 0 ∧ w / 2 ^ 28 % 2 ^ 4 = 0 then some (.vfunRsqrt (field w 21 2) (laneOps w)) else none
  | _ => none

/-- Major 8 LDA (10 R228). -/
def decodeLda (w : Nat) : Option Instr :=
  match w / 2 ^ 21 % 2 ^ 7 with
  | 0 => some (.lda (memOps w))
  | 1 => some (.ldaBc (memOps w))
  | 2 => some (.ldaZx (memOps w))
  | _ => none

/-- Major 9 STA (10 R228). -/
def decodeSta (w : Nat) : Option Instr :=
  match w / 2 ^ 21 % 2 ^ 7 with
  | 0 => some (.sta (memOps w))
  | _ => none

/-- Major 10 GATH (10 R228). -/
def decodeGath (w : Nat) : Option Instr :=
  match w / 2 ^ 21 % 2 ^ 7 with
  | 0 => if w / 2 ^ 14 % 2 ^ 2 = 0 then some (.gathGather (memOps w)) else none
  | 1 => if w / 2 ^ 14 % 2 ^ 2 = 0 then some (.gathScatter (memOps w)) else none
  | _ => none

/-- Major 11 LINE (10 R228). -/
def decodeLine (w : Nat) : Option Instr :=
  match w / 2 ^ 18 % 2 ^ 4 with
  | 0 => some (.lineMove (field w 28 4) (field w 22 6) (field w 15 3) (flag w 14) (field w 11 3) (flag w 10) (field w 7 3))
  | 1 => if w / 2 ^ 11 % 2 ^ 4 = 0 then some (.lineFill (field w 28 4) (field w 22 6) (field w 15 3) (flag w 10) (field w 7 3)) else none
  | _ => none

/-- Major 12 SHIP (10 R228). -/
def decodeShip (w : Nat) : Option Instr :=
  match w / 2 ^ 10 % 2 ^ 6 with
  | 0 => some (.ship (field w 28 4) (field w 26 2) (field w 24 2) (field w 16 8) (field w 7 3))
  | _ => none

/-- Major 13 TICK (10 R228). -/
def decodeTick (w : Nat) : Option Instr :=
  match w / 2 ^ 10 % 2 ^ 6 with
  | 0 => if w / 2 ^ 18 % 2 ^ 6 = 0 then some (.tickLd (field w 28 4) (field w 24 4) (field w 16 2) (field w 7 3)) else none
  | 1 => if w / 2 ^ 16 % 2 ^ 8 = 0 then some (.tickRd (field w 28 4) (field w 24 4) (field w 7 3)) else none
  | 2 => if w / 2 ^ 7 % 2 ^ 3 = 0 ∧ w / 2 ^ 16 % 2 ^ 8 = 0 then some (.tickDrop (field w 28 4) (field w 24 4)) else none
  | 3 => if w / 2 ^ 7 % 2 ^ 3 = 0 ∧ w / 2 ^ 16 % 2 ^ 8 = 0 then some (.tickQ (field w 28 4) (field w 24 4)) else none
  | _ => none

/-- Major 14 LAWO (10 R228). -/
def decodeLawo (w : Nat) : Option Instr :=
  match w / 2 ^ 21 % 2 ^ 7 with
  | 0 => if w / 2 ^ 11 % 2 ^ 10 = 132 then some (.lawoRd (field w 28 4) (flag w 10) (field w 7 3)) else none
  | 1 => if w / 2 ^ 11 % 2 ^ 10 = 132 then some (.lawoAdd (field w 28 4) (flag w 10) (field w 7 3)) else none
  | 2 => if w / 2 ^ 11 % 2 ^ 10 = 132 then some (.lawoSet (field w 28 4) (flag w 10) (field w 7 3)) else none
  | 3 => if w / 2 ^ 11 % 2 ^ 10 = 132 then some (.lawoSwap (field w 28 4) (flag w 10) (field w 7 3)) else none
  | 4 => if w / 2 ^ 11 % 2 ^ 10 = 132 then some (.lawoLaw (field w 28 4) (flag w 10) (field w 7 3)) else none
  | 5 => if w / 2 ^ 11 % 2 ^ 10 = 132 then some (.lawoChk (field w 28 4) (flag w 10) (field w 7 3)) else none
  | _ => none

/-- Major 15 PATN (10 R228). -/
def decodePatn (w : Nat) : Option Instr :=
  match w / 2 ^ 10 % 2 ^ 6 with
  | 0 => if w / 2 ^ 18 % 2 ^ 10 = 0 then some (.patnSet (field w 28 4) (field w 16 2) (field w 7 3)) else none
  | 1 => if w / 2 ^ 18 % 2 ^ 10 = 0 then some (.patnGet (field w 28 4) (field w 16 2) (field w 7 3)) else none
  | 2 => if w / 2 ^ 7 % 2 ^ 3 = 0 ∧ w / 2 ^ 18 % 2 ^ 10 = 0 then some (.patnClr (field w 28 4) (field w 16 2)) else none
  | _ => none

/-- Major 16 CACH (10 R228). -/
def decodeCach (w : Nat) : Option Instr :=
  match w / 2 ^ 10 % 2 ^ 6 with
  | 0 => if w / 2 ^ 17 % 2 ^ 11 = 0 then some (.cachPf2 (field w 28 4) (flag w 16) (field w 7 3)) else none
  | 1 => if w / 2 ^ 16 % 2 ^ 12 = 0 then some (.cachFlush (field w 28 4) (field w 7 3)) else none
  | 2 => if w / 2 ^ 16 % 2 ^ 12 = 0 then some (.cachInv (field w 28 4) (field w 7 3)) else none
  | 3 => if w / 2 ^ 7 % 2 ^ 3 = 0 ∧ w / 2 ^ 16 % 2 ^ 12 = 0 then some (.cachSinv (field w 28 4)) else none
  | 4 => if w / 2 ^ 7 % 2 ^ 3 = 0 ∧ w / 2 ^ 16 % 2 ^ 12 = 0 then some (.cachFlushall (field w 28 4)) else none
  | _ => none

/-- Major 17 DRAM (10 R228). -/
def decodeDram (w : Nat) : Option Instr :=
  match w / 2 ^ 10 % 2 ^ 6 with
  | 0 => if w / 2 ^ 16 % 2 ^ 12 = 0 then some (.dramPromote (field w 28 4) (field w 7 3)) else none
  | 1 => if w / 2 ^ 16 % 2 ^ 12 = 0 then some (.dramPin (field w 28 4) (field w 7 3)) else none
  | 2 => if w / 2 ^ 16 % 2 ^ 12 = 0 then some (.dramUnpin (field w 28 4) (field w 7 3)) else none
  | 3 => if w / 2 ^ 16 % 2 ^ 12 = 0 then some (.dramDemote (field w 28 4) (field w 7 3)) else none
  | _ => none

/-- Major 18 FENC (10 R228). -/
def decodeFenc (w : Nat) : Option Instr :=
  match w / 2 ^ 10 % 2 ^ 6 with
  | 0 => if w / 2 ^ 9 % 2 ^ 1 = 0 ∧ w / 2 ^ 28 % 2 ^ 4 = 0 then some (.fenc (field w 23 5) (field w 16 7) (field w 7 2)) else none
  | _ => none

/-- Major 19 PSET (11 R242). -/
def decodePset (w : Nat) : Option Instr :=
  some (.pset (field w 14 18) (field w 12 2) (field w 10 2) (field w 7 3))

/-- Major 20 PADD (10 R228). -/
def decodePadd (w : Nat) : Option Instr :=
  match w / 2 ^ 12 % 2 ^ 2 with
  | 0 => some (.paddImm (field w 14 18) (field w 10 2) (field w 7 3))
  | 1 => some (.paddSh12 (field w 14 18) (field w 10 2) (field w 7 3))
  | 2 => if w / 2 ^ 10 % 2 ^ 2 = 0 then some (.paddStep (field w 14 18) (field w 7 3)) else none
  | _ => none

/-- Major 21 PMOV (10 R228). -/
def decodePmov (w : Nat) : Option Instr :=
  match w / 2 ^ 10 % 2 ^ 6 with
  | 0 => if w / 2 ^ 19 % 2 ^ 9 = 0 then some (.pmovMov (field w 28 4) (field w 16 3) (field w 7 3)) else none
  | 1 => if w / 2 ^ 19 % 2 ^ 9 = 0 then some (.pmovToa (field w 28 4) (field w 16 3) (field w 7 3)) else none
  | 2 => if w / 2 ^ 19 % 2 ^ 9 = 0 then some (.pmovFroma (field w 28 4) (field w 16 3) (field w 7 3)) else none
  | 3 => if w / 2 ^ 23 % 2 ^ 5 = 0 then some (.pmovGsv (field w 28 4) (flag w 22) (field w 19 3) (field w 16 3) (field w 7 3)) else none
  | 4 => if w / 2 ^ 23 % 2 ^ 5 = 0 then some (.pmovGld (field w 28 4) (flag w 22) (field w 19 3) (field w 16 3) (field w 7 3)) else none
  | 5 => if w / 2 ^ 16 % 2 ^ 12 = 0 then some (.pmovZero (field w 28 4) (field w 7 3)) else none
  | 6 => if w / 2 ^ 16 % 2 ^ 12 = 0 then some (.pmovGetlink (field w 28 4) (field w 7 3)) else none
  | 7 => if w / 2 ^ 16 % 2 ^ 12 = 0 then some (.pmovSetlink (field w 28 4) (field w 7 3)) else none
  | _ => none

/-- Major 22 AIMM (10 R228). -/
def decodeAimm (w : Nat) : Option Instr :=
  match w / 2 ^ 12 % 2 ^ 2 with
  | 0 => if w / 2 ^ 7 % 2 ^ 3 = 0 then some (.aimmBcast (field w 14 18) (field w 10 2)) else none
  | 1 => if w / 2 ^ 7 % 2 ^ 3 = 0 then some (.aimmLane0 (field w 14 18) (field w 10 2)) else none
  | 2 => if w / 2 ^ 7 % 2 ^ 3 = 0 then some (.aimmOnly0 (field w 14 18) (field w 10 2)) else none
  | 3 => if w / 2 ^ 7 % 2 ^ 3 = 0 ∧ w / 2 ^ 11 % 2 ^ 1 = 0 then some (.aimmAdd (field w 14 18) (flag w 10)) else none
  | _ => none

/-- Major 23 KOPS (10 R228). -/
def decodeKops (w : Nat) : Option Instr :=
  match w / 2 ^ 10 % 2 ^ 6 with
  | 0 => if w / 2 ^ 7 % 2 ^ 3 = 0 ∧ w / 2 ^ 16 % 2 ^ 6 = 0 ∧ w / 2 ^ 28 % 2 ^ 4 = 0 then some (.kopsAnd (field w 26 2) (field w 24 2) (field w 22 2)) else none
  | 1 => if w / 2 ^ 7 % 2 ^ 3 = 0 ∧ w / 2 ^ 16 % 2 ^ 6 = 0 ∧ w / 2 ^ 28 % 2 ^ 4 = 0 then some (.kopsOr (field w 26 2) (field w 24 2) (field w 22 2)) else none
  | 2 => if w / 2 ^ 7 % 2 ^ 3 = 0 ∧ w / 2 ^ 16 % 2 ^ 6 = 0 ∧ w / 2 ^ 28 % 2 ^ 4 = 0 then some (.kopsXor (field w 26 2) (field w 24 2) (field w 22 2)) else none
  | 3 => if w / 2 ^ 7 % 2 ^ 3 = 0 ∧ w / 2 ^ 16 % 2 ^ 6 = 0 ∧ w / 2 ^ 28 % 2 ^ 4 = 0 then some (.kopsAndn (field w 26 2) (field w 24 2) (field w 22 2)) else none
  | 4 => if w / 2 ^ 7 % 2 ^ 3 = 0 ∧ w / 2 ^ 16 % 2 ^ 8 = 0 ∧ w / 2 ^ 28 % 2 ^ 4 = 0 then some (.kopsNot (field w 26 2) (field w 24 2)) else none
  | 5 => if w / 2 ^ 7 % 2 ^ 3 = 0 ∧ w / 2 ^ 16 % 2 ^ 8 = 0 ∧ w / 2 ^ 28 % 2 ^ 4 = 0 then some (.kopsMov (field w 26 2) (field w 24 2)) else none
  | 6 => if w / 2 ^ 7 % 2 ^ 3 = 0 ∧ w / 2 ^ 16 % 2 ^ 10 = 0 ∧ w / 2 ^ 28 % 2 ^ 4 = 0 then some (.kopsSet (field w 26 2)) else none
  | 7 => if w / 2 ^ 7 % 2 ^ 3 = 0 ∧ w / 2 ^ 16 % 2 ^ 10 = 0 ∧ w / 2 ^ 28 % 2 ^ 4 = 0 then some (.kopsClr (field w 26 2)) else none
  | 8 => if w / 2 ^ 7 % 2 ^ 3 = 0 ∧ w / 2 ^ 16 % 2 ^ 8 = 0 ∧ w / 2 ^ 28 % 2 ^ 4 = 0 then some (.kopsFirst (field w 26 2) (field w 24 2)) else none
  | 9 => if w / 2 ^ 7 % 2 ^ 3 = 0 ∧ w / 2 ^ 16 % 2 ^ 10 = 0 ∧ w / 2 ^ 28 % 2 ^ 4 = 0 then some (.kopsFroma (field w 26 2)) else none
  | 10 => if w / 2 ^ 7 % 2 ^ 3 = 0 ∧ w / 2 ^ 16 % 2 ^ 8 = 0 ∧ w / 2 ^ 26 % 2 ^ 6 = 0 then some (.kopsToa (field w 24 2)) else none
  | 11 => if w / 2 ^ 16 % 2 ^ 10 = 0 ∧ w / 2 ^ 28 % 2 ^ 4 = 0 then some (.kopsPrefix (field w 26 2) (field w 7 3)) else none
  | 12 => if w / 2 ^ 7 % 2 ^ 3 = 0 ∧ w / 2 ^ 16 % 2 ^ 8 = 0 ∧ w / 2 ^ 26 % 2 ^ 6 = 0 then some (.kopsPopc (field w 24 2)) else none
  | _ => none

/-- Major 24 BR (10 R228). -/
def decodeBr (w : Nat) : Option Instr :=
  match w / 2 ^ 7 % 2 ^ 3 with
  | 0 => if w / 2 ^ 10 % 2 ^ 3 = 0 then some (.br (field w 13 19)) else if w / 2 ^ 10 % 2 ^ 3 = 1 then some (.brCall (field w 13 19)) else none
  | 1 => some (.brCnz (field w 13 19) (field w 10 3))
  | 2 => some (.brCz (field w 13 19) (field w 10 3))
  | 3 => if w / 2 ^ 12 % 2 ^ 1 = 0 then some (.brKany (field w 13 19) (field w 10 2)) else none
  | 4 => if w / 2 ^ 12 % 2 ^ 1 = 0 then some (.brKnone (field w 13 19) (field w 10 2)) else none
  | 5 => if w / 2 ^ 10 % 2 ^ 3 = 0 then some (.brNeg (field w 13 19)) else none
  | 6 => if w / 2 ^ 10 % 2 ^ 3 = 0 then some (.brEqz (field w 13 19)) else none
  | 7 => if w / 2 ^ 10 % 2 ^ 3 = 0 then some (.brNez (field w 13 19)) else none
  | _ => none

/-- Major 25 JUMP (10 R228). -/
def decodeJump (w : Nat) : Option Instr :=
  match w / 2 ^ 10 % 2 ^ 6 with
  | 0 => if w / 2 ^ 16 % 2 ^ 16 = 0 then some (.jumpJr (field w 7 3)) else none
  | 1 => if w / 2 ^ 16 % 2 ^ 16 = 0 then some (.jumpJalr (field w 7 3)) else none
  | 2 => if w / 2 ^ 7 % 2 ^ 3 = 0 ∧ w / 2 ^ 16 % 2 ^ 16 = 0 then some .jumpRet else none
  | 3 => if w / 2 ^ 7 % 2 ^ 3 = 0 ∧ w / 2 ^ 16 % 2 ^ 16 = 0 then some .jumpJa else none
  | 4 => if w / 2 ^ 28 % 2 ^ 4 = 0 then some (.jumpJidx (field w 16 12) (field w 7 3)) else none
  | _ => none

/-- Major 26 STRN (10 R228). -/
def decodeStrn (w : Nat) : Option Instr :=
  match w / 2 ^ 10 % 2 ^ 6 with
  | 0 => if w / 2 ^ 16 % 2 ^ 16 = 0 then some (.strnStart (field w 7 3)) else none
  | 1 => if w / 2 ^ 7 % 2 ^ 3 = 0 ∧ w / 2 ^ 16 % 2 ^ 16 = 0 then some .strnEnd else none
  | 2 => if w / 2 ^ 7 % 2 ^ 3 = 0 ∧ w / 2 ^ 20 % 2 ^ 12 = 0 then some (.strnJoinw (field w 16 4)) else none
  | 3 => if w / 2 ^ 7 % 2 ^ 3 = 0 ∧ w / 2 ^ 16 % 2 ^ 16 = 0 then some .strnYield else none
  | 4 => if w / 2 ^ 7 % 2 ^ 3 = 0 ∧ w / 2 ^ 16 % 2 ^ 16 = 0 then some .strnStat else none
  | 5 => if w / 2 ^ 24 % 2 ^ 8 = 0 then some (.strnBindh (field w 16 8) (field w 7 3)) else none
  | _ => none

/-- Major 27 SYNC (10 R228). -/
def decodeSync (w : Nat) : Option Instr :=
  match w / 2 ^ 10 % 2 ^ 6 with
  | 0 => if w / 2 ^ 17 % 2 ^ 15 = 0 then some (.syncArrive (field w 16 1) (field w 7 3)) else none
  | 1 => if w / 2 ^ 17 % 2 ^ 15 = 0 then some (.syncWait (field w 16 1) (field w 7 3)) else none
  | 2 => if w / 2 ^ 17 % 2 ^ 15 = 0 then some (.syncArrwt (field w 16 1) (field w 7 3)) else none
  | 3 => if w / 2 ^ 16 % 2 ^ 16 = 0 then some (.syncSignal (field w 7 3)) else none
  | 4 => if w / 2 ^ 16 % 2 ^ 16 = 0 then some (.syncCwait (field w 7 3)) else none
  | 5 => if w / 2 ^ 16 % 2 ^ 16 = 0 then some (.syncCread (field w 7 3)) else none
  | 6 => if w / 2 ^ 16 % 2 ^ 16 = 0 then some (.syncCset (field w 7 3)) else none
  | _ => none

/-- Major 28 RING (10 R228). -/
def decodeRing (w : Nat) : Option Instr :=
  match w / 2 ^ 10 % 2 ^ 6 with
  | 0 => if w / 2 ^ 16 % 2 ^ 16 = 0 then some (.ringAwait (field w 7 3)) else none
  | 1 => if w / 2 ^ 16 % 2 ^ 16 = 0 then some (.ringRelease (field w 7 3)) else none
  | 2 => if w / 2 ^ 16 % 2 ^ 16 = 0 then some (.ringPost (field w 7 3)) else none
  | 3 => if w / 2 ^ 16 % 2 ^ 16 = 0 then some (.ringSlot (field w 7 3)) else none
  | _ => none

/-- Major 29 MSG (10 R228). -/
def decodeMsg (w : Nat) : Option Instr :=
  match w / 2 ^ 10 % 2 ^ 6 with
  | 0 => if w / 2 ^ 21 % 2 ^ 7 = 0 then some (.msgSend (field w 28 4) (field w 16 5) (field w 7 3)) else none
  | 1 => if w / 2 ^ 7 % 2 ^ 3 = 0 ∧ w / 2 ^ 19 % 2 ^ 9 = 0 then some (.msgPop (field w 28 4) (field w 16 3)) else none
  | 2 => if w / 2 ^ 7 % 2 ^ 3 = 0 ∧ w / 2 ^ 19 % 2 ^ 9 = 0 then some (.msgPeek (field w 28 4) (field w 16 3)) else none
  | 3 => if w / 2 ^ 27 % 2 ^ 1 = 0 then some (.msgBindc (field w 28 4) (field w 24 3) (field w 16 8) (field w 7 3)) else none
  | 4 => if w / 2 ^ 7 % 2 ^ 3 = 0 ∧ w / 2 ^ 24 % 2 ^ 4 = 0 then some (.msgUnbind (field w 28 4) (field w 16 8)) else none
  | 5 => if w / 2 ^ 24 % 2 ^ 4 = 0 then some (.msgQuota (field w 28 4) (field w 16 8) (field w 7 3)) else none
  | _ => none

/-- Major 30 COPY (10 R228). -/
def decodeCopy (w : Nat) : Option Instr :=
  match w / 2 ^ 10 % 2 ^ 6 with
  | 0 => if w / 2 ^ 16 % 2 ^ 12 = 0 then some (.copyAppend (field w 28 4) (field w 7 3)) else none
  | 1 => if w / 2 ^ 16 % 2 ^ 12 = 0 then some (.copyExpect (field w 28 4) (field w 7 3)) else none
  | 2 => if w / 2 ^ 7 % 2 ^ 3 = 0 ∧ w / 2 ^ 16 % 2 ^ 12 = 0 then some (.copyWait (field w 28 4)) else none
  | _ => none

/-- Major 31 MTRX (10 R228). -/
def decodeMtrx (w : Nat) : Option Instr :=
  match w / 2 ^ 10 % 2 ^ 6 with
  | 0 => if w / 2 ^ 16 % 2 ^ 16 = 0 then some (.mtrxSclaim (field w 7 3)) else none
  | 1 => if w / 2 ^ 21 % 2 ^ 11 = 0 then some (.mtrxSrel (field w 16 5) (field w 7 3)) else none
  | 2 => if w / 2 ^ 7 % 2 ^ 3 = 0 ∧ w / 2 ^ 16 % 2 ^ 16 = 0 then some .mtrxWait else none
  | 3 => if w / 2 ^ 7 % 2 ^ 3 = 0 ∧ w / 2 ^ 17 % 2 ^ 15 = 0 then some (.mtrxStat (flag w 16)) else none
  | 4 => if w / 2 ^ 7 % 2 ^ 3 = 0 ∧ w / 2 ^ 16 % 2 ^ 16 = 0 then some .mtrxSeal else none
  | 5 => if w / 2 ^ 7 % 2 ^ 3 = 0 ∧ w / 2 ^ 17 % 2 ^ 15 = 0 then some (.mtrxCont (flag w 16)) else none
  | _ => none

/-- Major 32 RAND (10 R228). -/
def decodeRand (w : Nat) : Option Instr :=
  match w / 2 ^ 21 % 2 ^ 7 with
  | 0 => if w / 2 ^ 11 % 2 ^ 8 = 35 then some (.randRaw (field w 28 4) (field w 19 2) (flag w 10) (field w 7 3)) else none
  | 1 => if w / 2 ^ 11 % 2 ^ 8 = 163 then some (.randUnif (field w 28 4) (field w 19 2) (flag w 10) (field w 7 3)) else none
  | _ => none

/-- Major 33 TIME (10 R228). -/
def decodeTime (w : Nat) : Option Instr :=
  match w / 2 ^ 10 % 2 ^ 6 with
  | 0 => if w / 2 ^ 7 % 2 ^ 3 = 0 ∧ w / 2 ^ 16 % 2 ^ 16 = 0 then some .timeRdst else none
  | 1 => if w / 2 ^ 7 % 2 ^ 3 = 0 ∧ w / 2 ^ 16 % 2 ^ 16 = 0 then some .timeRddev else none
  | 2 => if w / 2 ^ 7 % 2 ^ 3 = 0 ∧ w / 2 ^ 16 % 2 ^ 16 = 0 then some .timeSetst else none
  | 3 => if w / 2 ^ 7 % 2 ^ 3 = 0 ∧ w / 2 ^ 16 % 2 ^ 16 = 0 then some .timeAddst else none
  | 4 => if w / 2 ^ 7 % 2 ^ 3 = 0 ∧ w / 2 ^ 16 % 2 ^ 16 = 0 then some .timeSyncst else none
  | _ => none

/-- Major 34 CSR (10 R228). -/
def decodeCsr (w : Nat) : Option Instr :=
  match w / 2 ^ 10 % 2 ^ 6 with
  | 0 => if w / 2 ^ 7 % 2 ^ 3 = 0 then some (.csrRd (field w 28 4) (field w 16 12)) else none
  | 1 => if w / 2 ^ 7 % 2 ^ 3 = 0 then some (.csrWr (field w 28 4) (field w 16 12)) else none
  | 2 => if w / 2 ^ 7 % 2 ^ 3 = 0 then some (.csrSetb (field w 28 4) (field w 16 12)) else none
  | 3 => if w / 2 ^ 7 % 2 ^ 3 = 0 then some (.csrClrb (field w 28 4) (field w 16 12)) else none
  | 4 => if w / 2 ^ 22 % 2 ^ 6 = 0 then some (.csrSkld (field w 28 4) (field w 16 6) (field w 7 3)) else none
  | 5 => if w / 2 ^ 22 % 2 ^ 6 = 0 then some (.csrSkst (field w 28 4) (field w 16 6) (field w 7 3)) else none
  | _ => none

/-- Major 35 TRAP (10 R228). -/
def decodeTrap (w : Nat) : Option Instr :=
  match w / 2 ^ 10 % 2 ^ 6 with
  | 0 => if w / 2 ^ 7 % 2 ^ 3 = 0 ∧ w / 2 ^ 28 % 2 ^ 4 = 0 then some (.trapSwt (field w 16 12)) else none
  | 1 => if w / 2 ^ 7 % 2 ^ 3 = 0 ∧ w / 2 ^ 28 % 2 ^ 4 = 0 then some (.trapBrk (field w 16 12)) else none
  | 2 => if w / 2 ^ 7 % 2 ^ 3 = 0 ∧ w / 2 ^ 16 % 2 ^ 16 = 0 then some .trapRet else none
  | 3 => if w / 2 ^ 7 % 2 ^ 3 = 0 ∧ w / 2 ^ 16 % 2 ^ 16 = 0 then some .trapRetx else none
  | 4 => if w / 2 ^ 7 % 2 ^ 3 = 0 ∧ w / 2 ^ 16 % 2 ^ 16 = 0 then some .trapHalt else none
  | _ => none

/-- Major 36 PROT (10 R228). -/
def decodeProt (w : Nat) : Option Instr :=
  match w / 2 ^ 10 % 2 ^ 6 with
  | 0 => if w / 2 ^ 7 % 2 ^ 3 = 0 ∧ w / 2 ^ 16 % 2 ^ 16 = 0 then some .protFlush else none
  | 1 => if w / 2 ^ 7 % 2 ^ 3 = 0 ∧ w / 2 ^ 28 % 2 ^ 4 = 0 then some (.protInvd (field w 16 12)) else none
  | 2 => if w / 2 ^ 16 % 2 ^ 16 = 0 then some (.protInva (field w 7 3)) else none
  | 3 => if w / 2 ^ 7 % 2 ^ 3 = 0 ∧ w / 2 ^ 22 % 2 ^ 10 = 0 then some (.protRde (field w 16 6)) else none
  | 4 => if w / 2 ^ 7 % 2 ^ 3 = 0 ∧ w / 2 ^ 22 % 2 ^ 10 = 0 then some (.protWre (field w 16 6)) else none
  | _ => none

/-- Major 37 CTXS (10 R228). -/
def decodeCtxs (w : Nat) : Option Instr :=
  match w / 2 ^ 10 % 2 ^ 6 with
  | 0 => if w / 2 ^ 7 % 2 ^ 3 = 0 ∧ w / 2 ^ 20 % 2 ^ 12 = 0 then some (.ctxsStop (field w 16 4)) else none
  | 1 => if w / 2 ^ 20 % 2 ^ 12 = 0 then some (.ctxsSave (field w 16 4) (field w 7 3)) else none
  | 2 => if w / 2 ^ 20 % 2 ^ 12 = 0 then some (.ctxsLoad (field w 16 4) (field w 7 3)) else none
  | 3 => if w / 2 ^ 7 % 2 ^ 3 = 0 ∧ w / 2 ^ 20 % 2 ^ 12 = 0 then some (.ctxsGo (field w 16 4)) else none
  | _ => none

/-- Major 38 NOPS (10 R228). -/
def decodeNops (w : Nat) : Option Instr :=
  match w / 2 ^ 10 % 2 ^ 6 with
  | 0 => if w / 2 ^ 7 % 2 ^ 3 = 0 ∧ w / 2 ^ 16 % 2 ^ 16 = 0 then some .nopsNop else none
  | 1 => if w / 2 ^ 7 % 2 ^ 3 = 0 ∧ w / 2 ^ 28 % 2 ^ 4 = 0 then some (.nopsPause (field w 16 12)) else none
  | _ => none

/-- The major opcode map (10 R228): majors 0 and 39–63 are no instruction. -/
def decodeMajor (w : Nat) : Option Instr :=
  match w / 2 % 64 with
  | 1 => decodeVari w
  | 2 => decodeVbit w
  | 3 => decodeVcmp w
  | 4 => decodeVcvt w
  | 5 => decodeVperm w
  | 6 => decodeVred w
  | 7 => decodeVfun w
  | 8 => decodeLda w
  | 9 => decodeSta w
  | 10 => decodeGath w
  | 11 => decodeLine w
  | 12 => decodeShip w
  | 13 => decodeTick w
  | 14 => decodeLawo w
  | 15 => decodePatn w
  | 16 => decodeCach w
  | 17 => decodeDram w
  | 18 => decodeFenc w
  | 19 => decodePset w
  | 20 => decodePadd w
  | 21 => decodePmov w
  | 22 => decodeAimm w
  | 23 => decodeKops w
  | 24 => decodeBr w
  | 25 => decodeJump w
  | 26 => decodeStrn w
  | 27 => decodeSync w
  | 28 => decodeRing w
  | 29 => decodeMsg w
  | 30 => decodeCopy w
  | 31 => decodeMtrx w
  | 32 => decodeRand w
  | 33 => decodeTime w
  | 34 => decodeCsr w
  | 35 => decodeTrap w
  | 36 => decodeProt w
  | 37 => decodeCtxs w
  | 38 => decodeNops w
  | _ => none

/-- A 16-bit parcel (10 R225, R226): bits [15:14] zero and a legal form. -/
def decodeParcel (w : Nat) : Except DecodeError Instr :=
  match decodeH w with
  | none => .error .badParcel
  | some i => if i.wf then .ok i else .error (.badField i)

/-- A 32-bit instruction, both parcels in w (10 R227–R229). -/
def decodeWord (w : Nat) : Except DecodeError Instr :=
  match decodeMajor w with
  | none => .error .badWord
  | some i => if i.wf then .ok i else .error (.badField i)

/-- The instruction at the head of a byte stream, with its length in bytes (10 R223). -/
def decode : List Byte → Except DecodeError (Instr × Nat)
  | b0 :: b1 :: rest =>
    if b0.toNat % 2 = 0 then
      (decodeParcel (b0.toNat + b1.toNat * 256)).map (·, 2)
    else
      match rest with
      | b2 :: b3 :: _ =>
        (decodeWord (b0.toNat + b1.toNat * 256 + b2.toNat * 65536 + b3.toNat * 16777216)).map (·, 4)
      | _ => .error .truncated
  | _ => .error .truncated

/-- The bytes of w, least significant first. -/
def leBytes : Nat → Nat → List Byte
  | 0, _ => []
  | n + 1, w => BitVec.ofNat 8 w :: leBytes n (w / 256)

/-- The instruction the decoder reads from the table's word (bit 0 the least significant bit of the first parcel);
bits above nbits are zero. -/
def decodeTableWord (nbits w : Nat) : Option Instr :=
  match decode (leBytes 4 (w % 2 ^ nbits)) with
  | .ok (i, _) => some i
  | .error _ => none

/-- A field in place. -/
def put {n : Nat} (x : BitVec n) (lo : Nat) : Nat := x.toNat * 2 ^ lo
/-- A flag in place. -/
def putB (b : Bool) (lo : Nat) : Nat := bit b * 2 ^ lo

/-! ## The encoder, from the same tables (10 R225, R227; spec/opcode_table.json) -/

/-- Format H fields in place. -/
def encH (o : HOps) : Nat :=
  putB o.ch 13 + put o.k 11 + put o.fmt 9 + putB o.inc 8 + put o.p 5
/-- Format V guard, format and operand fields in place. -/
def encLane (o : LaneOps) : Nat :=
  put o.k 19 + put o.fmt 16 + putB o.cb 15 + putB o.ib 14 + put o.pb 11 + putB o.ia 10 + put o.pa 7
/-- Format M fields in place, but for fn7. -/
def encMem (o : MemOps) : Nat :=
  put o.la 28 + put o.k 19 + put o.fmt 16 + put o.ord 14 + put o.sz 11 + putB o.ip 10 + put o.p 7

/-- The fixed bits of an instruction: the table's match word (an event has no encoding: 0). -/
def opcode : Instr → Nat
  | .hLda _ => 0x0000
  | .hSta _ _ _ _ => 0x0002
  | .hAdd _ => 0x0004
  | .hSub _ => 0x0006
  | .hRsub _ => 0x0008
  | .hMul _ => 0x000A
  | .hFma _ => 0x000C
  | .hMin _ => 0x000E
  | .hMax _ => 0x0010
  | .hAnd _ => 0x0012
  | .hOr _ => 0x0014
  | .hXor _ => 0x0016
  | .hShl _ _ _ _ => 0x0618
  | .hShra _ _ _ _ => 0x061A
  | .hAcc _ => 0x001C
  | .hCmplt _ => 0x001E
  | .variAdd _ _ _ => 0x00000003
  | .variSub _ _ _ => 0x01000003
  | .variRsub _ _ _ => 0x02000003
  | .variMul _ _ _ => 0x03000003
  | .variFma _ _ _ => 0x04000003
  | .variFms _ _ _ => 0x05000003
  | .variFmal _ _ _ => 0x06000003
  | .variMin _ _ _ => 0x07000003
  | .variMax _ _ _ => 0x08000003
  | .variDiv _ _ _ => 0x09000003
  | .variSqrt _ _ _ => 0x0A000003
  | .variAbs _ _ _ => 0x0B000003
  | .variNeg _ _ _ => 0x0C000003
  | .variMov _ _ _ => 0x0D000003
  | .variMulh _ _ _ => 0x0E000003
  | .variCpysgn _ _ _ => 0x0F000003
  | .vbitAnd _ => 0x00000005
  | .vbitOr _ => 0x01000005
  | .vbitXor _ => 0x02000005
  | .vbitAndn _ => 0x03000005
  | .vbitShl _ => 0x04000005
  | .vbitShr _ => 0x05000005
  | .vbitShra _ => 0x06000005
  | .vbitRol _ => 0x07000005
  | .vbitNot _ => 0x08000005
  | .vbitPopc _ => 0x09000005
  | .vbitClz _ => 0x0A000005
  | .vcmpEq _ _ => 0x00000007
  | .vcmpNe _ _ => 0x01000007
  | .vcmpLt _ _ => 0x02000007
  | .vcmpLe _ _ => 0x03000007
  | .vcmpGt _ _ => 0x04000007
  | .vcmpGe _ _ => 0x05000007
  | .vcmpUn _ _ => 0x06000007
  | .vcmpLtu _ _ => 0x07000007
  | .vcmpLeu _ _ => 0x08000007
  | .vcmpGtu _ _ => 0x09000007
  | .vcmpGeu _ _ => 0x0A000007
  | .vcvtTi64 _ _ _ => 0x00000009
  | .vcvtTi32 _ _ _ => 0x01000009
  | .vcvtTi16 _ _ _ => 0x02000009
  | .vcvtTi8 _ _ _ => 0x03000009
  | .vcvtTf64 _ _ _ => 0x04000009
  | .vcvtTf32 _ _ _ => 0x05000009
  | .vcvtTbf16 _ _ _ => 0x06000009
  | .vcvtTf16 _ _ _ => 0x07000009
  | .vcvtTe4m3 _ _ _ => 0x08000009
  | .vcvtTe5m2 _ _ _ => 0x09000009
  | .vcvtTe2m1 _ _ _ => 0x0A000009
  | .vcvtTsk _ _ _ => 0x0B000009
  | .vcvtFe4m3 _ => 0x0C000009
  | .vcvtFe5m2 _ => 0x0D000009
  | .vcvtFe2m1 _ => 0x0E000009
  | .vpermBcast _ => 0x0000000B
  | .vpermPerm _ => 0x0100000B
  | .vpermSldn _ => 0x0200000B
  | .vpermSlup _ => 0x0300000B
  | .vpermZiplo _ => 0x0400000B
  | .vpermZiphi _ => 0x0500000B
  | .vpermUnzev _ => 0x0600000B
  | .vpermUnzod _ => 0x0700000B
  | .vpermCompr _ => 0x0800000B
  | .vpermExpnd _ => 0x0900000B
  | .vpermRev _ => 0x0A00000B
  | .vpermIota _ => 0x0B00000B
  | .vredSum _ _ _ => 0x0000000D
  | .vredMin _ => 0x0100000D
  | .vredMax _ => 0x0200000D
  | .vredAcc _ _ _ => 0x0300000D
  | .vredDot _ _ _ => 0x0400000D
  | .vredAnd _ => 0x0500000D
  | .vredOr _ => 0x0600000D
  | .vredXor _ => 0x0700000D
  | .vfunExp2 _ _ => 0x0000000F
  | .vfunLog2 _ _ => 0x0100000F
  | .vfunSint _ _ => 0x0200000F
  | .vfunCost _ _ => 0x0300000F
  | .vfunTanh _ _ => 0x0400000F
  | .vfunRecip _ _ => 0x0500000F
  | .vfunRsqrt _ _ => 0x0600000F
  | .randRaw _ _ _ _ => 0x00011841
  | .randUnif _ _ _ _ => 0x00251841
  | .lda _ => 0x00000011
  | .ldaBc _ => 0x00200011
  | .ldaZx _ => 0x00400011
  | .sta _ => 0x00000013
  | .gathGather _ => 0x00000015
  | .gathScatter _ => 0x00200015
  | .lineMove _ _ _ _ _ _ _ => 0x00000017
  | .lineFill _ _ _ _ _ => 0x00040017
  | .ship _ _ _ _ _ => 0x00000019
  | .tickLd _ _ _ _ => 0x0000001B
  | .tickRd _ _ _ => 0x0000041B
  | .tickDrop _ _ => 0x0000081B
  | .tickQ _ _ => 0x00000C1B
  | .lawoRd _ _ _ => 0x0004201D
  | .lawoAdd _ _ _ => 0x0024201D
  | .lawoSet _ _ _ => 0x0044201D
  | .lawoSwap _ _ _ => 0x0064201D
  | .lawoLaw _ _ _ => 0x0084201D
  | .lawoChk _ _ _ => 0x00A4201D
  | .patnSet _ _ _ => 0x0000001F
  | .patnGet _ _ _ => 0x0000041F
  | .patnClr _ _ => 0x0000081F
  | .cachPf2 _ _ _ => 0x00000021
  | .cachFlush _ _ => 0x00000421
  | .cachInv _ _ => 0x00000821
  | .cachSinv _ => 0x00000C21
  | .cachFlushall _ => 0x00001021
  | .dramPromote _ _ => 0x00000023
  | .dramPin _ _ => 0x00000423
  | .dramUnpin _ _ => 0x00000823
  | .dramDemote _ _ => 0x00000C23
  | .fenc _ _ _ => 0x00000025
  | .pset _ _ _ _ => 0x00000027
  | .paddImm _ _ _ => 0x00000029
  | .paddSh12 _ _ _ => 0x00001029
  | .paddStep _ _ => 0x00002029
  | .pmovMov _ _ _ => 0x0000002B
  | .pmovToa _ _ _ => 0x0000042B
  | .pmovFroma _ _ _ => 0x0000082B
  | .pmovGsv _ _ _ _ _ => 0x00000C2B
  | .pmovGld _ _ _ _ _ => 0x0000102B
  | .pmovZero _ _ => 0x0000142B
  | .pmovGetlink _ _ => 0x0000182B
  | .pmovSetlink _ _ => 0x00001C2B
  | .aimmBcast _ _ => 0x0000002D
  | .aimmLane0 _ _ => 0x0000102D
  | .aimmOnly0 _ _ => 0x0000202D
  | .aimmAdd _ _ => 0x0000302D
  | .kopsAnd _ _ _ => 0x0000002F
  | .kopsOr _ _ _ => 0x0000042F
  | .kopsXor _ _ _ => 0x0000082F
  | .kopsAndn _ _ _ => 0x00000C2F
  | .kopsNot _ _ => 0x0000102F
  | .kopsMov _ _ => 0x0000142F
  | .kopsSet _ => 0x0000182F
  | .kopsClr _ => 0x00001C2F
  | .kopsFirst _ _ => 0x0000202F
  | .kopsFroma _ => 0x0000242F
  | .kopsToa _ => 0x0000282F
  | .kopsPrefix _ _ => 0x00002C2F
  | .kopsPopc _ => 0x0000302F
  | .br _ => 0x00000031
  | .brCall _ => 0x00000431
  | .brCnz _ _ => 0x000000B1
  | .brCz _ _ => 0x00000131
  | .brKany _ _ => 0x000001B1
  | .brKnone _ _ => 0x00000231
  | .brNeg _ => 0x000002B1
  | .brEqz _ => 0x00000331
  | .brNez _ => 0x000003B1
  | .jumpJr _ => 0x00000033
  | .jumpJalr _ => 0x00000433
  | .jumpRet => 0x00000833
  | .jumpJa => 0x00000C33
  | .jumpJidx _ _ => 0x00001033
  | .timeRdst => 0x00000043
  | .timeRddev => 0x00000443
  | .timeSetst => 0x00000843
  | .timeAddst => 0x00000C43
  | .timeSyncst => 0x00001043
  | .csrRd _ _ => 0x00000045
  | .csrWr _ _ => 0x00000445
  | .csrSetb _ _ => 0x00000845
  | .csrClrb _ _ => 0x00000C45
  | .csrSkld _ _ _ => 0x00001045
  | .csrSkst _ _ _ => 0x00001445
  | .trapSwt _ => 0x00000047
  | .trapBrk _ => 0x00000447
  | .trapRet => 0x00000847
  | .trapRetx => 0x00000C47
  | .trapHalt => 0x00001047
  | .protFlush => 0x00000049
  | .protInvd _ => 0x00000449
  | .protInva _ => 0x00000849
  | .protRde _ => 0x00000C49
  | .protWre _ => 0x00001049
  | .ctxsStop _ => 0x0000004B
  | .ctxsSave _ _ => 0x0000044B
  | .ctxsLoad _ _ => 0x0000084B
  | .ctxsGo _ => 0x00000C4B
  | .nopsNop => 0x0000004D
  | .nopsPause _ => 0x0000044D
  | .strnStart _ => 0x00000035
  | .strnEnd => 0x00000435
  | .strnJoinw _ => 0x00000835
  | .strnYield => 0x00000C35
  | .strnStat => 0x00001035
  | .strnBindh _ _ => 0x00001435
  | .syncArrive _ _ => 0x00000037
  | .syncWait _ _ => 0x00000437
  | .syncArrwt _ _ => 0x00000837
  | .syncSignal _ => 0x00000C37
  | .syncCwait _ => 0x00001037
  | .syncCread _ => 0x00001437
  | .syncCset _ => 0x00001837
  | .ringAwait _ => 0x00000039
  | .ringRelease _ => 0x00000439
  | .ringPost _ => 0x00000839
  | .ringSlot _ => 0x00000C39
  | .msgSend _ _ _ => 0x0000003B
  | .msgPop _ _ => 0x0000043B
  | .msgPeek _ _ => 0x0000083B
  | .msgBindc _ _ _ _ => 0x00000C3B
  | .msgUnbind _ _ => 0x0000103B
  | .msgQuota _ _ _ => 0x0000143B
  | .copyAppend _ _ => 0x0000003D
  | .copyExpect _ _ => 0x0000043D
  | .copyWait _ => 0x0000083D
  | .mtrxSclaim _ => 0x0000003F
  | .mtrxSrel _ _ => 0x0000043F
  | .mtrxWait => 0x0000083F
  | .mtrxStat _ => 0x00000C3F
  | .mtrxSeal => 0x0000103F
  | .mtrxCont _ => 0x0000143F
  | _ => 0

/-- The operand bits of a 16-bit form. -/
def operandsH : Instr → Nat
  | .hLda o => encH o
  | .hSta k fmt inc p => put k 11 + put fmt 9 + putB inc 8 + put p 5
  | .hAdd o => encH o
  | .hSub o => encH o
  | .hRsub o => encH o
  | .hMul o => encH o
  | .hFma o => encH o
  | .hMin o => encH o
  | .hMax o => encH o
  | .hAnd o => encH o
  | .hOr o => encH o
  | .hXor o => encH o
  | .hShl ch k inc p => putB ch 13 + put k 11 + putB inc 8 + put p 5
  | .hShra ch k inc p => putB ch 13 + put k 11 + putB inc 8 + put p 5
  | .hAcc o => encH o
  | .hCmplt o => encH o
  | _ => 0

/-- The operand bits of majors 1–7. -/
def operandsLane : Instr → Nat
  | .variAdd sat rm o => putB sat 23 + put rm 21 + encLane o
  | .variSub sat rm o => putB sat 23 + put rm 21 + encLane o
  | .variRsub sat rm o => putB sat 23 + put rm 21 + encLane o
  | .variMul sat rm o => putB sat 23 + put rm 21 + encLane o
  | .variFma sat rm o => putB sat 23 + put rm 21 + encLane o
  | .variFms sat rm o => putB sat 23 + put rm 21 + encLane o
  | .variFmal sat rm o => putB sat 23 + put rm 21 + encLane o
  | .variMin sat rm o => putB sat 23 + put rm 21 + encLane o
  | .variMax sat rm o => putB sat 23 + put rm 21 + encLane o
  | .variDiv sat rm o => putB sat 23 + put rm 21 + encLane o
  | .variSqrt sat rm o => putB sat 23 + put rm 21 + encLane o
  | .variAbs sat rm o => putB sat 23 + put rm 21 + encLane o
  | .variNeg sat rm o => putB sat 23 + put rm 21 + encLane o
  | .variMov sat rm o => putB sat 23 + put rm 21 + encLane o
  | .variMulh sat rm o => putB sat 23 + put rm 21 + encLane o
  | .variCpysgn sat rm o => putB sat 23 + put rm 21 + encLane o
  | .vbitAnd o => encLane o
  | .vbitOr o => encLane o
  | .vbitXor o => encLane o
  | .vbitAndn o => encLane o
  | .vbitShl o => encLane o
  | .vbitShr o => encLane o
  | .vbitShra o => encLane o
  | .vbitRol o => encLane o
  | .vbitNot o => encLane o
  | .vbitPopc o => encLane o
  | .vbitClz o => encLane o
  | .vcmpEq kd o => put kd 28 + encLane o
  | .vcmpNe kd o => put kd 28 + encLane o
  | .vcmpLt kd o => put kd 28 + encLane o
  | .vcmpLe kd o => put kd 28 + encLane o
  | .vcmpGt kd o => put kd 28 + encLane o
  | .vcmpGe kd o => put kd 28 + encLane o
  | .vcmpUn kd o => put kd 28 + encLane o
  | .vcmpLtu kd o => put kd 28 + encLane o
  | .vcmpLeu kd o => put kd 28 + encLane o
  | .vcmpGtu kd o => put kd 28 + encLane o
  | .vcmpGeu kd o => put kd 28 + encLane o
  | .vcvtTi64 sat rm o => putB sat 23 + put rm 21 + encLane o
  | .vcvtTi32 sat rm o => putB sat 23 + put rm 21 + encLane o
  | .vcvtTi16 sat rm o => putB sat 23 + put rm 21 + encLane o
  | .vcvtTi8 sat rm o => putB sat 23 + put rm 21 + encLane o
  | .vcvtTf64 sat rm o => putB sat 23 + put rm 21 + encLane o
  | .vcvtTf32 sat rm o => putB sat 23 + put rm 21 + encLane o
  | .vcvtTbf16 sat rm o => putB sat 23 + put rm 21 + encLane o
  | .vcvtTf16 sat rm o => putB sat 23 + put rm 21 + encLane o
  | .vcvtTe4m3 sat rm o => putB sat 23 + put rm 21 + encLane o
  | .vcvtTe5m2 sat rm o => putB sat 23 + put rm 21 + encLane o
  | .vcvtTe2m1 sat rm o => putB sat 23 + put rm 21 + encLane o
  | .vcvtTsk sat rm o => putB sat 23 + put rm 21 + encLane o
  | .vcvtFe4m3 o => encLane o
  | .vcvtFe5m2 o => encLane o
  | .vcvtFe2m1 o => encLane o
  | .vpermBcast o => encLane o
  | .vpermPerm o => encLane o
  | .vpermSldn o => encLane o
  | .vpermSlup o => encLane o
  | .vpermZiplo o => encLane o
  | .vpermZiphi o => encLane o
  | .vpermUnzev o => encLane o
  | .vpermUnzod o => encLane o
  | .vpermCompr o => encLane o
  | .vpermExpnd o => encLane o
  | .vpermRev o => encLane o
  | .vpermIota o => encLane o
  | .vredSum sat rm o => putB sat 23 + put rm 21 + encLane o
  | .vredMin o => encLane o
  | .vredMax o => encLane o
  | .vredAcc sat rm o => putB sat 23 + put rm 21 + encLane o
  | .vredDot sat rm o => putB sat 23 + put rm 21 + encLane o
  | .vredAnd o => encLane o
  | .vredOr o => encLane o
  | .vredXor o => encLane o
  | .vfunExp2 rm o => put rm 21 + encLane o
  | .vfunLog2 rm o => put rm 21 + encLane o
  | .vfunSint rm o => put rm 21 + encLane o
  | .vfunCost rm o => put rm 21 + encLane o
  | .vfunTanh rm o => put rm 21 + encLane o
  | .vfunRecip rm o => put rm 21 + encLane o
  | .vfunRsqrt rm o => put rm 21 + encLane o
  | _ => 0

/-- The operand bits of majors 8–18. -/
def operandsMem : Instr → Nat
  | .lda o => encMem o
  | .ldaBc o => encMem o
  | .ldaZx o => encMem o
  | .sta o => encMem o
  | .gathGather o => encMem o
  | .gathScatter o => encMem o
  | .lineMove la n sz s q d p => put la 28 + put n 22 + put sz 15 + putB s 14 + put q 11 + putB d 10 + put p 7
  | .lineFill la n sz d p => put la 28 + put n 22 + put sz 15 + putB d 10 + put p 7
  | .ship la ord rm n p => put la 28 + put ord 26 + put rm 24 + put n 16 + put p 7
  | .tickLd la j sz p => put la 28 + put j 24 + put sz 16 + put p 7
  | .tickRd la j p => put la 28 + put j 24 + put p 7
  | .tickDrop la j => put la 28 + put j 24
  | .tickQ la j => put la 28 + put j 24
  | .lawoRd la inc p => put la 28 + putB inc 10 + put p 7
  | .lawoAdd la inc p => put la 28 + putB inc 10 + put p 7
  | .lawoSet la inc p => put la 28 + putB inc 10 + put p 7
  | .lawoSwap la inc p => put la 28 + putB inc 10 + put p 7
  | .lawoLaw la inc p => put la 28 + putB inc 10 + put p 7
  | .lawoChk la inc p => put la 28 + putB inc 10 + put p 7
  | .patnSet la w p => put la 28 + put w 16 + put p 7
  | .patnGet la w p => put la 28 + put w 16 + put p 7
  | .patnClr la w => put la 28 + put w 16
  | .cachPf2 la n p => put la 28 + putB n 16 + put p 7
  | .cachFlush la p => put la 28 + put p 7
  | .cachInv la p => put la 28 + put p 7
  | .cachSinv la => put la 28
  | .cachFlushall la => put la 28
  | .dramPromote la p => put la 28 + put p 7
  | .dramPin la p => put la 28 + put p 7
  | .dramUnpin la p => put la 28 + put p 7
  | .dramDemote la p => put la 28 + put p 7
  | .fenc y x sz => put y 23 + put x 16 + put sz 7
  | _ => 0

/-- The operand bits of majors 19–24. -/
def operandsPtr : Instr → Nat
  | .pset n s fld p => put n 14 + put s 12 + put fld 10 + put p 7
  | .paddImm n fld p => put n 14 + put fld 10 + put p 7
  | .paddSh12 n fld p => put n 14 + put fld 10 + put p 7
  | .paddStep n p => put n 14 + put p 7
  | .pmovMov la s d => put la 28 + put s 16 + put d 7
  | .pmovToa la g p => put la 28 + put g 16 + put p 7
  | .pmovFroma la g p => put la 28 + put g 16 + put p 7
  | .pmovGsv la c n m q => put la 28 + putB c 22 + put n 19 + put m 16 + put q 7
  | .pmovGld la c n m q => put la 28 + putB c 22 + put n 19 + put m 16 + put q 7
  | .pmovZero la p => put la 28 + put p 7
  | .pmovGetlink la p => put la 28 + put p 7
  | .pmovSetlink la p => put la 28 + put p 7
  | .aimmBcast n fld => put n 14 + put fld 10
  | .aimmLane0 n fld => put n 14 + put fld 10
  | .aimmOnly0 n fld => put n 14 + put fld 10
  | .aimmAdd n fld => put n 14 + putB fld 10
  | .kopsAnd d a b => put d 26 + put a 24 + put b 22
  | .kopsOr d a b => put d 26 + put a 24 + put b 22
  | .kopsXor d a b => put d 26 + put a 24 + put b 22
  | .kopsAndn d a b => put d 26 + put a 24 + put b 22
  | .kopsNot d a => put d 26 + put a 24
  | .kopsMov d a => put d 26 + put a 24
  | .kopsSet d => put d 26
  | .kopsClr d => put d 26
  | .kopsFirst d a => put d 26 + put a 24
  | .kopsFroma d => put d 26
  | .kopsToa a => put a 24
  | .kopsPrefix d p => put d 26 + put p 7
  | .kopsPopc a => put a 24
  | .br n => put n 13
  | .brCall n => put n 13
  | .brCnz n s => put n 13 + put s 10
  | .brCz n s => put n 13 + put s 10
  | .brKany n s => put n 13 + put s 10
  | .brKnone n s => put n 13 + put s 10
  | .brNeg n => put n 13
  | .brEqz n => put n 13
  | .brNez n => put n 13
  | _ => 0

/-- The operand bits of majors 25–38. -/
def operandsSys : Instr → Nat
  | .randRaw la k inc p => put la 28 + put k 19 + putB inc 10 + put p 7
  | .randUnif la k inc p => put la 28 + put k 19 + putB inc 10 + put p 7
  | .jumpJr p => put p 7
  | .jumpJalr p => put p 7
  | .jumpJidx inc p => put inc 16 + put p 7
  | .csrRd la rm => put la 28 + put rm 16
  | .csrWr la rm => put la 28 + put rm 16
  | .csrSetb la rm => put la 28 + put rm 16
  | .csrClrb la rm => put la 28 + put rm 16
  | .csrSkld la s p => put la 28 + put s 16 + put p 7
  | .csrSkst la s p => put la 28 + put s 16 + put p 7
  | .trapSwt n => put n 16
  | .trapBrk n => put n 16
  | .protInvd d => put d 16
  | .protInva p => put p 7
  | .protRde e => put e 16
  | .protWre e => put e 16
  | .ctxsStop n => put n 16
  | .ctxsSave n p => put n 16 + put p 7
  | .ctxsLoad n p => put n 16 + put p 7
  | .ctxsGo n => put n 16
  | .nopsPause n => put n 16
  | .strnStart p => put p 7
  | .strnJoinw h => put h 16
  | .strnBindh t p => put t 16 + put p 7
  | .syncArrive q p => put q 16 + put p 7
  | .syncWait q p => put q 16 + put p 7
  | .syncArrwt q p => put q 16 + put p 7
  | .syncSignal p => put p 7
  | .syncCwait p => put p 7
  | .syncCread p => put p 7
  | .syncCset p => put p 7
  | .ringAwait p => put p 7
  | .ringRelease p => put p 7
  | .ringPost p => put p 7
  | .ringSlot p => put p 7
  | .msgSend la n p => put la 28 + put n 16 + put p 7
  | .msgPop la c => put la 28 + put c 16
  | .msgPeek la c => put la 28 + put c 16
  | .msgBindc la c t p => put la 28 + put c 24 + put t 16 + put p 7
  | .msgUnbind la t => put la 28 + put t 16
  | .msgQuota la t p => put la 28 + put t 16 + put p 7
  | .copyAppend la p => put la 28 + put p 7
  | .copyExpect la p => put la 28 + put p 7
  | .copyWait la => put la 28
  | .mtrxSclaim p => put p 7
  | .mtrxSrel s p => put s 16 + put p 7
  | .mtrxStat c => putB c 16
  | .mtrxCont d => putB d 16
  | _ => 0

/-- The parcels of an instruction as one number, the first parcel lowest. -/
def encodeNat (i : Instr) : Nat :=
  opcode i + operandsH i + operandsLane i + operandsMem i + operandsPtr i + operandsSys i

/-- The length of an instruction in bytes (10 R223). -/
def Instr.len : Instr → Nat
  | .illegalInstruction parcels => if parcels.toNat % 2 = 0 then 2 else 4
  | .hLda _ => 2
  | .hSta _ _ _ _ => 2
  | .hAdd _ => 2
  | .hSub _ => 2
  | .hRsub _ => 2
  | .hMul _ => 2
  | .hFma _ => 2
  | .hMin _ => 2
  | .hMax _ => 2
  | .hAnd _ => 2
  | .hOr _ => 2
  | .hXor _ => 2
  | .hShl _ _ _ _ => 2
  | .hShra _ _ _ _ => 2
  | .hAcc _ => 2
  | .hCmplt _ => 2
  | _ => 4

/-- The parcels of an instruction, in memory order. -/
def encode (i : Instr) : List (BitVec 16) :=
  if i.len = 2 then [BitVec.ofNat 16 (encodeNat i)]
  else [BitVec.ofNat 16 (encodeNat i), BitVec.ofNat 16 (encodeNat i / 65536)]

/-- The bytes of an instruction, in memory order. -/
def encodeBytes (i : Instr) : List Byte := leBytes i.len (encodeNat i)

end Sys2Proof
end

