-- ==== Sys2Proof/Machine/Map.lean ====
section
/-!
DEFINITION. Map.lean: the region table (02 R52–R54) and the media behind a physical address (02 R55, R56). Device
memory is keyed by media: ((class × 16 + stack) × 2^23 + media region) × 2^21 + offset.
-/
namespace Sys2Proof.Machine

/-! ## The region table -/

/-- Entry r of the table before boot has verified a configuration record (02 R53; log 3): regions 0–380,927 on the near and
far media of the twelve stacks, 31,744 regions of a stack in a row, its near media first. -/
def defaultRegion (r : Nat) : BitVec 32 :=
  if r < 380928 then
    let stack := r / 31744
    let i := r % 31744
    if i < 1024 then BitVec.ofNat 32 (2 ^ 31 + stack * 2 ^ 23 + i)
    else BitVec.ofNat 32 (2 ^ 31 + 2 ^ 27 + stack * 2 ^ 23 + (i - 1024))
  else 0

/-- Entry r of the default table in use: that of the configuration record, once boot has verified one (01 R14). -/
def baseRegion (s : State) (r : Nat) : BitVec 32 :=
  match s.package.regionRecord with
  | none => defaultRegion r
  | some record => Config.recordRegion record r
/-- Region-table entry r; State lists the difference from the default table. -/
def regionEntry (s : State) (r : Nat) : BitVec 32 := Table.get 0 s.package.regions r ^^^ baseRegion s r
/-- Region-table entry r written. -/
def setRegion (s : State) (r : Nat) (v : BitVec 32) : State :=
  { s with package := { s.package with regions := Table.set 0 s.package.regions r (v ^^^ baseRegion s r) } }

/-- V -/
def rgValid (e : BitVec 32) : Bool := e.getLsbD 31
/-- STATE: 0 normal, 1 swapping, 2 releasing, 3 maintenance -/
def rgState (e : BitVec 32) : Nat := e.toNat / 2 ^ 29 % 4
/-- CLASS: 0 near, 1 far, 2 expander -/
def rgClass (e : BitVec 32) : Nat := e.toNat / 2 ^ 27 % 4
/-- STACK -/
def rgStack (e : BitVec 32) : Nat := e.toNat / 2 ^ 23 % 16
/-- MEDIA -/
def rgMedia (e : BitVec 32) : Nat := e.toNat % 2 ^ 23
/-- The entry with another STATE. -/
def withRgState (e : BitVec 32) (st : Nat) : BitVec 32 :=
  BitVec.ofNat 32 (e.toNat / 2 ^ 31 * 2 ^ 31 + st * 2 ^ 29 + e.toNat % 2 ^ 29)

/-- Media regions of a class while the stack has this many channels (02 R53, R60). -/
def liveMedia (retired : Bool) (cls : Nat) : Nat :=
  match cls with
  | 0 => if retired then 992 else 1024
  | 1 => if retired then 29760 else 30720
  | _ => 2 ^ 23

/-- The entry may be accessed (02 R53); a stack whose second channel failed has no valid region (02 R60). -/
def regionOk (s : State) (e : BitVec 32) : Bool :=
  rgValid e && rgClass e != 3 && rgStack e < 12 && (rgClass e != 2 || rgStack e == 11) &&
    rgMedia e < liveMedia (s.stack (rgStack e)).retired.isSome (rgClass e) && !(s.stack (rgStack e)).dead

/-- The key of device memory for a media place. -/
def mediaKey (cls stack media off : Nat) : Nat := ((cls * 16 + stack) * 2 ^ 23 + media) * 2 ^ 21 + off
/-- The class of a key. -/
def keyClass (key : Nat) : Nat := key / 2 ^ 44 / 16
/-- The stack of a key. -/
def keyStack (key : Nat) : Nat := key / 2 ^ 44 % 16
/-- The line of a key within its class and stack (02 R55). -/
def keyLine (key : Nat) : Nat := key % 2 ^ 44 / 128

/-- The number of an entry's media region among all: its keys divided by 2 MiB. -/
def entryMedia (e : BitVec 32) : Nat := mediaKey (rgClass e) (rgStack e) (rgMedia e) 0 / 2 ^ 21
/-- The key of a physical address under its region entry. -/
def regionKey (e : BitVec 32) (pa : Nat) : Nat := mediaKey (rgClass e) (rgStack e) (rgMedia e) (pa % 2 ^ 21)
/-- The region entry of a physical address; bits above 39 name no region. -/
def paEntry (s : State) (pa : Nat) : BitVec 32 := if pa < 2 ^ 40 then regionEntry s (pa / 2 ^ 21) else 0
/-- The key of a physical address, where its region may be accessed. -/
def paKey (s : State) (pa : Nat) : Option Nat :=
  let e := paEntry s pa
  if regionOk s e then some (regionKey e pa) else none

/-- A valid region whose media holds a key, the lowest-numbered one. -/
def keyRegion (s : State) (key : Nat) : Option Nat :=
  (List.range 524288).find? fun r =>
    let e := regionEntry s r
    rgValid e && mediaKey (rgClass e) (rgStack e) (rgMedia e) 0 == key / 2 ^ 21 * 2 ^ 21
/-- The physical address of a key, under that region. -/
def keyPa (s : State) (key : Nat) : Option Nat := (keyRegion s key).map fun r => r * 2 ^ 21 + key % 2 ^ 21

/-- Bytes at a physical address; zero where no region is. -/
def paBytes (s : State) (pa n : Nat) : List Byte :=
  match paKey s pa with
  | some k => s.dmem.bytes k n
  | none => List.replicate n 0
/-- Bytes written at a physical address. -/
def setPaBytes (s : State) (pa : Nat) (bs : List Byte) : State :=
  match paKey s pa with
  | some k => { s with dmem := s.dmem.setBytes k bs }
  | none => s

/-! ## Channels and rows (02 R55, R56) -/

/-- The live channels of a stack. -/
def liveChannels (x : Stack) : Nat := if x.retired.isSome then 31 else 32
/-- The physical channel of a logical channel (02 R55). -/
def physChannel (x : Stack) (c : Nat) : Nat :=
  match x.retired with
  | some r => if c < r then c else c + 1
  | none => c
/-- The physical channel (home slice, hook) of a key. The map of 02 R55 is given for classes N and F; DESIGN CHOICE (log 35):
a CLASS X line takes its slice and its set by the same formula. -/
def keySlice (s : State) (key : Nat) : Nat :=
  let x := s.stack (keyStack key)
  physChannel x (keyLine key % liveChannels x)
/-- The channel line f of a key. -/
def keyChannelLine (s : State) (key : Nat) : Nat := keyLine key / liveChannels (s.stack (keyStack key))
/-- The set of a key in its home slice. -/
def keySet (s : State) (key : Nat) : Nat := keyChannelLine s key % 2048
/-- The row of a far line. -/
def farRow (f : Nat) : Nat := f / 512 % 480 + 32
/-- The subarray of a far line, numbered (channel × 32 + bank) × 64 + subarray of the bank. -/
def farSubarray (channel f : Nat) : Nat := (channel * 32 + f / 16 % 32) * 64 + f / 245760

/-! ## Sector metadata (02 R65) -/

/-- The metadata word of the sector that holds a key. -/
def sectorOf (s : State) (key : Nat) : W64 := Table.get 0 s.sectors (key / 32)
/-- The metadata word written. -/
def setSector (s : State) (key : Nat) (w : W64) : State :=
  { s with sectors := Table.set 0 s.sectors (key / 32) w }
/-- P -/
def secPoison (w : W64) : Bool := w.getLsbD 63
/-- The word with P set or clear. -/
def withPoison (w : W64) (p : Bool) : W64 := w.extractLsb' 0 63 |>.setWidth 64 |>.or (if p then 2 ^ 63 else 0)
/-- SV -/
def secStamped (w : W64) : Bool := w.getLsbD 62
/-- SOBJ -/
def secObj (w : W64) : Nat := w.toNat / 2 ^ 58 % 16
/-- SGEN -/
def secGen (w : W64) : BitVec 18 := w.extractLsb' 40 18
/-- The word stamped (08 R197). -/
def withStamp (w : W64) (obj : Nat) (gen : BitVec 18) : W64 :=
  BitVec.ofNat 64 (w.toNat / 2 ^ 63 * 2 ^ 63 + 2 ^ 62 + obj % 16 * 2 ^ 58 + gen.toNat * 2 ^ 40 + w.toNat % 2 ^ 40)
/-- OWNA and MASKA, or OWNB and MASKB: the owner's 12-bit core and its words. -/
def secOwner (w : W64) (second : Bool) : Nat × BitVec 8 :=
  if second then (w.toNat / 2 ^ 8 % 2 ^ 12, w.extractLsb' 0 8) else (w.toNat / 2 ^ 28 % 2 ^ 12, w.extractLsb' 20 8)
/-- The word with these owners. -/
def withOwners (w : W64) (a b : Nat × BitVec 8) : W64 :=
  BitVec.ofNat 64 (w.toNat / 2 ^ 40 * 2 ^ 40 + a.1 % 2 ^ 12 * 2 ^ 28 + a.2.toNat * 2 ^ 20 + b.1 % 2 ^ 12 * 2 ^ 8 + b.2.toNat)

end Sys2Proof.Machine
end

