-- ==== Sys2Proof/Machine/Flits.lean ====
section
/-!
DEFINITION. Flits.lean: flits of the Ndemen links and their CRC (01 R29, R30), what a link sends (R31–R33), and the requests and
packets to other packages that leave as flits (R35, R36).
-/
namespace Sys2Proof.Machine

/-! ## Flits (01 R29, R30) -/

/-- One bit of the CRC-64 of ECMA-182. -/
def crc64Bit (c : W64) : W64 := if c.getLsbD 63 then (c <<< 1) ^^^ 0x42F0E1EBA9EA3693 else c <<< 1
/-- n bits. -/
def crc64Bits : Nat → W64 → W64
  | 0, c => c
  | n + 1, c => crc64Bits n (crc64Bit c)
/-- The register after a byte string. -/
def crc64Bytes : W64 → List Byte → W64
  | c, [] => c
  | c, b :: bs => crc64Bytes (crc64Bits 8 (c ^^^ (b.setWidth 64 <<< 56))) bs
/-- The CRC field of a header and a payload. DESIGN CHOICE (log 35): the header enters little-endian. -/
def flitCrc (header : W64) (payload : List Byte) : W64 :=
  crc64Bytes 0 (toBytes 8 header.toNat ++ (payload ++ List.replicate (240 - payload.length) 0).take 240)

/-- KIND -/
def flitKind (f : Flit) : Nat := f.header.toNat / 2 ^ 60
/-- CLASS -/
def flitClass (f : Flit) : Nat := f.header.toNat / 2 ^ 58 % 4
/-- SEQ -/
def flitSeq (f : Flit) : BitVec 8 := f.header.extractLsb' 50 8
/-- ACK -/
def flitAck (f : Flit) : BitVec 8 := f.header.extractLsb' 42 8
/-- SRC -/
def flitSrc (f : Flit) : Nat := f.header.toNat / 2 ^ 14 % 2 ^ 14
/-- RSM -/
def flitRsm (f : Flit) : Bool := f.header.getLsbD 5
/-- The flit is intact: its CRC passes, and no rule of R30 counts it as a CRC failure. -/
def flitIntact (f : Flit) : Bool :=
  f.crc == flitCrc f.header f.payload && decide ((flitKind f) < 6) && decide (f.header.toNat / 64 % 256 ≤ 240) &&
    f.header.toNat % 32 == 0 && !((flitRsm f) && (flitKind f) != 1) && !((flitClass f) == 3 && (flitKind f) == 1)

/-- A flit with another SEQ, ACK and RSM, sealed. -/
def stampFlit (f : Flit) (seq ack : BitVec 8) (rsm : Bool) : Flit :=
  let h := f.header.toNat
  let header := BitVec.ofNat 64 (h / 2 ^ 58 * 2 ^ 58 + seq.toNat * 2 ^ 50 + ack.toNat * 2 ^ 42 + h % 2 ^ 42 / 64 * 64 +
    (if rsm then 32 else 0))
  { header := header, payload := f.payload, crc := flitCrc header f.payload }
/-! ## Sending (01 R31–R33) -/

/-- Flits sent in order under fresh SEQs; the first with RSM, where it is the first of a resend. -/
def sendFlits (rsm : Bool) : List Flit → Link → Link
  | [], x => x
  | f :: fs, x =>
    let g := stampFlit f x.txSeq (x.rxSeq - 1) rsm
    sendFlits false fs { x with txSeq := x.txSeq + 1, replay := x.replay ++ [g], wire := x.wire ++ [g] }
/-- The places free in the replay buffer, which holds 128 flits. -/
def Link.room (x : Link) : Nat := 128 - x.replay.length
/-- Flits of class c sent as the replay buffer has room: those of a resend under way, then those not sent yet; none while the
class holds refused flits. -/
def pumpClass (x : Link) (c : Nat) : Link :=
  if !(Table.get [] x.hold c).isEmpty then x
  else
    let again := Table.get [] x.resend c
    let x := sendFlits false (again.take x.room) { x with resend := Table.set [] x.resend c (again.drop x.room) }
    if !(Table.get [] x.resend c).isEmpty then x
    else
      let new := Table.get [] x.waiting c
      sendFlits false (new.take x.room) { x with waiting := Table.set [] x.waiting c (new.drop x.room) }
/-- What a link may send goes out; a link that is not up sends nothing new. DESIGN CHOICE (log 35): nor does one whose LINKEN bit
has been cleared and whose clear has not taken effect: the spec speaks only of the flits in its replay buffer (01 R38). -/
def Link.pump (x : Link) : Link := if x.status != 0 || x.closing then x else (List.range 4).foldl pumpClass x

/-! ## Requests to other packages (01 R35, R36, R38) -/

/-- The package of a member number: a member of the own domain, or 128 + the identifier of another one. -/
def memberPkg (s : State) (m : Nat) : Nat := if m < 128 then s.package.pkg.toNat / 128 * 128 + m else m - 128
/-- The first link that takes new traffic: it is up, and its LINKEN bit is not cleared (01 R38). Which link carries what is not given
(log 17). -/
def upLink (s : State) : Option Nat := (List.range 18).find? fun l => (s.link l).status == 0 && !(s.link l).closing
/-- A request or a packet to another package leaves as a flit of its class; the layout of its payload is not given (log 17). -/
def outgoing (cls pkg : Nat) (s : State) : State :=
  match upLink s with
  | none => s
  | some l =>
    let x := s.link l
    let payload := (Config.flitPayload s.steps).take 240
    let f : Flit :=
      { header := BitVec.ofNat 64 (2 ^ 60 + cls * 2 ^ 58 + pkg * 2 ^ 28 + s.package.pkg.toNat * 2 ^ 14 + payload.length * 2 ^ 6)
        payload := payload, crc := 0 }
    s.setLink l (Link.pump { x with waiting := Table.set [] x.waiting cls (Table.get [] x.waiting cls ++ [f]) })

end Sys2Proof.Machine
end

