-- ==== Sys2Proof/Machine/Events.lean ====
section
/-!
DEFINITION. Events.lean: the 64-byte record rule and its CRC (03 R90), event records (03 R92–R96), the windows that
bound device accesses (01 R37, R38), domains and tenants, and packets on their way (06 R147, R148).
-/
namespace Sys2Proof.Machine

/-! ## Records (03 R90) -/

/-- One bit of the reflected CRC-32. -/
def crcBit (c : BitVec 32) : BitVec 32 := if c.getLsbD 0 then (c >>> 1) ^^^ 0xEDB88320 else c >>> 1
/-- n bits. -/
def crcBits : Nat → BitVec 32 → BitVec 32
  | 0, c => c
  | n + 1, c => crcBits n (crcBit c)
/-- The register after a byte string. -/
def crcBytes : BitVec 32 → List Byte → BitVec 32
  | c, [] => c
  | c, b :: bs => crcBytes (crcBits 8 (c ^^^ b.setWidth 32)) bs
/-- CRC-32 of IEEE 802.3 (03 R90). -/
def crc32 (bs : List Byte) : BitVec 32 := crcBytes 0xFFFFFFFF bs ^^^ 0xFFFFFFFF

/-- The 64 bytes of a record. -/
def recBytes (r : BitVec 512) : List Byte := toBytes 64 r.toNat
/-- A record of 64 bytes. -/
def ofRecBytes (bs : List Byte) : BitVec 512 := BitVec.ofNat 512 (ofBytes (bs.take 64))
/-- A record sealed: bytes 60–63 hold the CRC of bytes 0–59. -/
def sealRecord (r : BitVec 512) : BitVec 512 :=
  let low := r.toNat % 2 ^ 480
  BitVec.ofNat 512 (low + (crc32 (toBytes 60 low)).toNat * 2 ^ 480)
/-- The record passes its CRC. -/
def recordOk (r : BitVec 512) : Bool := sealRecord r == r

/-- Bytes laid over a byte string from an offset on. -/
def overlay (base : List Byte) (off : Nat) (bs : List Byte) : List Byte :=
  base.take off ++ (bs.take (base.length - off)) ++ base.drop (off + bs.length)
/-- A string of n zero bytes with fields laid over it: offset, length, value. -/
def layout (n : Nat) (fields : List (Nat × Nat × Nat)) : List Byte :=
  fields.foldl (fun b f => overlay b f.1 (toBytes f.2.1 f.2.2)) (List.replicate n 0)

/-! ## Windows to the outside (01 R37, R38) -/

/-- An enabled window covers the 64 KiB granule of a host bus address; DMAWIN n at n, XPWIN n at 16 + n. -/
def windowCovers (s : State) (first : Nat) (addr : Nat) : Bool :=
  s.package.windows.any fun w =>
    first ≤ w.1 && w.1 < first + 16 && w.2.2.2 && w.2.1.toNat ≤ addr / 65536 && addr / 65536 ≤ w.2.2.1.toNat

/-- n bytes of host memory. -/
def hostBytes (s : State) (a n : Nat) : List Byte := s.package.hostMem.bytes a n
/-- Host memory written. -/
def setHostBytes (s : State) (a : Nat) (bs : List Byte) : State :=
  { s with package := { s.package with hostMem := s.package.hostMem.setBytes a bs } }

/-! ## Domains (07 R165, 01 R41 TDOM) -/

/-- The identifier of a domain. -/
def domId (d : BitVec 16) : Nat := d.toNat / 16
/-- The service domain or a supervisor domain: not a tenant's (07 R165). -/
def privileged (d : BitVec 16) : Bool := decide (domId d < 4)
/-- A supervisor domain: identifiers 1–3 (07 R165). -/
def supervisory (d : BitVec 16) : Bool := decide (1 ≤ domId d ∧ domId d < 4)
/-- The domain of a tenant (TDOM [15:0]). -/
def tenantDomain (s : State) (t : Nat) : BitVec 16 := (s.tenant t).tdom.setWidth 16
/-- TDOM is valid. -/
def tenantValid (s : State) (t : Nat) : Bool := (s.tenant t).tdom.getLsbD 16
/-- The tenant of a domain; none for firmware's. -/
def tenantOf (s : State) (d : BitVec 16) : Option Nat :=
  (List.range 32).find? fun t => tenantValid s t && tenantDomain s t == d

/-! ## Event records (03 R92–R96) -/

/-- The capacity of a tenant's ring: EVCTL.LOG. -/
def ringSize (x : Tenant) : Nat := 2 ^ (x.evCtl.toNat % 32)
/-- The ring takes records: enabled, and EVBASE inside an enabled DMAWIN. DESIGN CHOICE (log 56): while EVCTL.enable is 0 events count
as lost and are not buffered, as where no window covers EVBASE. -/
def ringOpen (s : State) (x : Tenant) : Bool := x.evCtl.getLsbD 24 && windowCovers s 0 x.evBase.toNat

/-- A record of this PHASE, sealed: PHASE is bit 88. -/
def withPhase (r : BitVec 512) (phase : Bool) : BitVec 512 :=
  sealRecord (BitVec.ofNat 512 (r.toNat / 2 ^ 89 * 2 ^ 89 + (if phase then 2 ^ 88 else 0) + r.toNat % 2 ^ 88))

/-- The entry of the MSI-X table for vector v of a tenant (03 R82); PRESUMED (PCIe; log 36): an entry that has not been
written is masked, its other fields zero. -/
def msixEntry (s : State) (n : Nat) : BitVec 128 := Table.get (BitVec.ofNat 128 (2 ^ 96)) s.package.msix n
/-- Vector v of a tenant raised: its message goes to the host, or the entry is masked and the vector is pending (03 R82). -/
def raiseVector (t v : Nat) (s : State) : State :=
  let n := t * 64 + v
  if (msixEntry s n).getLsbD 96 then
    { s with package := { s.package with msixPending := (s.package.msixPending.filter fun m => m != n) ++ [n] } }
  else s.setTenant t { s.tenant t with raised := (s.tenant t).raised ++ [v] }
/-- Bytes written to the MSI-X table; vectors that were pending and are masked no more are raised. -/
def msixWrite (off size : Nat) (v : W64) (s : State) : State :=
  let n := off / 16
  if 2048 ≤ n || !((size == 4 || size == 8) && off % size == 0) then s
  else
    let new := ofBytes (overlay (toBytes 16 (msixEntry s n).toNat) (off % 16) (toBytes size v.toNat))
    let s := { s with package := { s.package with
      msix := Table.set (BitVec.ofNat 128 (2 ^ 96)) s.package.msix n (BitVec.ofNat 128 new) } }
    if s.package.msixPending.contains n && !(msixEntry s n).getLsbD 96 then
      raiseVector (n / 64) (n % 64) { s with package := { s.package with
        msixPending := s.package.msixPending.filter fun m => m != n } }
    else s

/-- Event n written into a tenant's ring; the vector raised as the coalescing count asks. DESIGN CHOICE (log 56): a vector raised
because the ring was empty starts the count again. -/
def ringWrite (s : State) (t : Nat) (r : BitVec 512) : State :=
  let x := s.tenant t
  let n := x.evProd.toNat
  let size := ringSize x
  let empty := x.evProd == x.evCons
  let s := setHostBytes s (x.evBase.toNat + n % size * 64) (recBytes (withPhase r ((n / size + 1) % 2 == 1)))
  let since := x.evSince + 1
  let due := empty || x.evCtl.toNat / 2 ^ 16 % 256 ≤ since
  let s := s.setTenant t { x with evProd := x.evProd + 1, evSince := if due then 0 else since }
  if due then raiseVector t (x.evCtl.toNat / 2 ^ 8 % 64) s else s

/-- Space in the ring. -/
def ringSpace (x : Tenant) : Bool := (x.evProd - x.evCons).toNat < ringSize x

/-- Buffered events written while there is space (03 R95). -/
def ringDrain : Nat → State → Nat → State
  | 0, s, _ => s
  | f + 1, s, t =>
    let x := s.tenant t
    match x.evBuffer with
    | [] => s
    | r :: rs =>
      if ringSpace x && ringOpen s x then
        ringDrain f (ringWrite (s.setTenant t { x with evBuffer := rs }) t r) t
      else s

/-- The count of events of a source in a tenant's ring (255: the service tenant's) is kept under this key: SEQ rises by 1
from each event of the source to the next in every ring (03 R96). -/
def seqKey (tenant src : Nat) : Nat := tenant * 2 ^ 32 + src
/-- One more event of a source for a tenant's ring. -/
def countEvent (tenant src : Nat) (s : State) : State :=
  { s with package := { s.package with
    eventSeq := Table.set 0 s.package.eventSeq (seqKey tenant src)
      (Table.get 0 s.package.eventSeq (seqKey tenant src) + 1) } }
/-- A record of type ty from a source, for a tenant (255: the service tenant), not yet phased or sealed. -/
def eventRecord (s : State) (tenant src ty : Nat) (detail : List (Nat × Nat × Nat)) : BitVec 512 :=
  let seq := Table.get 0 s.package.eventSeq (seqKey tenant src)
  ofRecBytes (layout 64
    ([(0, 8, s.now.toNat), (8, 2, ty), (10, 1, tenant), (12, 4, src), (16, 8, seq.toNat)] ++ detail))

/-- The buffer of 64 is empty and the events lost are due: EVENTS_LOST follows the buffered events. -/
def postLost (s : State) (t : Nat) : State :=
  let x := s.tenant t
  if x.evBuffer == [] && x.evLost != 0 && ringSpace x && ringOpen s x then
    let src := 5 * 2 ^ 28
    let r := eventRecord s t src 10 [(24, 8, x.evLost.toNat)]
    ringWrite ((countEvent t src s).setTenant t { x with evLost := 0 }) t r
  else s

/-- The service tenant's ring has space (03 R81): 1,024 records at the device address SEVBASE. -/
def serviceSpace (s : State) : Bool := (s.package.sevprod - s.package.sevcons).toNat < 1024

/-- A record written into the service tenant's ring. DESIGN CHOICE (log 56): so is one posted before firmware has created that tenant
and set SEVBASE, at SEVBASE's reset value. -/
def serviceWrite (s : State) (r : BitVec 512) : State :=
  let n := s.package.sevprod.toNat
  let s := setPaBytes s (s.package.sevbase.toNat + n % 1024 * 64) (recBytes (withPhase r ((n / 1024 + 1) % 2 == 1)))
  { s with package := { s.package with sevprod := s.package.sevprod + 1 } }

/-- The service tenant's buffered events written while there is space. -/
def serviceDrain : Nat → State → State
  | 0, s => s
  | f + 1, s =>
    match s.package.sevBuffer with
    | [] => s
    | r :: rs =>
      if serviceSpace s then
        serviceDrain f (serviceWrite { s with package := { s.package with sevBuffer := rs } } r)
      else s

/-- EVENTS_LOST in the service tenant's ring. -/
def serviceLost (s : State) : State :=
  if s.package.sevBuffer == [] && s.package.sevLost != 0 && serviceSpace s then
    let src := 5 * 2 ^ 28
    let r := eventRecord s 255 src 10 [(24, 8, s.package.sevLost.toNat)]
    let s := countEvent 255 src s
    serviceWrite { s with package := { s.package with sevLost := 0 } } r
  else s

/-- An event posted (03 R95): written, buffered while the ring is full, or counted as lost. -/
def postEvent (s : State) (tenant : Option Nat) (src ty : Nat) (detail : List (Nat × Nat × Nat)) : State :=
  let r := eventRecord s (tenant.getD 255) src ty detail
  let s := countEvent (tenant.getD 255) src s
  match tenant with
  | none =>
    if s.package.sevBuffer == [] && serviceSpace s then serviceWrite s r
    else if s.package.sevBuffer.length < 64 then
      { s with package := { s.package with sevBuffer := s.package.sevBuffer ++ [r] } }
    else { s with package := { s.package with sevLost := s.package.sevLost + 1 } }
  | some t =>
    let x := s.tenant t
    if !ringOpen s x then s.setTenant t { x with evLost := x.evLost + 1 }
    else if x.evBuffer == [] && ringSpace x then ringWrite s t r
    else if x.evBuffer.length < 64 then s.setTenant t { x with evBuffer := x.evBuffer ++ [r] }
    else s.setTenant t { x with evLost := x.evLost + 1 }

/-- SOURCE words (03 R92): kind and number within the kind (log 12). -/
def srcQueue (tenant queue : Nat) : Nat := tenant * 16 + queue
/-- An edge engine as a source. -/
def srcEngine (panel engine : Nat) : Nat := 2 ^ 28 + panel * 8 + engine
/-- A strand as a source. -/
def srcStrand (k : StrandId) : Nat := 2 * 2 ^ 28 + k
/-- A stack as a source. -/
def srcStack (n : Nat) : Nat := 3 * 2 ^ 28 + n
/-- A link as a source. -/
def srcLink (n : Nat) : Nat := 4 * 2 ^ 28 + n
/-- Firmware as a source. DESIGN CHOICE (log 12): it is the SOURCE of EVENTS_LOST, TRACE_DIVERGE, TASK_RESTARTED and CORE_KILLED too,
and of the ACCESS_FAULTs of a swift and of the host. -/
def srcFirmware : Nat := 5 * 2 ^ 28

/-- The event of every tenant that is present, and of the service tenant. -/
def postAll (s : State) (src ty : Nat) (detail : List (Nat × Nat × Nat)) : State :=
  let s := (List.range 32).foldl (fun s t => if (s.tenant t).present then postEvent s (some t) src ty detail else s) s
  postEvent s none src ty detail

/-! ## Packets (06 R147, R148) -/

/-- A source identifier: panel, unit, strand (06 R148). -/
def sourceId (pkg panel unit strand : Nat) : BitVec 32 :=
  BitVec.ofNat 32 (pkg * 2 ^ 18 + panel * 2 ^ 14 + unit * 2 ^ 6 + strand * 4)
/-- The source identifier of a strand. -/
def strandSource (s : State) (k : StrandId) : BitVec 32 :=
  sourceId s.package.pkg.toNat k.core.panel k.core.index k.num

/-- What a route word names. -/
inductive RouteResult where
  | invalid
  | priv
  /-- a core of this package -/
  | core (c : CoreId) (tag : BitVec 8)
  /-- another package -/
  | package (pkg : Nat)
  deriving DecidableEq, Repr

/-- Decode a route word for a sender, privileged or not (06 R147). -/
def route (s : State) (priv : Bool) (r : W64) : RouteResult :=
  let w := r.toNat
  let panel := w / 2 ^ 20 % 16
  let core := w / 2 ^ 12 % 256
  let pkg := w / 2 ^ 24 % 2 ^ 14
  let lcl := w / 2 ^ 38 % 2 == 1
  if w / 2 ^ 39 != 0 || w / 256 % 16 != 0 || 11 < panel || 195 < core || (lcl && pkg != 0) then .invalid
  else if !priv && 192 ≤ core then .priv
  else if lcl || pkg == s.package.pkg.toNat then .core (mkCore panel core) (BitVec.ofNat 8 w)
  else .package pkg

/-- The route word of a core of this package. -/
def routeTo (c : CoreId) (tag : Nat) : W64 :=
  BitVec.ofNat 64 (2 ^ 38 + c.panel * 2 ^ 20 + c.index * 2 ^ 12 + tag)

/-- The pair of a packet (06 R154): source and tag. -/
def Packet.pair (p : Packet) : BitVec 32 × BitVec 8 := (p.source, p.route.setWidth 8)

/-- A packet sent out: it reaches its core, or leaves for another package as a flit of class 2 (06 R148). -/
def packetOut (p : Packet) (s : State) : State :=
  (match route s true p.route with
    | .package pkg => outgoing 2 pkg s
    | _ => s).post .packetArrival { id := p.id }

/-- A packet given to the network: it goes out once every earlier packet of its pair is done (06 R154). -/
def sendPacket (s : State) (p : Packet) : State :=
  let (id, s) := s.fresh
  let first := !s.packets.any fun q => q.pair == p.pair
  let s := { s with packets := s.packets ++ [{ p with id := id, order := id, outstanding := first }] }
  if first then packetOut { p with id := id } s else s

end Sys2Proof.Machine
end

