-- ==== Sys2Proof/Machine/Commands.lean ====
section
/-!
DEFINITION. Commands.lean: the fields of matrix commands (14 R342) and the rows that they touch (09 R218), and what the strands of a
core have pending that waits for its matrix unit or for copies: changes of skeins and pattern slots, pushes (14 R338) and COPY.WAIT
(R331).
-/
namespace Sys2Proof.Machine

/-! ## Fields (14 R342) -/

/-- OPC -/
def cmdOpc (r : BitVec 512) : Nat := recBits r 0 8
/-- SA -/
def cmdSa (r : BitVec 512) : Nat := recBits r 16 5
/-- SB -/
def cmdSb (r : BitVec 512) : Nat := recBits r 21 5
/-- TD -/
def cmdTd (r : BitVec 512) : Nat := recBits r 26 2
/-- TS -/
def cmdTs (r : BitVec 512) : Nat := recBits r 28 2
/-- KC -/
def cmdKc (r : BitVec 512) : Nat := recBits r 36 4
/-- SK -/
def cmdSk (r : BitVec 512) : Nat := recBits r 40 6
/-- FA -/
def cmdFa (r : BitVec 512) : Nat := recBits r 64 5
/-- FB -/
def cmdFb (r : BitVec 512) : Nat := recBits r 69 5
/-- SOBJ -/
def cmdSobj (r : BitVec 512) : Nat := recBits r 384 16
/-- WT -/
def cmdWt (r : BitVec 512) : Bool := recBits r 15 1 == 1
/-- Bit [8 + i] of OF. -/
def cmdOf (r : BitVec 512) (i : Nat) : Bool := recBits r (8 + i) 1 == 1

/-! ## What a queued command refers to (09 R220, 14 R338) -/

/-- Row r of n elements at the command's origins: address, bits before the first element, bytes, elements within the
extents; none where the row lies outside (09 R218). -/
def skeinRow (sk w : BitVec 512) (r n : Nat) : Option (Nat × Nat × Nat × Nat) :=
  let o0 := recBits w 288 32
  let i1 := recBits w 256 32 + r
  let i2 := recBits w 240 16
  let i3 := recBits w 224 16
  if skExt sk 0 ≤ o0 || skExt sk 1 ≤ i1 || skExt sk 2 ≤ i2 || skExt sk 3 ≤ i3 then none
  else
    let b := skBits (skFmt sk)
    let cnt := min n (skExt sk 0 - o0)
    let row := (((skBase sk : Int) + i1 * skStr sk 1 + i2 * skStr sk 2 + i3 * skStr sk 3) % 2 ^ 64).toNat
    some ((row + b * o0 / 8) % 2 ^ 64, b * o0 % 8, (b * (o0 + cnt) + 7) / 8 - b * o0 / 8, cnt)
/-- The address of the first block scale of row r at the command's origins (09 R218). -/
def skeinScale (sk w : BitVec 512) (r : Nat) : Nat :=
  let i1 := recBits w 256 32 + r
  let row := (recBits w 224 16 * skExt sk 2 + recBits w 240 16) * skExt sk 1 + i1
  (skSbase sk + row * (skExt sk 0 / 32) + recBits w 288 32 / 32) % 2 ^ 64

/-- A command is of its core's task: a handler's is of the handler alone. -/
def Command.ofTask (m : Command) : Bool := match m.role with | .handler _ => false | _ => true
/-- A LOAD or a STORE. -/
def cmdSkeined (r : BitVec 512) : Bool := cmdOpc r == 1 || cmdOpc r == 4
/-- A command reads or writes through the pattern windows of its pusher. -/
def cmdPatterned (m : Command) : Bool :=
  let n := if cmdOpc m.word == 1 then 32 * cmdKc m.word else 64
  cmdSkeined m.word && (List.range 64).any fun r =>
    match skeinRow m.skein m.word r n with
    | none => false
    | some (va, _, _, _) => va / 2 ^ 48 == 0x1F2 || (skScaled (skFmt m.skein) && skeinScale m.skein m.word r / 2 ^ 48 == 0x1F2)

/-- The strands of a core. -/
def coreStrands (c : CoreId) : List StrandId := (List.range 11).map (mkStrand c)
/-- The commands that the strands of a core have issued and that find no entry of the queue free. -/
def waitingPushes (s : State) (c : CoreId) : List Command :=
  (coreStrands c).flatMap fun k => (s.strand k).pending.filterMap fun p => match p.state with | .pushes m _ => some m | _ => none
/-- The commands of a core that have not started, the pushes that wait among them. -/
def commandsDue (s : State) (c : CoreId) : List Command := (s.core c).cmdq ++ waitingPushes s c
/-- A command not started yet refers to a skein of its core. -/
def skeinHeld (s : State) (c : CoreId) (n : Nat) : Bool := (commandsDue s c).any fun m => cmdSkeined m.word && cmdSk m.word == n
/-- A command not started yet uses the pattern slots of a strand of its core. -/
def slotsHeld (s : State) (c : CoreId) (strand : Nat) : Bool := (commandsDue s c).any fun m => m.strand == strand && cmdPatterned m
/-- Results of a strand change a skein or a slot that a command refers to. -/
def changesHeld (s : State) (k : StrandId) (ws : List RegWrite) : Bool :=
  ws.any fun w =>
    match w with
    | .skein n _ => skeinHeld s k.core n.toNat
    | .pat _ _ => slotsHeld s k.core k.num
    | _ => false
/-- A packet that a strand appended, or a zone that it armed, before an item number is not done (14 R331). -/
def copiesBusy (s : State) (k : StrandId) (mark : Nat) : Bool :=
  s.copyJobs.any (fun j => j.appender == some k && j.id < mark) ||
    s.hookReqs.any (fun h => h.requester == .append k && h.id < mark) ||
    (s.core k.core).ranges.any fun r => r.zone && r.strand == k.num && r.id < mark
/-- A pending instruction of a strand whose wait for commands or copies is over is complete. -/
def Pending.settled (s : State) (k : StrandId) (p : Pending) : Pending :=
  match p.state with
  | .held ws => if changesHeld s k ws then p else { p with state := .done ws }
  | .copies mark => if copiesBusy s k mark then p else { p with state := .done [] }
  | _ => p
/-- A pending instruction waits for matrix commands or for copies: no drain waits for it (log 55). -/
def Pending.lasts (p : Pending) : Bool :=
  match p.state with
  | .held _ | .pushes _ _ | .copies _ => true
  | _ => false

end Sys2Proof.Machine
end

