-- ==== Sys2Proof/Machine/Ops.lean ====
section
/-!
DEFINITION. Ops.lean: the operations every instruction shares: how an instruction issues, stays pending and commits
(10 R233–R236), taking a trap and escalating (11 R259, R260), acquire, waiting and waking (06 R145, R146), the ends
of tasks (04 R108, 07 R176), and killing a core (05 R133).
-/
namespace Sys2Proof.Machine

/-! ## Bodies of instructions -/

/-- Why a body ends before its effect: nothing of the instruction is performed. -/
inductive Stop where
  /-- a fault of the instruction (10 R236) -/
  | trap (f : FaultInfo)
  /-- a translation fault for the pager (07 R175) -/
  | pager (f : PagerInfo)
  /-- the instruction is tried again when the strand's turn comes -/
  | stall
  /-- the strand waits, and tries again when it is woken (06 R145) -/
  | wait (w : WaitOn)
  /-- the core is killed (05 R132, R133) -/
  | kill (cause : Nat)
  deriving DecidableEq, Repr

/-- A body over the machine: it may stop, and the machine keeps what the body did before. -/
abbrev Act (α : Type) := ExceptT Stop (StateM State) α

/-- What a body leaves: results that wait for the commit, a branch target, a wait the wake completes, an item whose
reply completes the instruction, or how else it stays pending. -/
structure Effect where
  ws : List RegWrite := []
  next : Option W64 := none
  wait : Option WaitOn := none
  async : Option Nat := none
  lasts : Option PendState := none
  deriving DecidableEq, Repr

/-- Fault with this cause and address. -/
def trapAt {α : Type} (cause : Nat) (addr : W64) : Act α := throw (.trap { cause := BitVec.ofNat 8 cause, addr := addr })

/-! ## Cause codes (11 R263, 13 R316, 14 R350) -/

namespace Cause
/-- ILLEGAL_INSTR -/
def illegalInstr : Nat := 0x01
/-- PRIV_INSTR -/
def privInstr : Nat := 0x02
/-- FETCH_ALIGN -/
def fetchAlign : Nat := 0x03
/-- SOFTWARE -/
def software : Nat := 0x04
/-- BREAK -/
def break_ : Nat := 0x05
/-- RET_NOTRAP -/
def retNotrap : Nat := 0x06
/-- MISALIGNED -/
def misaligned : Nat := 0x07
/-- CTX_STATE -/
def ctxState : Nat := 0x08
/-- ADDR_NONCANON -/
def addrNoncanon : Nat := 0x10
/-- ADDR_HOLE -/
def addrHole : Nat := 0x11
/-- SCRATCH_PRIV -/
def scratchPriv : Nat := 0x12
/-- SCRATCH_DOMAIN -/
def scratchDomain : Nat := 0x13
/-- ACCESS_RIGHTS -/
def accessRights : Nat := 0x14
/-- PTE_INVALID -/
def pteInvalid : Nat := 0x15
/-- PATH_UNSUPPORTED -/
def pathUnsupported : Nat := 0x16
/-- REMOTE_UNREACHABLE -/
def remoteUnreachable : Nat := 0x17
/-- REMOTE_DEAD -/
def remoteDead : Nat := 0x18
/-- PATTERN_STORE -/
def patternStore : Nat := 0x19
/-- PATTERN_ALIGN -/
def patternAlign : Nat := 0x1A
/-- PATTERN_FOREIGN -/
def patternForeign : Nat := 0x1B
/-- PATTERN_EMPTY -/
def patternEmpty : Nat := 0x1C
/-- REGION_INVALID -/
def regionInvalid : Nat := 0x1D
/-- PAGE_ABSENT -/
def pageAbsent : Nat := 0x1E
/-- ROUTE_INVALID -/
def routeInvalid : Nat := 0x20
/-- ROUTE_PRIV -/
def routePriv : Nat := 0x21
/-- SYNC_INVALID -/
def syncInvalid : Nat := 0x22
/-- SYNC_DOMAIN -/
def syncDomain : Nat := 0x23
/-- BARRIER_OVERRUN -/
def barrierOverrun : Nat := 0x24
/-- RING_EMPTY -/
def ringEmpty : Nat := 0x25
/-- FIXED_HORIZON -/
def fixedHorizon : Nat := 0x30
/-- FIXED_OVERFLOW -/
def fixedOverflow : Nat := 0x31
/-- FIXED_HISTORY -/
def fixedHistory : Nat := 0x32
/-- FIXED_WRAP -/
def fixedWrap : Nat := 0x33
/-- FIXED_CONFLICT -/
def fixedConflict : Nat := 0x34
/-- FIXED_SYNC -/
def fixedSync : Nat := 0x35
/-- FIXED_PATH -/
def fixedPath : Nat := 0x36
/-- FIXED_PENDING -/
def fixedPending : Nat := 0x37
/-- TICKET_STALE -/
def ticketStale : Nat := 0x40
/-- TICKET_DOMAIN -/
def ticketDomain : Nat := 0x41
/-- BOUND -/
def bound : Nat := 0x42
/-- SKEIN_INVALID -/
def skeinInvalid : Nat := 0x43
/-- HOOK_ALIGN -/
def hookAlign : Nat := 0x44
/-- HOOK_BOUND -/
def hookBound : Nat := 0x45
/-- HOOK_POISON -/
def hookPoison : Nat := 0x46
/-- HOOK_ERROR -/
def hookError : Nat := 0x47
/-- QUEUE_OFF -/
def queueOff : Nat := 0x60
/-- QUEUE_TENANT -/
def queueTenant : Nat := 0x61
/-- QUEUE_PUBLISH -/
def queuePublish : Nat := 0x62
/-- TICKET_FORMAT -/
def ticketFormat : Nat := 0x63
/-- LAW_INVALID -/
def lawInvalid : Nat := 0x64
/-- LAW_RETROGRADE -/
def lawRetrograde : Nat := 0x65
/-- PATTERN_INVALID -/
def patternInvalid : Nat := 0x66
end Cause

/-! ## Registers -/

/-- The mask K0–K3; K0 is all ones (10 R221). -/
def Strand.k (x : Strand) (n : BitVec 2) : Mask :=
  match n.toNat with
  | 0 => BitVec.allOnes 128
  | 1 => x.k1
  | 2 => x.k2
  | _ => x.k3

/-- A mask written; a write to K0 is discarded (10 R221). -/
def Strand.setK (x : Strand) (n : BitVec 2) (v : Mask) : Strand :=
  match n.toNat with
  | 0 => x
  | 1 => { x with k1 := v }
  | 2 => { x with k2 := v }
  | _ => { x with k3 := v }

/-- A pointer of the strand. -/
def Strand.ptr (x : Strand) (n : BitVec 3) : Pointer := x.p[n.toNat]'(n.isLt)
/-- A pointer written. -/
def Strand.setPtr (x : Strand) (n : BitVec 3) (v : Pointer) : Strand := { x with p := x.p.set n.toNat v n.isLt }
/-- Post-increment (11 R241). -/
def Pointer.step (p : Pointer) : Pointer :=
  { p with base := p.base + p.stride.signExtend 64, count := p.count - 1 }
/-- The guard of an instruction: lane i is enabled (10 R222). -/
def Strand.guard (x : Strand) (k : BitVec 2) (i : Nat) : Bool := (x.k k).getLsbD i

/-- One result taken into the strand (10 R233). -/
def Strand.write (x : Strand) : RegWrite → Strand
  | .a v => { x with a := v }
  | .p n v => x.setPtr n v
  | .k n v => x.setK n v
  | .link v => { x with link := v }
  | .stime v => { x with stime := v }
  | .flags v => { x with sst := x.sst ||| v }
  | .sst v => { x with sst := v }
  | .fixed v => { x with fixed := v }
  | .pat n v => { x with pat := x.pat.set n.toNat v n.isLt }
  | .xvec v => { x with xvec := v }
  | .xresume v => { x with xresume := v }
  | .skein _ _ => x
  | .zone _ => x

/-- The registers of the strand as the instruction in hand sees them: as they stood at its issue (10 R233). -/
def Strand.seen (x : Strand) : Strand :=
  match x.view with
  | none => x
  | some v => { x with
      a := v.a, p := v.p, k1 := v.k1, k2 := v.k2, k3 := v.k3, link := v.link, stime := v.stime, sst := v.sst
      fixed := v.fixed, pat := v.pat, xvec := v.xvec, xresume := v.xresume }
/-- A skein of a strand's core as the instruction in hand sees it (10 R233). -/
def skeinSeen (s : State) (k : StrandId) (n : Nat) : BitVec 512 :=
  Table.get 0 (match (s.strand k).view with | some v => v.skeins | none => (s.core k.core).skeins) n
/-- The registers of the strand kept as the view of the instruction that issues now. -/
def Strand.viewNow (x : Strand) : View :=
  { a := x.a, p := x.p, k1 := x.k1, k2 := x.k2, k3 := x.k3, link := x.link, stime := x.stime, sst := x.sst
    fixed := x.fixed, pat := x.pat, xvec := x.xvec, xresume := x.xresume }

/-! ## The ready list (06 R139, R143) -/

/-- A pending instruction that has not completed. -/
def Pending.open (p : Pending) : Bool :=
  match p.state with
  | .waiting _ _ => true
  | .waits _ => true
  | _ => p.lasts
/-- A pending instruction whose reply is still to come. -/
def Pending.replying (p : Pending) : Bool :=
  match p.state with
  | .waiting _ _ => true
  | _ => false
/-- A pending instruction that holds the strand from issue: its window is used up and it has not completed
(10 R233), or it is the oldest and its fault is due (R236). -/
def blocked (l : List Pending) : Bool :=
  l.any (fun p => p.left == 0 && p.open) ||
    match l with
    | p :: _ => p.left == 0
    | [] => false
/-- The strand may issue, or go on with the instruction in hand. -/
def Strand.canIssue (x : Strand) : Bool :=
  x.state == .ready && !x.paused && !x.yielded && (x.view.isSome || !blocked x.pending) &&
    (x.stopping.isNone || x.redo.isSome)

/-- The strand taken from the ready list, and put at its end if it may issue: after it issues a strand counts as
newly READY (06 R143). -/
def requeue (k : StrandId) (s : State) : State :=
  let rest := s.ready.filter fun j => j != k
  { s with ready := if (s.strand k).canIssue then rest ++ [k] else rest }

/-- The strand put in the ready list if it may issue and is not there. -/
def enlist (k : StrandId) (s : State) : State :=
  if (s.strand k).canIssue then (if s.ready.contains k then s else { s with ready := s.ready ++ [k] })
  else { s with ready := s.ready.filter fun j => j != k }

/-! ## Waiting and waking (06 R145, R146) -/

/-- Kind and object of a wait, for the strand that waits: the rows of 06 R145 in order. -/
def WaitOn.code (k : StrandId) : WaitOn → Nat × Nat
  | .nothing => (15, 0)
  | .channel c => (0, k.core * 8 + c)
  | .barrier o _ => (1, o)
  | .counter o _ => (2, o)
  | .ring o => (3, o)
  | .landing => (4, k.core)
  | .pager => (5, k)
  | .join h => (6, mkStrand k.core h)
  | .helperSlot => (7, k.core)
  | .sendBuffer => (8, k)

/-- Waiting, or stopped while waiting. -/
def Strand.waits (x : Strand) : Bool := x.state == .waiting || (x.state == .stopped && x.stoppedFrom == .waiting)

/-- An object's condition has come true: every strand waiting on it is marked, with the deposit it joins, and is
re-inserted by STRAND_WAKE (06 R146). test: the condition, of a waiting strand. -/
def wakeAll (kind obj : Nat) (test : Strand → Bool) (deposit : Option Horizon) (s : State) : State :=
  let hit := fun (e : Nat × Strand) =>
    e.2.waits && !e.2.satisfied && e.2.wait.code e.1 == (kind, obj) && test e.2
  if s.strands.any hit then
    { s with strands := s.strands.map fun e =>
        if hit e then (e.1, { e.2 with satisfied := true, deposit := deposit }) else e }
      |>.post .strandWake { a := kind, b := obj }
  else s

/-- The words of an L1 that an acquire leaves: the owned ones (08 R183). -/
def dropUnowned (l : List L1Line) : List L1Line :=
  (l.map fun x => { x with valid := x.valid &&& x.owned, bad := 0 }).filter fun x => x.valid != 0
/-- The L1 with these lines: a publish is recorded only while its line is there (08 R199). -/
def Core.withL1 (x : Core) (l : List L1Line) : Core :=
  { x with l1 := l, published := x.published.filter fun e => l.any fun y => y.home == .dev (e.2 / 4 * 128) }
/-- A binding of a destroyed domain is free once no packet of it occupies a slot (14 R320). -/
def Core.freeClosed (x : Core) : Core :=
  { x with bindings := x.bindings.filter fun b => !b.closing || x.mailbox.any fun p => p.pair.2 == b.tag }
/-- An acquire by a strand of the core: every non-owned word of its L1 is invalidated (08 R183). -/
def acquire (c : CoreId) (s : State) : State :=
  let x := s.core c
  s.setCore c (x.withL1 (dropUnowned x.l1))

/-- The strand waits; it is in no ready list. -/
def park (k : StrandId) (w : WaitOn) (s : State) : State :=
  requeue k (s.setStrand k { s.strand k with state := .waiting, wait := w, satisfied := false, deposit := none })

/-! ## Fixed mode (08 R196, R198) -/

/-- The strand is in fixed mode. -/
def Strand.isFixed (x : Strand) : Bool := x.fixed.getLsbD 0
/-- The scratchpad offset of the horizon area. -/
def Strand.horizonAt (x : Strand) : Nat := x.fixed.toNat / 64 % 2 ^ 13 * 64
/-- The strand's horizon: 16 words of its scratchpad. -/
def horizon (s : State) (k : StrandId) : Horizon :=
  (List.range 16).map fun j => BitVec.ofNat 18 ((s.core k.core).scratch.nat ((s.strand k).seen.horizonAt + 4 * j) 4)
/-- A horizon written at an offset of a core's scratchpad. -/
def setHorizonAt (s : State) (c : CoreId) (off : Nat) (h : Horizon) : State :=
  let x := s.core c
  s.setCore c { x with scratch :=
    (h.zipIdx.foldl (fun m e => m.setBytes (off + 4 * e.2) (toBytes 4 e.1.toNat)) x.scratch) }
/-- The strand's horizon written. -/
def setHorizon (s : State) (k : StrandId) (h : Horizon) : State := setHorizonAt s k.core (s.strand k).seen.horizonAt h
/-- g is within the horizon entry h: (h − g) mod 2^18 < 2^17 (08 R196). -/
def within (h g : BitVec 18) : Bool := (h - g).toNat < 2 ^ 17
/-- The join of a deposit into a horizon; none where a comparison is undecidable (08 R198). -/
def joinHorizon : Horizon → Horizon → Option Horizon
  | [], _ => some []
  | h :: hs, [] => some (h :: hs)
  | h :: hs, g :: gs =>
    let d := (g - h).toNat
    if d = 2 ^ 17 then none
    else (joinHorizon hs gs).map fun r => (if 0 < d ∧ d < 2 ^ 17 then g else h) :: r
/-- The join of two deposits, entry by entry the later one. -/
def joinDeposits (a b : Horizon) : Horizon :=
  (List.range 16).map fun j =>
    let x := a.getD j 0
    let y := b.getD j 0
    let d := (y - x).toNat
    if 0 < d ∧ d < 2 ^ 17 then y else x
/-- Palette entry j of a tenant (01 R41 PALj): identifier, kind (1 barrier) and valid. -/
def palette (s : State) (t : Nat) (j : Nat) : W64 := Table.get 0 (s.tenant t).pal j
/-- The palette index of an object for a strand's tenant: barrier, or counter (08 R195). -/
def paletteIndex (s : State) (d : BitVec 16) (barrier : Bool) (obj : Nat) : Option Nat :=
  match tenantOf s d with
  | none => none
  | some t => (List.range 16).find? fun j =>
      let e := palette s t j
      e.getLsbD 16 && e.getLsbD 17 == barrier && e.toNat % 65536 == obj
/-- The object is in the palette of some tenant. -/
def inPalette (s : State) (barrier : Bool) (obj : Nat) : Bool :=
  (List.range 32).any fun t => tenantValid s t && (List.range 16).any fun j =>
    let e := palette s t j
    e.getLsbD 16 && e.getLsbD 17 == barrier && e.toNat % 65536 == obj

/-- The horizon area of a strand whose fixed mode begins: BASE of its tenant's palette, entry by entry (08 R196). -/
def baseHorizon (s : State) (d : BitVec 16) : Horizon :=
  (List.range 16).map fun j =>
    match tenantOf s d with
    | some t => (palette s t j).extractLsb' 32 18
    | none => 0

/-- Results taken into a strand and, for a skein, its core; a write that begins fixed mode fills the horizon area. -/
def applyWrites (k : StrandId) : List RegWrite → State → State
  | [], s => s
  | .skein n v :: ws, s =>
    let c := s.core k.core
    applyWrites k ws (s.setCore k.core { c with skeins := Table.set 0 c.skeins n.toNat v })
  | .zone id :: ws, s =>
    let c := s.core k.core
    applyWrites k ws (s.setCore k.core { c with
      ranges := c.ranges.map fun r => if r.zone && r.id == id then { r with armed := true } else r })
  | .fixed v :: ws, s =>
    let x := s.strand k
    let y := { x with fixed := v }
    let s := s.setStrand k y
    applyWrites k ws (if y.isFixed && !x.isFixed then setHorizonAt s k.core y.horizonAt (baseHorizon s x.domain) else s)
  | w :: ws, s => applyWrites k ws (s.setStrand k ((s.strand k).write w))

/-! ## Tasks and their ends (04 R107, R108; 07 R176; 11 R260) -/

/-- The strand is live. -/
def Strand.live (x : Strand) : Bool := x.state != .free
/-- The strand is a bound handler. -/
def Strand.isHandler (x : Strand) : Bool :=
  match x.role with
  | .handler _ => true
  | _ => false
/-- A strand of the core's task, live. -/
def taskStrand (s : State) (k : StrandId) : Bool := (s.strand k).live && !(s.strand k).isHandler
/-- No strand of the core is live. -/
def noStrand (s : State) (c : CoreId) : Bool := !(coreStrands c).any fun k => (s.strand k).live
/-- The lowest-numbered FREE helper (06 R141). -/
def freeHelper (s : State) (c : CoreId) : Option StrandId :=
  ((List.range 10).map fun n => mkStrand c (n + 1)).find? fun k => !(s.strand k).live

/-- The running record of a core. -/
def runningRec (s : State) (c : CoreId) : Option TaskRec :=
  ((s.panel c.panel).runningTable.find? fun e => e.1 == c).map Prod.snd
/-- The running-table entry freed. -/
def freeEntry (c : CoreId) (s : State) : State :=
  let p := s.panel c.panel
  s.setPanel c.panel { p with runningTable := p.runningTable.filter fun e => e.1 != c }

/-- The outcome of the packets of a strand concerns no strand any more. -/
def orphanPackets (k : StrandId) (l : List Packet) : List Packet :=
  l.map fun p => if p.sender == some k then { p with sender := none } else p

/-- A strand that has ended: its registers keep their values (20 R383) until its next start (06 R140); nothing of it runs, waits
or is pending (06 R139). -/
def Strand.ended (x : Strand) : Strand :=
  { x with
    state := .free, stoppedFrom := .ready, held := false, role := .helper, wait := .nothing, satisfied := false, deposit := none
    waitParcels := 0, waitPc := 0, view := none, pending := [], redo := none, parked := none, parkedSeq := 0
    paused := false, yielded := false, started := false, stopping := none }

/-- The strand is FREE (06 R139). Its helper slot and its join come true; packets that wait for a helper may start (06 R141, R145, R152),
and a record that only this handler held back from the core may be chosen (04 R106). -/
def freeStrand (k : StrandId) (s : State) : State :=
  let handler := (s.strand k).isHandler
  let leave := fun (m : Command) => if m.strand == k.num && handler then { m with orphan := true } else m
  let s := s.setStrand k (s.strand k).ended
  let c := s.core k.core
  let s := s.setCore k.core { c with
    cmdq := c.cmdq.map leave
    active := c.active.map leave
    buffered := c.buffered.filter fun b => b.strand != k.num
    published := c.published.filter fun e => e.1 != k.num
    startWaits := c.startWaits && k.num != 0 }
  let s := { s with ready := s.ready.filter fun j => j != k
                    panelReads := s.panelReads.filter fun r => r.strand != k
                    held := s.held.filter fun e => e.1 != .strand k
                    packets := orphanPackets k s.packets }
  let s := wakeAll 6 k (fun _ => true) none s
  let s := wakeAll 7 k.core (fun _ => true) none s
  let s := if (s.core k.core).mailbox.isEmpty then s else s.post .handlerStart { core := k.core }
  if handler then s.post .dispatch { panel := k.core.panel } else s

/-- Every strand of the core has stopped. -/
def allStopped (s : State) (c : CoreId) : Bool :=
  (coreStrands c).all fun k => !(s.strand k).live || (s.strand k).state == .stopped

/-- An MROT lands on the core: it counts as a landing in flight (14 R349). One of another domain is refused there with back-off
(14 R348), and does not hold the core. -/
def rotationDue (s : State) (c : CoreId) : Bool := s.rotations.any fun r => r.target == c && r.domain == (s.core c).domain

/-- A command in progress goes on when its strands, its matrix command and its landings are done (04 R117–R120); the
time of its zones runs from the end of PREEMPT's step 3. -/
def stopCheck (c : CoreId) (s : State) : State :=
  let x := s.core c
  if x.stopCmd = 0 || !allStopped s c then s
  else
    match x.stopCmd with
    | 1 =>
      if x.active.isSome || !x.ranges.isEmpty || rotationDue s c then
        if x.zoneWaitFrom.isNone && x.ranges.any Range.zone then
          (s.setCore c { x with zoneWaitFrom := some s.deviceTime }).post .zoneTimeout { core := c }
        else s
      else (s.setCore c { x with stopCmd := 5, zoneWaitFrom := none }).post .preemptSaveDone { core := c }
    | 3 => if x.active.isSome then s else s.setCore c { x with stopCmd := 0, status := .halted }
    | 4 =>
      if x.active.isSome || !x.ranges.isEmpty || rotationDue s c then s
      else s.setCore c { x with stopCmd := 0, status := .quiet, zoneWaitFrom := none }
    | 6 =>
      if x.active.isSome || !x.ranges.all Range.zone || rotationDue s c then s
      else s.setCore c { x with stopCmd := 0, status := .quiet, zoneWaitFrom := none }
    | _ => s

/-- The core becomes IDLE when its lead and its helpers are not live (04 R107); a core under command keeps its state. -/
def idleCore (c : CoreId) (s : State) : State :=
  let x := s.core c
  if x.status == .running then s.setCore c { x with status := .idle } else s

/-- Commands of a core's matrix unit have started or gone: the changes and the pushes that may have waited for them are looked at, and
the handlers whose helpers' slots they held (06 R160, 14 R338). -/
def commandsGone (c : CoreId) (s : State) : State :=
  let s := (coreStrands c).foldl (fun s k =>
    if (s.strand k).pending.any Pending.lasts then s.post .lookaheadCommit { strand := k } else s) s
  if (s.core c).mailbox.isEmpty then s else s.post .handlerStart { core := c }
/-- A stopped matrix unit is cleared as its core's task ends (04 R108). -/
def clearStopped (c : CoreId) (s : State) : State :=
  let x := s.core c
  if x.stop then commandsGone c (s.setCore c { x with cmdq := [], stop := false, mcause := 0, mparked := none }) else s

/-- A task ended without completing (04 R108): its strands end and its running-table entry is freed. A stopped matrix
unit is cleared. -/
def endTask (c : CoreId) (s : State) : State :=
  let leave := fun (m : Command) => if m.ofTask then { m with orphan := true } else m
  let s := s.setCore c { s.core c with cmdq := (s.core c).cmdq.map leave, active := (s.core c).active.map leave }
  let s := (coreStrands c).foldl (fun s k => if taskStrand s k then freeStrand k s else s) s
  let s := freeEntry c s
  let s := idleCore c (clearStopped c s)
  s.post .dispatch { panel := c.panel }

/-- The task of a strand, or the handler, is ended as though by END (07 R176, 11 R260); a command that stops the core goes
on if it waited for these strands. -/
def terminate (k : StrandId) (s : State) : State :=
  stopCheck k.core (if (s.strand k).isHandler then freeStrand k s else endTask k.core s)

/-- ERROR of 03 R94 for a strand: code, cause and word. -/
def postError (k : StrandId) (code cause : Nat) (w : W64) (s : State) : State :=
  postEvent s (tenantOf s (s.strand k).domain) (srcStrand k) 12
    [(24, 4, code), (32, 1, k.core.panel), (33, 1, k.core.index), (34, 1, k.num), (35, 1, cause), (40, 8, w.toNat)]

/-- Escalate (11 R260): ERROR TRAPPED, and the task or the handler ends. -/
def escalate (k : StrandId) (cause : BitVec 8) (pc : W64) (s : State) : State :=
  terminate k (postError k 3 cause.toNat pc s)

/-! ## Traps (11 R258–R260) -/

/-- Take a trap (11 R259) for fault f of the instruction parcels at pc; the faults kept stand in the strand. -/
def takeTrap (k : StrandId) (f : FaultInfo) (pc : W64) (parcels : BitVec 32) (resume : W64) (s : State) : State :=
  let x := s.strand k
  if x.xvec == 0 || x.xin then escalate k f.cause pc s
  else
    requeue k (s.setStrand k { x with
      xcause := f.cause
      xparcels := parcels
      xaddr := f.addr
      xaux := f.aux
      xpc := pc
      xresume := resume
      xin := true
      pc := x.xvec })

/-- XSTAT as a word (11 R258). -/
def Strand.xstat (x : Strand) : W64 :=
  BitVec.ofNat 64 (x.xparcels.toNat * 2 ^ 32 + min x.faults.length 15 * 2 ^ 20 + x.xcause.toNat * 2 ^ 8 +
    if x.xin then 1 else 0)

/-- The supervisor core that a fault message goes to: s(n mod 4), or the next live one (07 R175). -/
def supervisorFor (s : State) (panel n : Nat) : CoreId :=
  let cs := (List.range 4).map fun i => mkCore panel (192 + (n + i) % 4)
  (cs.find? fun c => (s.core c).status != .killed && (s.core c).status != .retired).getD (mkCore panel (192 + n % 4))

/-- The pager message (07 R175): a packet of 32 bytes to tag 254. -/
def pagerMessage (s : State) (panel n : Nat) (src : BitVec 32) (d : BitVec 16) (f : PagerInfo) (seq : BitVec 32) : State :=
  sendPacket s
    { id := 0
      route := routeTo (supervisorFor s panel n) 254
      time := s.now
      source := src
      payload := layout 32 [(0, 8, f.addr.toNat), (8, 4, src.toNat), (12, 2, d.toNat), (14, 1, f.access),
        (15, 1, f.found), (16, 4, seq.toNat)]
      sender := none
      domain := d
      trusted := true }

/-- The strand parks on its reply register for the access of the instruction at pc, and goes on at resume (07 R175,
10 R236). -/
def parkPager (k : StrandId) (f : PagerInfo) (pc resume : W64) (parcels : BitVec 32) (s : State) : State :=
  let x := s.strand k
  let s := s.setStrand k { x with
    redo := some { pc := pc, resume := resume }
    waitParcels := parcels
    parked := some f
    parkedSeq := x.faultSeq
    faultSeq := x.faultSeq + 1 }
  let s := park k .pager s
  pagerMessage s k.core.panel k.core.index (strandSource s k) x.domain f x.faultSeq

/-- The oldest kept fault delivered, with this resume address, if no handler runs (10 R236, 11 R262). A translation
fault that came back from a strand record is found again by running its instruction alone. -/
def deliverKept (k : StrandId) (resume : W64) (s : State) : State :=
  let x := s.strand k
  match x.faults with
  | [] => requeue k (s.setStrand k { x with pc := resume })
  | f :: fs =>
    let s := s.setStrand k { x with faults := fs, pc := resume }
    match f.pager with
    | some g => parkPager k g f.pc resume f.parcels s
    | none =>
      if f.fault.cause = 0 then requeue k (s.setStrand k { s.strand k with redo := some { pc := f.pc, resume := resume } })
      else takeTrap k f.fault f.pc f.parcels resume s

/-! ## Commit (10 R233–R236) -/

/-- The kept form of a pending instruction that faulted. -/
def Pending.kept (p : Pending) : Option PendFault :=
  match p.state with
  | .faulted f => some { fault := f, pc := p.pc, parcels := p.parcels }
  | .pager g => some { fault := { cause := 0, addr := g.addr }, pc := p.pc, parcels := p.parcels, pager := some g }
  | _ => none

/-- The results of the completed among a list of pending instructions, in order. -/
def Pending.results (p : Pending) : List RegWrite :=
  match p.state with
  | .done ws => ws
  | _ => []

/-- The faulted oldest instruction p whose window has ended (10 R236): the window's other results commit, its other
faults are kept, and the trap is taken, or the strand parks. Faults kept before it, by a stop, come first. What was found at its
issue has nothing behind it (R231). -/
def faultAt (k : StrandId) (p : Pending) (rest : List Pending) (s : State) : State :=
  let s := rest.foldl (fun s q => applyWrites k q.results s) s
  let x := s.strand k
  let late := rest.filterMap Pending.kept
  if !x.faults.isEmpty && !x.xin then
    deliverKept k x.pc (s.setStrand k { x with pending := [], faults := (x.faults ++ p.kept.toList ++ late).take 15 })
  else
    let s := s.setStrand k { x with pending := [], faults := (x.faults ++ late).take 15 }
    match p.state with
    | .faulted f => takeTrap k f p.pc p.parcels x.pc s
    | .pager g => parkPager k g p.pc x.pc p.parcels s
    | .atIssue f resume => takeTrap k f p.pc p.parcels resume (s.setStrand k { s.strand k with pc := resume })
    | _ => s

/-- Commit what can commit, oldest first: n bounds how many. -/
def commitReady (k : StrandId) : Nat → State → State
  | 0, s => s
  | n + 1, s =>
    match (s.strand k).pending with
    | [] => s
    | p :: rest =>
      if p.left != 0 then s
      else
        match p.state with
        | .done ws =>
          let s := applyWrites k ws s
          commitReady k n (s.setStrand k { s.strand k with pending := rest })
        | _ => if p.open || rest.any Pending.open || (s.strand k).view.isSome then s else faultAt k p rest s

/-- Every window ended: the strand's next instruction is held from issue, or the strand is drained (10 R233, 04 R117). -/
def endWindows (k : StrandId) (s : State) : State :=
  let x := s.strand k
  s.setStrand k { x with pending := x.pending.map fun p => { p with left := 0 } }

/-! ## Stopping strands (04 R117, R119; 11 R265) -/

/-- What is left pending of a strand that stops while it waits, or while its instruction in hand has issued and is not
performed: the completed commit, and the faults are kept for the save (04 R117 step 2). What waits for matrix commands or for copies
stays pending (log 55). -/
def keepPending (k : StrandId) (s : State) : State :=
  let l := (s.strand k).pending
  let s := l.foldl (fun s q => applyWrites k q.results s) s
  let x := s.strand k
  s.setStrand k { x with pending := l.filter Pending.lasts, faults := (x.faults ++ l.filterMap Pending.kept).take 15 }

/-- A strand that has drained stops: an access parked on the pager is abandoned with PC at its instruction, a pause ends,
and a wait for a landing is an access tried again. An instruction that has issued and is not performed keeps the registers
of its issue (10 R233). -/
def stopNow (k : StrandId) (isHeld : Bool) (s : State) : State :=
  let s := keepPending k s
  let x := s.strand k
  let onPager := x.parked.isSome
  let again := onPager || x.wait == .landing
  let s := s.setStrand k { x with
    state := .stopped
    stoppedFrom := if x.state == .waiting && !again then .waiting else .ready
    wait := if again then .nothing else x.wait
    held := isHeld
    stopping := none
    paused := false
    yielded := false
    parked := none
    pc := if onPager then (match x.redo with | some r => r.pc | none => x.pc) else x.pc
    redo := if onPager then none else x.redo }
  requeue k s

/-- The strand has drained: nothing of it is pending, but for what a wait or an instruction in hand holds back, and no instruction is
to be repeated. DEDUCED (log 55): what waits for matrix commands or for copies does not keep a command of the swift waiting, since no
command starts and no strand goes on meanwhile; CTXS.STOP waits for it. -/
def Strand.drained (x : Strand) : Bool :=
  let due := x.pending.any Pending.lasts
  (x.pending.isEmpty || (!x.pending.any Pending.replying && !(x.stopping == some true && due) &&
      (x.state == .waiting || x.view.isSome || due))) &&
    (x.redo.isNone || x.state == .waiting)

/-- A strand that is to stop does so once it has drained. -/
def settleStop (k : StrandId) (s : State) : State :=
  let x := s.strand k
  match x.stopping with
  | none => s
  | some h =>
    if !x.live then s
    else if x.state == .stopped then stopCheck k.core (s.setStrand k { x with stopping := none, held := x.held || h })
    else if x.drained then stopCheck k.core (stopNow k h s)
    else s

/-- The strand is to stop: its windows end (04 R117 step 2). -/
def beginStop (k : StrandId) (isHeld : Bool) (s : State) : State :=
  let x := s.strand k
  if !x.live || x.state == .stopped then s
  else
    let s := endWindows k (s.setStrand k { x with stopping := some isHeld })
    settleStop k (requeue k (commitReady k x.pending.length s))

/-- Where nothing of a strand is pending any more and no handler of it runs, the oldest fault kept is delivered
(10 R236); else the strand takes its place in the ready list, or stops. -/
def afterCommit (k : StrandId) (s : State) : State :=
  let x := s.strand k
  if x.pending.isEmpty && !x.faults.isEmpty && !x.xin && x.redo.isNone && x.view.isNone && x.stopping.isNone &&
      x.state == .ready then deliverKept k x.pc s
  else settleStop k (enlist k s)

/-- A stopped strand goes on as its state says; a fault that its stop kept is delivered. -/
def goOn (k : StrandId) (s : State) : State :=
  let x := s.strand k
  if x.state == .stopped then afterCommit k (requeue k (s.setStrand k { x with state := x.stoppedFrom, held := false })) else s

/-- A command reaches a core that a record was chosen for: the record is a candidate again (04 R121). -/
def unchoose (c : CoreId) (s : State) : State :=
  let p := s.panel c.panel
  if p.chosen.any fun e => e.1 == c then
    (s.setPanel c.panel { p with chosen := p.chosen.filter fun e => e.1 != c }).post .dispatch { panel := c.panel }
  else s

/-- A core that stood as x begins to stop for HALT or HALT_QUIET (04 R115, R119, R120). DESIGN CHOICE (log 35): until it has stopped its
STATE reads STOPPING, as under PREEMPT, so a command written meanwhile is rejected. -/
def haltBegin (c : CoreId) (quiet : Bool) (x : Core) (s : State) : State :=
  let s := s.setCore c { s.core c with
    err := false
    before := if x.status == .halted then x.before else x.status
    status := .stopping
    stopCmd := if quiet then 4 else 3
    zoneWaitFrom := if quiet then some s.deviceTime else none }
  let s := unchoose c s
  let s := if quiet && x.ranges.any Range.zone then s.post .zoneTimeout { core := c } else s
  stopCheck c ((coreStrands c).foldl (fun s k => beginStop k false s) s)

/-- HALT or HALT_QUIET (04 R115, R119): accepted in some states, else ERR. -/
def haltCore (c : CoreId) (quiet : Bool) (s : State) : State :=
  let x := s.core c
  if x.status == .idle || x.status == .running || (quiet && x.status == .halted) then haltBegin c quiet x s
  else s.setCore c { x with err := true }

/-- The wait of a strand for its copies is looked at again (14 R331). -/
def copiesAgain (k : StrandId) (s : State) : State :=
  if s.agenda.contains (.event .lookaheadCommit { strand := k }) then s else s.post .lookaheadCommit { strand := k }
/-- The pending instructions of a strand whose wait for commands or copies is over are complete. -/
def settleLasting (k : StrandId) (s : State) : State :=
  let x := s.strand k
  let s := if x.pending.any Pending.lasts then s.setStrand k { x with pending := x.pending.map (Pending.settled s k) } else s
  if (s.strand k).pending.any fun p => match p.state with | .copies _ => true | _ => false then copiesAgain k s else s

/-- Commit, and what follows. -/
def commit (k : StrandId) (s : State) : State := afterCommit k (commitReady k ((s.strand k).pending.length) s)

/-- A reply completes a pending instruction: its results, or its fault. -/
def complete (k : StrandId) (id : Nat) (ws : List RegWrite) (fault : Option FaultInfo) (s : State) : State :=
  let x := s.strand k
  let upd := fun (p : Pending) =>
    match p.state with
    | .waiting i old => if i == id then
        { p with state := match fault with | some f => .faulted f | none => .done (ws ++ old) } else p
    | _ => p
  let s := s.setStrand k { x with pending := x.pending.map upd }
  s.post .lookaheadCommit { strand := k }

/-! ## Killing a core (05 R133, R137; 07 R168) -/

/-- Every logical core of the package. -/
def allCores : List CoreId := (List.range 12).flatMap fun p => (List.range 196).map (mkCore p)

/-- A flush epoch ends once every core has flushed; a killed or retired core counts (07 R168). -/
def checkEpoch (s : State) : State :=
  if s.package.flushBusy &&
      allCores.all (fun c => let x := s.core c; x.flushed || x.status == .killed || x.status == .retired) then
    { s with
      package := { s.package with
        flushBusy := false
        gens := s.package.gens.foldl
          (fun t e => Table.set (0, 0) t e.1 (e.2.1, Table.get 0 s.package.epoch e.1)) s.package.gens
        epoch := [] } }
  else s

/-- Ownership of a core recalled everywhere (02 R64, 05 R133 step 5). -/
def recallCore (c : CoreId) (s : State) : State :=
  let own := c.panel * 256 + c.index
  let clear := fun (w : W64) =>
    let a := secOwner w false
    let b := secOwner w true
    withOwners w (if a.1 == own then (0, 0) else a) (if b.1 == own then (0, 0) else b)
  { s with sectors := (s.sectors.map fun e => (e.1, clear e.2)).filter fun e => e.2 != 0 }

/-- No live supervisor core on a panel (05 R137). -/
def unsupervised (s : State) (panel : Nat) : Bool :=
  (List.range 4).all fun i =>
    let x := s.core (mkCore panel (192 + i))
    x.status == .killed || x.status == .retired

/-- The panel has lost its last supervisor: its swift stops, and its tenants learn of it (05 R137). -/
def checkSupervision (panel : Nat) (s : State) : State :=
  let p := s.panel panel
  if unsupervised s panel && p.supervised then
    let ts := (p.runningTable.map (fun e => e.2.tenant) ++ p.suspended.map fun e => e.2.2.tenant).dedup
    let s := s.setPanel panel { p with supervised := false }
    ts.foldl (fun s t => postEvent s (some t) srcFirmware 12 [(24, 4, 4), (32, 1, panel)]) s
  else s

/-- A supervisor core of the panel below this one is live: it handles the kills (05 R135). -/
def lowerLives (s : State) (c : CoreId) : Bool :=
  (List.range (c.index - 192)).any fun i =>
    let x := s.core (mkCore c.panel (192 + i))
    x.status != .killed && x.status != .retired

/-- A supervisor core is killed: its pager messages go to the next live one, and where it handled the panel's kills, as the
lowest-numbered live one (R135), those in hand start again (05 R137). -/
def passOn (c : CoreId) (mail : List Packet) (s : State) : State :=
  if c.index < 192 then s
  else
    let next := routeTo (supervisorFor s c.panel (c.index - 191)) 254
    let s := { s with packets := s.packets.map fun p => if p.route == routeTo c 254 then { p with route := next } else p }
    let s := (mail.filter fun p => p.route == routeTo c 254).foldl (fun s p => sendPacket s { p with route := next }) s
    if lowerLives s c then s
    else
      ((s.panel c.panel).kills.filter fun k => k != c).foldl (fun s k =>
        (s.setCore k { s.core k with scrubbing := false }).post .killScrub { core := k }) s

/-- The number of another package in remoteMem and reachable: its member number in the own domain, or 128 + its identifier. -/
def memberKey (s : State) (pkg : Nat) : Nat :=
  if pkg / 128 = s.package.pkg.toNat / 128 then pkg % 128 else 128 + pkg

/-- The frequency of a source: true is B (05 R122). -/
def sourceFreq (p : Panel) (b : Bool) : Nat := if b then p.fb.toNat else p.fa.toNat
/-- A core's sequence stands at its hop (05 R124): no ramp comes before it, and its source has settled. -/
def hopStands (p : Panel) (x : Core) : Bool :=
  x.hopping && x.srcnow != x.srcTarget && !(if x.srcTarget then p.settlingB else p.settlingA) &&
    !(sourceFreq p x.srcnow < sourceFreq p x.srcTarget && x.vnow != x.vTarget)

/-- A core is killed (05 R133). Causes: 1 POISON, 2 REGFILE, 3 ACC, 4 INTERNAL. A kill that meets a hop waits for the hop
to complete; one that meets the scrub of a killed core makes the scrub fail (R137). -/
def killCore (c : CoreId) (cause : Nat) (s : State) : State :=
  let x := s.core c
  if x.status == .retired then s
  else if x.status == .killed then (if x.scrubbing then s.setCore c { x with scrubFailed := true } else s)
  else if hopStands (s.panel c.panel) x then s.setCore c { x with killWaits := some (x.killWaits.getD cause) }
  else
    let wasIdle := x.status == .idle
    let running := runningRec s c
    let mine := s.rotations.filter fun r => r.fromCore == c
    let s := (coreStrands c).foldl (fun s k =>
      s.setStrand k { faultSeq := (s.strand k).faultSeq }) s
    let s := { s with ready := s.ready.filter fun k => k.core != c
                      panelReads := s.panelReads.filter fun r => r.strand.core != c
                      rotations := s.rotations.filter fun r => r.fromCore != c
                      packets := (coreStrands c).foldl (fun l k => orphanPackets k l) s.packets }
    let s := mine.foldl (fun s r => stopCheck r.target s) s
    let s := recallCore c s
    let s := s.setCore c { x with
      status := .killed
      killCause := BitVec.ofNat 8 cause
      isSealed := true
      mailbox := []
      reservations := []
      cmdq := []
      active := none
      mparked := none
      plb := []
      plbUse := []
      l1 := []
      buffered := []
      published := []
      ranges := []
      parkedZones := []
      startWaits := false
      stopCmd := 0
      killWaits := none
      scrubFailed := false
      zoneWaitFrom := none }
    let p := s.panel c.panel
    let s := s.setPanel c.panel { p with kills := p.kills ++ [c] }
    let t := match running with
      | some r => some r.tenant
      | none => if wasIdle then none else tenantOf s x.domain
    let s := postEvent s t srcFirmware 7 [(24, 1, c.panel), (25, 1, c.index), (26, 1, cause)]
    let s := checkEpoch s
    let s := passOn c x.mailbox (unchoose c s)
    let s := checkSupervision c.panel s
    if (s.panel c.panel).supervised then s.post .killScrub { core := c } else s

/-! ## Issue -/

/-- The instructions of majors 1–7, in format V or H: no lookahead, and faults precise at the instruction (12 R287). -/
def laneMajor (i : Instr) : Bool :=
  match i with
  | .hLda _ | .hSta _ _ _ _ | .hAdd _ | .hSub _ | .hRsub _ | .hMul _ | .hFma _ | .hMin _ | .hMax _ | .hAnd _ | .hOr _
  | .hXor _ | .hAcc _ | .hShl _ _ _ _ | .hShra _ _ _ _ | .hCmplt _ => true
  | .variAdd _ _ _ | .variSub _ _ _ | .variRsub _ _ _ | .variMul _ _ _ | .variFma _ _ _ | .variFms _ _ _
  | .variFmal _ _ _ | .variMin _ _ _ | .variMax _ _ _ | .variDiv _ _ _ | .variSqrt _ _ _ | .variAbs _ _ _
  | .variNeg _ _ _ | .variMov _ _ _ | .variMulh _ _ _ | .variCpysgn _ _ _ => true
  | .vbitAnd _ | .vbitOr _ | .vbitXor _ | .vbitAndn _ | .vbitShl _ | .vbitShr _ | .vbitShra _ | .vbitRol _
  | .vbitNot _ | .vbitPopc _ | .vbitClz _ => true
  | .vcmpEq _ _ | .vcmpNe _ _ | .vcmpLt _ _ | .vcmpLe _ _ | .vcmpGt _ _ | .vcmpGe _ _ | .vcmpUn _ _ | .vcmpLtu _ _
  | .vcmpLeu _ _ | .vcmpGtu _ _ | .vcmpGeu _ _ => true
  | .vcvtTi64 _ _ _ | .vcvtTi32 _ _ _ | .vcvtTi16 _ _ _ | .vcvtTi8 _ _ _ | .vcvtTf64 _ _ _ | .vcvtTf32 _ _ _
  | .vcvtTbf16 _ _ _ | .vcvtTf16 _ _ _ | .vcvtTe4m3 _ _ _ | .vcvtTe5m2 _ _ _ | .vcvtTe2m1 _ _ _
  | .vcvtTsk _ _ _ | .vcvtFe4m3 _ | .vcvtFe5m2 _ | .vcvtFe2m1 _ => true
  | .vpermBcast _ | .vpermPerm _ | .vpermSldn _ | .vpermSlup _ | .vpermZiplo _ | .vpermZiphi _ | .vpermUnzev _
  | .vpermUnzod _ | .vpermCompr _ | .vpermExpnd _ | .vpermRev _ | .vpermIota _ => true
  | .vredSum _ _ _ | .vredAcc _ _ _ | .vredDot _ _ _ | .vredMin _ | .vredMax _ | .vredAnd _ | .vredOr _ | .vredXor _ => true
  | .vfunExp2 _ _ | .vfunLog2 _ _ | .vfunSint _ _ | .vfunCost _ _ | .vfunTanh _ _ | .vfunRecip _ _
  | .vfunRsqrt _ _ => true
  | _ => false
/-- The instructions that port V takes; port M takes every other (06 R142). -/
def portV (i : Instr) : Bool :=
  laneMajor i ||
    match i with
    | .aimmBcast _ _ | .aimmLane0 _ _ | .aimmOnly0 _ _ | .aimmAdd _ _ | .randRaw _ _ _ _ | .randUnif _ _ _ _ => true
    | .illegalInstruction w =>
      let major := w.toNat / 2 % 64
      w.toNat % 2 = 0 || (1 ≤ major && major ≤ 7) || major = 22 || major = 32
    | _ => false

/-- The parcels of an instruction as XSTAT holds them (11 R258). -/
def parcelsOf (i : Instr) : BitVec 32 :=
  match i with
  | .illegalInstruction w => w
  | _ => BitVec.ofNat 32 (encodeNat i)

/-- A fault of 10 R231 is found at issue: ILLEGAL_INSTR, PRIV_INSTR or FETCH_ALIGN; the instruction after it is at next. -/
def PendState.precise (st : PendState) (next : W64) : PendState :=
  match st with
  | .faulted f => if 1 ≤ f.cause.toNat ∧ f.cause.toNat ≤ 3 then .atIssue f next else st
  | _ => st
/-- The instruction has a fault found at its issue. -/
def Pending.unissued (p : Pending) : Bool := match p.state with | .atIssue _ _ => true | _ => false
/-- An earlier pending instruction after one more issue. -/
def Pending.tick (p : Pending) : Pending := { p with left := p.left - 1 }

/-- A repeated instruction of the strand in hand has run: it runs alone and goes on at its resume address (10 R236,
11 R262). -/
def retireRedo (i : Instr) (dests : List Reg) (st : PendState) (r : Redo) (s : State) : State :=
  let k := s.cur
  let x := s.strand k
  match st with
  | .done ws =>
    let s := applyWrites k ws s
    let s := s.setStrand k { s.strand k with redo := none, pc := r.resume }
    if (s.strand k).xin then requeue k s else deliverKept k r.resume s
  | .faulted f => takeTrap k f r.pc (parcelsOf i) r.resume (s.setStrand k { x with redo := none, pc := r.resume })
  | .pager g => parkPager k g r.pc r.resume (parcelsOf i) s
  | .atIssue f _ => takeTrap k f r.pc (parcelsOf i) r.resume (s.setStrand k { x with redo := none, pc := r.resume })
  | .waiting _ _ | .waits _ | .held _ | .pushes _ _ | .copies _ =>
    let p : Pending := { parcels := parcelsOf i, pc := r.pc, left := 0, dests := dests, state := st }
    requeue k (s.setStrand k { x with redo := none, pc := r.resume, pending := x.pending ++ [p] })

/-- The instruction issued: it joins the pending, the strand goes on at next, and what can commit commits
(10 R233). The instructions before it have counted it once, be it here or when it began to wait. A fault of a major 1–7 is
precise: the windows before it end, as those before an instruction that is held (12 R287). One found at issue leaves PC at the
instruction (10 R231). Where a stop has kept faults of a window, its last instruction was in hand: they follow it at once (R236). -/
def retire (i : Instr) (la : Nat) (dests : List Reg) (st : PendState) (next : W64) (s : State) : State :=
  let k := s.cur
  let x := s.strand k
  match x.redo with
  | none =>
    let p : Pending := { parcels := parcelsOf i, pc := x.pc, left := la, dests := dests, state := st.precise next }
    let before := if x.view.isSome then x.pending else x.pending.map Pending.tick
    let s := s.setStrand k { x with pc := if p.unissued then x.pc else next, pending := before ++ [p], view := none }
    let s := if p.unissued || (laneMajor i && p.kept.isSome) || (!x.faults.isEmpty && !x.xin) then endWindows k s else s
    let s := requeue k (commitReady k ((s.strand k).pending.length) s)
    if x.stopping.isSome || !x.faults.isEmpty then afterCommit k s else s
  | some r => settleStop k (retireRedo i dests st r (s.setStrand k { x with view := none }))

/-- The address of the instruction after this one. -/
def nextPc (i : Instr) (s : State) : W64 := (s.strand s.cur).pc + BitVec.ofNat 64 i.len

/-- The instruction in hand has issued and is not performed yet: the pending ones have counted it, and it keeps the
registers as they stand (10 R233); it is tried again at the strand's turns. -/
def beginWait (i : Instr) (s : State) : State :=
  let k := s.cur
  let x := s.strand k
  if x.view.isSome || !x.live then s
  else
    let s := s.setStrand k { x with
      view := some { x.viewNow with mark := s.nextId, skeins := (s.core k.core).skeins }, pending := x.pending.map Pending.tick, waitParcels := parcelsOf i, waitPc := x.pc }
    commitReady k x.pending.length s
/-- The reads and held accesses of an instruction that has been performed are gone. -/
def clearReads (k : StrandId) (s : State) : State :=
  { s with panelReads := s.panelReads.filter fun r => r.strand != k, held := s.held.filter fun e => e.1 != .strand k }

/-- Issue an instruction of the strand in hand: run its body on the registers as they stood at its issue, and retire it; a
strand that the body ends is left as it is. One that waits for its object is complete at the wake (06 R145); one that a range
of the scoreboard holds has not issued (R142). -/
def issue (i : Instr) (la : Nat) (dests : List Reg) (body : Strand → Act Effect) (s : State) : State :=
  let k := s.cur
  let at_ := match (s.strand k).redo with | some r => r.pc | none => (s.strand k).pc
  match (body (s.strand k).seen).run s with
  | (.ok e, s) =>
    if (s.strand k).live then
      let st : PendState := match e.lasts, e.async, e.wait with
        | some st, _, _ => st
        | none, some id, _ => .waiting id e.ws
        | none, none, some _ => .waits e.ws
        | none, none, none => .done e.ws
      let s := clearReads k (retire i la dests st (e.next.getD (nextPc i s)) s)
      match e.wait with
      | some w =>
        if (s.strand k).live then
          settleStop k (park k w (s.setStrand k { s.strand k with waitParcels := parcelsOf i, waitPc := at_ }))
        else s
      | none => s
    else s
  | (.error (.trap f), s) => retire i la dests (.faulted f) (nextPc i s) (clearReads k s)
  | (.error (.pager g), s) => retire i la dests (.pager g) (nextPc i s) (clearReads k s)
  | (.error .stall, s) => settleStop k (requeue k (beginWait i s))
  | (.error (.wait .landing), s) => settleStop k (park k .landing s)
  | (.error (.wait w), s) => settleStop k (park k w (beginWait i s))
  | (.error (.kill c), s) => requeue k (killCore k.core c s)

/-- Issue as a step. -/
def run (i : Instr) (la : Nat) (dests : List Reg) (body : Strand → Act Effect) (s : State) :
    Host.Outcome State Fault Refusal :=
  .next (issue i la dests body s)

/-- Run a plain transformer as a step. -/
def event (f : EventArg → State → State) (s : State) : Host.Outcome State Fault Refusal := .next (f s.arg s)

end Sys2Proof.Machine
end

