-- ==== Sys2Proof/Machine/Home.lean ====
section
/-!
DEFINITION. Home.lean: the home slices of the stacks: the lines they hold (02 R61–R64), the owners they register
(02 R65, R66), promotion slots (02 R45–R51) and writes to device memory with their poison (02 R67). The bytes of
device memory stand in dmem whether a line is in a home cache or not: neither changes a value.
-/
namespace Sys2Proof.Machine

/-! ## Places -/

/-- The first byte of the line of a place. -/
def lineStart : Place → Place
  | .dev key => .dev (key / 128 * 128)
  | .remote m pa => .remote m (pa / 128 * 128)
  | .host a => .host (a / 128 * 128)
  | p => p
/-- The offset of a place in its line. -/
def lineOffset : Place → Nat
  | .dev key => key % 128
  | .remote _ pa => pa % 128
  | .host a => a % 128
  | _ => 0
/-- A place moved by an offset within its line. -/
def placePlus (p : Place) (d : Nat) : Place :=
  match p with
  | .scratch c o => .scratch c (o + d)
  | .dev key => .dev (key + d)
  | .remote m pa => .remote m (pa + d)
  | .host a => .host (a + d)
  | .zero => .zero
/-- The bytes of a line at home. -/
def lineBytes (s : State) (home : Place) : Strip :=
  match home with
  | .dev key => ofStripBytes (s.dmem.bytes key 128)
  | .remote m pa => ofStripBytes (s.package.remoteMem.bytes (m * 2 ^ 40 + pa) 128)
  | .host a => ofStripBytes (s.package.hostMem.bytes a 128)
  | _ => 0
/-- The sector of a place is poisoned (02 R67). -/
def sectorBad (s : State) (p : Place) : Bool :=
  match p with
  | .dev key => secPoison (sectorOf s key)
  | .remote m pa => s.package.remoteBad.contains ((m * 2 ^ 40 + pa) / 32)
  | .host a => s.package.hostBad.contains (a / 32)
  | .scratch c off => (s.core c).scratchPoison.contains (off / 32)
  | .zero => false
/-- The media line of a copy, where it is a line of this package. -/
def L1Line.media (l : L1Line) : Option Nat :=
  match l.home with
  | .dev key => some (key / 128)
  | _ => none
/-- A place lies in one of two media regions. -/
def placeIn (a b : Nat) : Place → Bool
  | .dev key => key / 2 ^ 21 == a || key / 2 ^ 21 == b
  | _ => false
/-- The copy is of this media line. -/
def L1Line.ofMedia (l : L1Line) (line : Nat) : Bool := l.home == .dev (line * 128)

/-- A routine runs on the line of a place: no other access of the line is interleaved with it (02 R68). -/
def lineBusy (s : State) (p : Place) : Bool := s.hookReqs.any fun r => r.stage == 3 && lineStart r.place == lineStart p

/-! ## Owners (02 R64–R66) -/

/-- Words of a media line that a core owns no longer: its L1 keeps them as copies. -/
def disown (c : CoreId) (line : Nat) (words : BitVec 32) (s : State) : State :=
  let x := s.core c
  s.setCore c { x with l1 := x.l1.map fun l => if l.ofMedia line then { l with owned := l.owned &&& ~~~words } else l }

/-- The core of a 12-bit owner field: panel × 256 + index. -/
def ownerCore (o : Nat) : CoreId := mkCore (o / 256) (o % 256)

/-- The words of a sector, placed among the 32 words of its line. -/
def sectorWords (sector : Nat) (m : BitVec 8) : BitVec 32 := m.setWidth 32 <<< (8 * (sector % 4))

/-- Every owner of a sector recalled (02 R64). -/
def recallSector (sector : Nat) (s : State) : State :=
  let w := sectorOf s (sector * 32)
  let a := secOwner w false
  let b := secOwner w true
  let s := if a.2 != 0 then disown (ownerCore a.1) (sector / 4) (sectorWords sector a.2) s else s
  let s := if b.2 != 0 then disown (ownerCore b.1) (sector / 4) (sectorWords sector b.2) s else s
  if a.2 != 0 || b.2 != 0 then setSector s (sector * 32) (withOwners w (0, 0) (0, 0)) else s

/-- Every owner of a media line recalled. -/
def recallLine (line : Nat) (s : State) : State :=
  (List.range 4).foldl (fun s i => recallSector (line * 4 + i) s) s

/-- Some core owns words of the line. -/
def lineOwned (s : State) (line : Nat) : Bool :=
  (List.range 4).any fun i =>
    let w := sectorOf s ((line * 4 + i) * 32)
    (secOwner w false).2 != 0 || (secOwner w true).2 != 0

/-- A core registered as the owner of words of a sector (02 R65, R66): other owners of those words are recalled, and
of three owners the one with the older registration. DESIGN CHOICE (log 35): an owner that registers further words of the
sector keeps the age of its first registration. -/
def registerWords (c : CoreId) (sector : Nat) (m : BitVec 8) (s : State) : State :=
  let w := sectorOf s (sector * 32)
  let own := c.panel * 256 + c.index
  let strip := fun (o : Nat × BitVec 8) => if o.1 == own then o else (o.1, o.2 &&& ~~~m)
  let a := secOwner w false
  let b0 := secOwner w true
  let full := a.2 != 0 && b0.2 != 0 && a.1 != own && b0.1 != own
  let s := if full then disown (ownerCore a.1) (sector / 4) (sectorWords sector a.2) s else s
  let a0 := if full then (0, 0) else a
  let s := if a0.1 != own && a0.2 &&& m != 0 then disown (ownerCore a0.1) (sector / 4) (sectorWords sector (a0.2 &&& m)) s else s
  let s := if b0.1 != own && b0.2 &&& m != 0 then disown (ownerCore b0.1) (sector / 4) (sectorWords sector (b0.2 &&& m)) s else s
  let live := ([strip a0, strip b0]).filter fun o => o.2 != 0
  let put := fun (a b : Nat × BitVec 8) s => setSector s (sector * 32) (withOwners w a b)
  match live with
  | [] => put (own, m) (0, 0) s
  | [a] => if a.1 == own then put (own, a.2 ||| m) (0, 0) s else put a (own, m) s
  | a :: b :: _ =>
    if a.1 == own then put (own, a.2 ||| m) b s
    else if b.1 == own then put a (own, b.2 ||| m) s
    else put b (own, m) (disown (ownerCore a.1) (sector / 4) (sectorWords sector a.2) s)

/-- Words that a core no longer owns, of a sector. -/
def deregister (c : CoreId) (sector : Nat) (m : BitVec 8) (s : State) : State :=
  let w := sectorOf s (sector * 32)
  let own := c.panel * 256 + c.index
  let strip := fun (o : Nat × BitVec 8) => if o.1 == own then (if o.2 &&& ~~~m == 0 then (0, 0) else (o.1, o.2 &&& ~~~m)) else o
  setSector s (sector * 32) (withOwners w (strip (secOwner w false)) (strip (secOwner w true)))

/-! ## Promotion slots (02 R45–R51) -/

/-- A far line's subarray and row. -/
def farPlace (s : State) (key : Nat) : Nat × Nat :=
  let f := keyChannelLine s key
  (farSubarray (keySlice s key) f, farRow f)

/-- The slot that holds a row of a subarray of a stack, or is to receive it. -/
def slotOf (x : Stack) (sub row : Nat) : Option (Nat × Slot) :=
  x.slots.find? fun e => e.1 / 16 == sub && e.2.next.getD e.2.row == row && e.2.state != .free && !e.2.emptying

/-- A slot of a stack written. -/
def setSlot (stack n : Nat) (v : Slot) (s : State) : State :=
  let x := s.stack stack
  s.setStack stack { x with slots := Table.set {} x.slots n v }

/-- A write to DRAM at a key: the slot of a promoted row becomes DIRTY (02 R46). -/
def dramWrite (key : Nat) (s : State) : State :=
  if keyClass key == 1 then
    let p := farPlace s key
    match slotOf (s.stack (keyStack key)) p.1 p.2 with
    | some (n, v) =>
      match v.state with
      | .clean => setSlot (keyStack key) n { v with state := .dirty } s
      | .filling => if v.emptying then s else setSlot (keyStack key) n { v with wrote := true } s
      | _ => s
    | none => s
  else s

/-- A slot evicted (02 R48): a DIRTY one copies back in FILLING and is then FREE; a CLEAN one is FREE at once. -/
def evictSlot (stack n : Nat) (s : State) : State :=
  let v := Table.get {} (s.stack stack).slots n
  match v.state with
  | .dirty => (setSlot stack n { v with state := .filling, emptying := true, pin := false } s).post .promotionFillDone
      { stack := stack, a := n }
  | .clean => setSlot stack n {} s
  | .filling => setSlot stack n { v with emptying := true, next := none, pin := false } s
  | .free => s

/-- Every slot of the rows that a test picks is demoted (02 R51). -/
def demoteWhere (stack : Nat) (test : Nat → Slot → Bool) (s : State) : State :=
  (s.stack stack).slots.foldl (fun s e => if test e.1 e.2 then evictSlot stack e.1 s else s) s

/-! ## The home cache (02 R61–R63) -/

/-- The number of a set of a stack: slice × 2048 + set. -/
def homeSet (s : State) (key : Nat) : Nat := keySlice s key * 2048 + keySet s key
/-- The lines of a set, least recently used first. -/
def homeLines (s : State) (stack set : Nat) : List HomeLine := Table.get [] (s.stack stack).home set
/-- The lines of a set written. -/
def setHomeLines (stack set : Nat) (l : List HomeLine) (s : State) : State :=
  let x := s.stack stack
  s.setStack stack { x with home := Table.set [] x.home set l }
/-- The line is present in its slice. -/
def present (s : State) (key : Nat) : Bool :=
  (homeLines s (keyStack key) (homeSet s key)).any fun l => l.line == key / 128

/-- The bytes of a media line. -/
def mediaLine (s : State) (line : Nat) : Strip := ofStripBytes (s.dmem.bytes (line * 128) 128)
/-- A line has a poisoned sector. -/
def linePoisoned (s : State) (line : Nat) : Bool :=
  (List.range 4).any fun i => secPoison (sectorOf s ((line * 4 + i) * 32))
/-- The sectors a line takes (02 R61). -/
def lineNeed (s : State) (line : Nat) : Nat :=
  if linePoisoned s line then 4 else (Config.compressedSectors (mediaLine s line)).toNat + 1

/-- Free sectors of a way, after compaction within it. -/
def wayFree (l : List HomeLine) (w : Nat) : Nat := 4 - ((l.filter fun x => x.way == w).map HomeLine.sectors).sum
/-- A way with room, while a tag is free (02 R62); a way with no line has room for any, which takes at most its 4 sectors
(R61). DESIGN CHOICE (log 35): of several it is the lowest-numbered. -/
def roomyWay (l : List HomeLine) (need : Nat) : Option Nat :=
  if l.length < 32 then (List.range 16).find? fun w => !(l.any fun x => x.way == w) || decide (need ≤ wayFree l w) else none

/-- A line leaves its slice: its owners are recalled and its dirty data goes to DRAM (02 R62, R64). -/
def evictLine (x : HomeLine) (s : State) : State :=
  let s := recallLine x.line s
  if x.dirty then dramWrite (x.line * 128) s else s

/-- Make room in the way of the least recently used line, evicting at most n lines of it in order (02 R62, R63):
the lines left, the way where room was found, and the lines evicted. -/
def makeRoom (need way : Nat) : Nat → List HomeLine → List HomeLine → List HomeLine × Option Nat × List HomeLine
  | 0, l, out => (l, if need ≤ wayFree l way && l.length < 32 then some way else none, out)
  | n + 1, l, out =>
    if need ≤ wayFree l way && l.length < 32 then (l, some way, out)
    else
      match l.find? fun x => x.way == way with
      | none => (l, none, out)
      | some x => makeRoom need way n (l.filter fun y => y.line != x.line) (out ++ [x])

/-- A line placed in its set as the most recently used (02 R62): n bounds the evictions. Where they make no room, the line
itself leaves the cache: its owners are recalled first (R63, R64). -/
def placeLine (key : Nat) (dirty : Bool) (n : Nat) (s : State) : State :=
  let stack := keyStack key
  let set := homeSet s key
  let l := homeLines s stack set
  let need := lineNeed s (key / 128)
  match roomyWay l need with
  | some w => setHomeLines stack set (l ++ [{ line := key / 128, way := w, sectors := need, dirty := dirty }]) s
  | none =>
    let way := ((l.head?).map HomeLine.way).getD 0
    let (l2, w, out) := makeRoom need way n l []
    let s := out.foldl (fun s x => evictLine x s) s
    match w with
    | some w => setHomeLines stack set (l2 ++ [{ line := key / 128, way := w, sectors := need, dirty := dirty }]) s
    | none =>
      let s := recallLine (key / 128) (setHomeLines stack set l2 s)
      if dirty then dramWrite key s else s

/-- A request served by the home slice of a key: a hit becomes the most recently used line, a miss fills it; a write
that grows a line relocates it, and one after which it compresses into fewer sectors gives up the others (02 R61–R63). -/
def homeTouch (key : Nat) (write : Bool) (s : State) : State :=
  let stack := keyStack key
  let set := homeSet s key
  let l := homeLines s stack set
  match l.find? fun x => x.line == key / 128 with
  | none => placeLine key write 32 s
  | some x =>
    let rest := l.filter fun y => y.line != key / 128
    let need := lineNeed s (key / 128)
    if write && x.sectors < need then placeLine key true 3 (setHomeLines stack set rest s)
    else setHomeLines stack set (rest ++ [{ x with dirty := x.dirty || write, sectors := if write then need else x.sectors }]) s

/-- The read of a line cannot be served now: the stack is in self-refresh and the line is absent (02 R75). DESIGN CHOICE (log 35): a line
of an expander, whose data comes over port 1, waits as a line of stack 11 does. -/
def mustWait (s : State) (key : Nat) : Bool := (s.stack (keyStack key)).refresh && !present s key

/-! ## Writes to device memory -/

/-- The sectors that a list of written keys covers whole. -/
def wholeSectors (keys : List Nat) : List Nat :=
  ((keys.map fun k => k / 32).dedup).filter fun x => (keys.filter fun k => k / 32 == x).dedup.length == 32

/-- The sector lies in an extent whose release was forced: it stays poisoned (02 R77). -/
def forcedSector (s : State) (sector : Nat) : Bool :=
  s.package.releasing.any fun e => e.2.2 && (List.range e.2.1).any fun i =>
    let g := regionEntry s (e.1 + i)
    rgValid g && rgClass g == 2 && mediaKey 2 (rgStack g) (rgMedia g) 0 / 2 ^ 21 == sector * 32 / 2 ^ 21

/-- Bytes written at their home slices (02 R67: a whole sector loses its poison). -/
def devWrite (bs : List (Nat × Byte)) (s : State) : State :=
  let s := { s with dmem := bs.foldl (fun m b => m.setByte b.1 b.2) s.dmem }
  let s := (wholeSectors (bs.map Prod.fst)).foldl (fun s x =>
    let w := sectorOf s (x * 32)
    if secPoison w && !forcedSector s x then setSector s (x * 32) (withPoison w false) else s) s
  ((bs.map fun b => b.1 / 128).dedup).foldl (fun s l => homeTouch (l * 128) true s) s

/-- A present line that has been poisoned takes four sectors (02 R61): it is placed again if it held fewer. -/
def growPoisoned (line : Nat) (s : State) : State :=
  let stack := keyStack (line * 128)
  let set := homeSet s (line * 128)
  let l := homeLines s stack set
  match l.find? fun x => x.line == line with
  | none => s
  | some x => if x.sectors < 4 then placeLine (line * 128) x.dirty 3 (setHomeLines stack set (l.filter fun y => y.line != line) s) else s
/-- Poison of the sectors of a list of keys set. -/
def devPoison (keys : List Nat) (s : State) : State :=
  let s := ((keys.map fun k => k / 32).dedup).foldl (fun s x => setSector s (x * 32) (withPoison (sectorOf s (x * 32)) true)) s
  ((keys.map fun k => k / 128).dedup).foldl (fun s l => growPoisoned l s) s

/-- Bytes written in the memory of another package (member × 2^40 + address). -/
def remoteWrite (bs : List (Nat × Byte)) (s : State) : State :=
  let whole := wholeSectors (bs.map Prod.fst)
  { s with package := { s.package with
    remoteMem := bs.foldl (fun t b => t.setByte b.1 b.2) s.package.remoteMem
    remoteBad := if s.package.remoteBad.isEmpty then [] else s.package.remoteBad.filter fun q => !whole.contains q } }
/-- Bytes written in host memory. -/
def hostWrite (bs : List (Nat × Byte)) (s : State) : State :=
  let whole := wholeSectors (bs.map Prod.fst)
  { s with package := { s.package with
    hostMem := bs.foldl (fun t b => t.setByte b.1 b.2) s.package.hostMem
    hostBad := if s.package.hostBad.isEmpty then [] else s.package.hostBad.filter fun q => !whole.contains q } }
/-- The sectors of places in other packages and in host memory poisoned. -/
def awayPoison (ps : List Place) (s : State) : State :=
  ps.foldl (fun s p =>
    match p with
    | .remote m pa =>
      let q := (m * 2 ^ 40 + pa) / 32
      if s.package.remoteBad.contains q then s
      else { s with package := { s.package with remoteBad := q :: s.package.remoteBad } }
    | .host a =>
      if s.package.hostBad.contains (a / 32) then s
      else { s with package := { s.package with hostBad := a / 32 :: s.package.hostBad } }
    | _ => s) s

/-- What a write makes of a line needs DRAM (02 R75): the line is absent, or as it grows it would evict a dirty line or leave the
cache itself. -/
def lineNeedsDram (s after : State) (line : Nat) : Bool :=
  let stack := keyStack (line * 128)
  let set := homeSet s (line * 128)
  !present s (line * 128) || !present after (line * 128) ||
    (homeLines s stack set).any fun x => x.dirty && !(homeLines after stack set).any fun y => y.line == x.line
/-- A write of these bytes needs DRAM. -/
def writeNeedsDram (s : State) (bs : List (Nat × Byte)) : Bool :=
  let after := devWrite bs s
  ((bs.map fun b => b.1 / 128).dedup).any (lineNeedsDram s after)
/-- A write cannot be served now (02 R75). -/
def writeMustWait (s : State) (bs : List (Nat × Byte)) : Bool :=
  (bs.any fun b => (s.stack (keyStack b.1)).refresh) && writeNeedsDram s bs

/-- A request for a line that must wait for self-refresh to end enters its slice's queue of 256 in arrival order, once; where the
queue is full the requester tries again (02 R75). -/
def queueRequest (key : Nat) (fill : Option (CoreId × Nat)) (party : Option EventArg) (s : State) : State :=
  let line := key / 128 * 128
  let stack := keyStack key
  let slice := keySlice s key
  let x := s.stack stack
  if s.homeReads.any fun r => r.key == line && r.fill == fill && r.party == party then s
  else if 256 ≤ (x.queue.filter fun e => e.2 == slice).length then s
  else
    let (id, s) := s.fresh
    let s := s.setStack stack { x with queue := x.queue ++ [(id, slice)] }
    { s with homeReads := s.homeReads ++ [{ id := id, key := line, fill := fill, party := party }] }
/-- A line to be read for an L1, or for a walk or a prefetch, queued. -/
def queueRead (key : Nat) (fill : Option (CoreId × Nat)) (s : State) : State := queueRequest key fill none s
/-- The request that the event in hand makes is queued: the event is tried again when the request is served. -/
def queueParty (key : Nat) (s : State) : State := queueRequest key none (some s.arg) s

/-! ## The L1 (07 R391) -/

/-- The i-th 4-byte word of a line. -/
def word32 (x : Strip) (i : Nat) : Nat := lane 32 x i

/-- A line's owned words written back and given up. -/
def releaseOwned (c : CoreId) (l : L1Line) (s : State) : State :=
  match l.media with
  | none => s
  | some line => (List.range 4).foldl (fun s i =>
      let m := l.owned.extractLsb' (8 * i) 8
      if m != 0 then deregister c (line * 4 + i) m s else s) s

/-- A line of the L1 holds buffered words of a fixed-mode strand. -/
def holdsBuffered (x : Core) (line : Nat) : Bool := x.buffered.any fun b => b.va / 128 == line

/-- Another line of the set of a line. -/
def sharesSet (line other : Nat) : Bool := other != line && other % 64 == line % 64
/-- The ways of the set of a line that others hold: copies, and lines of which there are only buffered words. -/
def l1Ways (x : Core) (line : Nat) : Nat :=
  (x.l1.filter fun l => sharesSet line l.line).length +
    (((x.buffered.map fun b => b.va / 128).dedup).filter fun b => sharesSet line b && !x.l1.any fun l => l.line == b).length
/-- A way for a line in its set: a full set lets its least recently used line go that holds no buffered words (07 R391); none
where every way holds some. -/
def l1Room (c : CoreId) (line : Nat) (s : State) : Option State :=
  let x := s.core c
  if l1Ways x line < 16 then some s
  else
    ((x.l1.filter fun l => sharesSet line l.line).reverse.find? fun l => !holdsBuffered x l.line).map fun v =>
      releaseOwned c v (s.setCore c (x.withL1 (x.l1.filter fun l => l.line != v.line)))
/-- A line put into the L1 as the most recently used, where its set has a way for it. -/
def l1Insert (c : CoreId) (n : L1Line) (s : State) : State :=
  match l1Room c n.line s with
  | some s => s.setCore c { s.core c with l1 := n :: (s.core c).l1.filter fun l => l.line != n.line }
  | none => s

/-- A store of these words to a line's copy meets its poisoned sectors: one written whole is good again; of another the
copy goes, and its home is to be poisoned (02 R67): the sectors of the line of which that holds. -/
def mergeBad (words : BitVec 32) (l : L1Line) : L1Line × List Nat :=
  (List.range 4).foldl (fun (r : L1Line × List Nat) i =>
    let m := words.extractLsb' (8 * i) 8
    if !r.1.bad.getLsbD i || m == 0 then r
    else if m == 0xFF then ({ r.1 with bad := r.1.bad &&& ~~~((1 : BitVec 4) <<< i) }, r.2)
    else ({ r.1 with
            bad := r.1.bad &&& ~~~((1 : BitVec 4) <<< i), valid := r.1.valid &&& ~~~(sectorWords i 0xFF)
            owned := r.1.owned &&& ~~~(sectorWords i 0xFF) }, r.2 ++ [i])) (l, [])

/-- Bytes of a store of a core that has been performed laid over the other copies that its L1 holds of the same line: those
under another virtual address, and the copies of remote and host lines, which stores never own (07 R172). -/
def patchCopies (c : CoreId) (keep : Nat) (bs : List (Place × Byte)) (s : State) : State :=
  let x := s.core c
  let patch := fun (l : L1Line) =>
    let mine := bs.filter fun b => lineStart b.1 == l.home
    if l.line == keep || mine.isEmpty then l
    else { l with data := ofStripBytes (mine.foldl (fun d b => d.set (lineOffset b.1) b.2) (stripBytes l.data)) }
  if x.l1.isEmpty then s else s.setCore c { x with l1 := x.l1.map patch }

/-- The words of a list of keys, among the 32 words of their line. -/
def keyWords (keys : List Nat) : BitVec 32 := keys.foldl (fun (m : BitVec 32) k => m ||| (1 <<< (k % 128 / 4))) 0

/-- The 4-byte words of a list of keys registered to a core (08 R183), sector by sector; its L1 holds them as owned
words of the virtual line. A sector that is poisoned at home stays so after a partial write (02 R67): the core keeps no word
of it. A line that has left its home slice (R63) has no owner: its words stay as copies. -/
def registerStore (c : CoreId) (va : Nat) (keys : List Nat) (s : State) : State :=
  let line := (keys.headD 0) / 128
  let secs := (keys.map fun k => k / 32).dedup
  let bad := secs.filter fun x => secPoison (sectorOf s (x * 32))
  let good := keys.filter fun k => !bad.contains (k / 32)
  let own := if present s (line * 128) then good else []
  let s := bad.foldl (fun s x => deregister c x 0xFF s) s
  let s := ((own.map fun k => k / 32).dedup).foldl (fun s x =>
    let m := own.foldl (fun (m : BitVec 8) k => if k / 32 == x then m ||| (1 <<< (k % 32 / 4)) else m) 0
    registerWords c x m s) s
  let lost := bad.foldl (fun (m : BitVec 32) x => m ||| sectorWords x 0xFF) 0
  let words := keyWords good
  let old := ((s.core c).l1.find? fun l => l.line == va / 128 && l.ofMedia line).getD
    { line := va / 128, data := 0, valid := 0, owned := 0, home := .dev (line * 128) }
  let fresh := mediaLine s line
  let (new, spoilt) := mergeBad words { old with
    data := ofLanes 32 32 fun i => if words.getLsbD i then word32 fresh i else word32 old.data i
    valid := (old.valid ||| words) &&& ~~~lost
    owned := (old.owned ||| keyWords own) &&& ~~~lost }
  let s := spoilt.foldl (fun s i => deregister c (line * 4 + i) 0xFF (devPoison [(line * 4 + i) * 32] s)) s
  l1Insert c new s

/-! ## Counters (02 R57, 07 R174) -/

/-- A saturating count. -/
def satInc (w x : Nat) : Nat := if x + 1 < 2 ^ w then x + 1 else x

/-- A home-cache request of a panel counted: region and stack (02 R57). DESIGN CHOICE (log 35): the stack's 32-bit counter
saturates as the region's does. -/
def countRegion (panel region stack : Nat) (s : State) : State :=
  let p := s.panel panel
  s.setPanel panel { p with
    regionCounts := Table.set 0 p.regionCounts region (BitVec.ofNat 16 (satInc 16 (Table.get 0 p.regionCounts region).toNat))
    stackCounts := Table.set 0 p.stackCounts stack (BitVec.ofNat 32 (satInc 32 (Table.get 0 p.stackCounts stack).toNat)) }

/-- The entry with the lowest total, the first of equals. -/
def lowestTotal : List (Nat × Nat × Nat × Nat) → Option (Nat × Nat × Nat × Nat)
  | [] => none
  | e :: es =>
    match lowestTotal es with
    | none => some e
    | some f => if e.2.1 + e.2.2.1 + e.2.2.2 ≤ f.2.1 + f.2.2.1 + f.2.2.2 then some e else some f

/-- A line access counted in its page's entry: kind 0 local, 1 remote-forwarded, 2 host-forwarded (07 R174). -/
def countPage (panel page kind : Nat) (s : State) : State :=
  let p := s.panel panel
  let bump := fun (e : Nat × Nat × Nat × Nat) =>
    (e.1, if kind = 0 then satInc 16 e.2.1 else e.2.1, if kind = 1 then satInc 16 e.2.2.1 else e.2.2.1,
      if kind = 2 then satInc 16 e.2.2.2 else e.2.2.2)
  let l :=
    if p.pageCounts.any fun e => e.1 == page then p.pageCounts.map fun e => if e.1 == page then bump e else e
    else if p.pageCounts.length < 256 then p.pageCounts ++ [bump (page, 0, 0, 0)]
    else
      match lowestTotal p.pageCounts with
      | none => p.pageCounts
      | some v => p.pageCounts.map fun e => if e.1 == v.1 then bump (page, 0, 0, 0) else e
  s.setPanel panel { p with pageCounts := l }

end Sys2Proof.Machine
end

