-- ==== Sys2Proof/Machine/Control.lean ====
section
/-!
DEFINITION. Control.lean: the register spaces: the control space (01 R41, R42), the host control block (01 R40) and
the tenant pages (03 R84): which registers they hold, what a read gives, and what a write stores.
-/
namespace Sys2Proof.Machine

/-- A register of the control space (01 R41, R42). -/
inductive CtlReg where
  | ptroot | pginv | pgcnt | flushep | lawinv | bootst | sevbase | sevprod | sevcons
  | tdom (t : Nat) | tlife (t : Nat) | pquota (t : Nat) | lawbase (t : Nat) | pal (t j : Nat)
  | hostcb (off : Nat)
  | region (r : Nat)
  | rampup (p : Nat) | rampdn (p : Nat) | swerr (p : Nat) | srcclk (p : Nat) | zto (p : Nat)
  | patchctl (p n : Nat) | patchst (p n : Nat) | qbind (p i : Nat) | tweight (p t : Nat) | tdivto (p t : Nat)
  | tmask (c : CoreId) | corecmd (c : CoreId) | corestat (c : CoreId) | trbase (c : CoreId) | trlim (c : CoreId)
  | trpos (c : CoreId) | trmode (c : CoreId) | pwrctl (c : CoreId) | pwrstat (c : CoreId)
  | stkcnt (p s : Nat) | pgcntr (p e : Nat) (second : Bool) | errlog (p e : Nat) (second : Bool) | errpos (p : Nat)
  | rgncnt (p q : Nat)
  deriving DecidableEq, Repr

/-- The register of a panel's block at an offset of the block (01 R42). -/
def panelReg (p o : Nat) : Option CtlReg :=
  if o % 8 != 0 then none
  else if o = 0 then some (.rampup p)
  else if o = 8 then some (.rampdn p)
  else if o = 0x10 then some (.swerr p)
  else if o = 0x18 then some (.srcclk p)
  else if o = 0x20 then some (.zto p)
  else if 0x100 ≤ o ∧ o < 0x1C0 then
    some (if o % 16 = 0 then .patchctl p ((o - 0x100) / 16) else .patchst p ((o - 0x100) / 16))
  else if 0x1000 ≤ o ∧ o < 0x1400 then some (.qbind p ((o - 0x1000) / 8))
  else if 0x1800 ≤ o ∧ o < 0x1900 then some (.tweight p ((o - 0x1800) / 8))
  else if 0x1900 ≤ o ∧ o < 0x1A00 then some (.tdivto p ((o - 0x1900) / 8))
  else if 0x2000 ≤ o ∧ o < 0x2000 + 0x80 * 196 then
    let c := mkCore p ((o - 0x2000) / 0x80)
    match (o - 0x2000) % 0x80 with
    | 0x00 => some (.tmask c) | 0x08 => some (.corecmd c) | 0x10 => some (.corestat c) | 0x18 => some (.trbase c)
    | 0x20 => some (.trlim c) | 0x28 => some (.trpos c) | 0x30 => some (.trmode c) | 0x38 => some (.pwrctl c)
    | 0x40 => some (.pwrstat c) | _ => none
  else if 0xA000 ≤ o ∧ o < 0xA060 then some (.stkcnt p ((o - 0xA000) / 8))
  else if 0xB000 ≤ o ∧ o < 0xC000 then some (.pgcntr p ((o - 0xB000) / 16) (o % 16 != 0))
  else if 0xC000 ≤ o ∧ o < 0xD000 then some (.errlog p ((o - 0xC000) / 16) (o % 16 != 0))
  else if o = 0xD000 then some (.errpos p)
  else if 0x200000 ≤ o ∧ o < 0x200000 + 8 * 131072 then some (.rgncnt p ((o - 0x200000) / 8))
  else none

/-- The register of the control space at an offset, where one is listed (01 R41). -/
def ctlReg (o : Nat) : Option CtlReg :=
  if o % 8 != 0 then none
  else if o = 0 then some .ptroot
  else if o = 8 then some .pginv
  else if o = 0x10 then some .pgcnt
  else if o = 0x18 then some .flushep
  else if o = 0x20 then some .lawinv
  else if o = 0x100 then some .bootst
  else if o = 0x200 then some .sevbase
  else if o = 0x208 then some .sevprod
  else if o = 0x210 then some .sevcons
  else if 0x1000 ≤ o ∧ o < 0x3000 then
    let t := (o - 0x1000) / 0x100
    let r := (o - 0x1000) % 0x100
    if r = 0 then some (.tdom t)
    else if r = 8 then some (.tlife t)
    else if r = 0x10 then some (.pquota t)
    else if r = 0x18 then some (.lawbase t)
    else if 0x80 ≤ r then some (.pal t ((r - 0x80) / 8))
    else none
  else if 0x4000 ≤ o ∧ o < 0x5000 then some (.hostcb (o - 0x4000))
  else if 0x400000 ≤ o ∧ o < 0x400000 + 8 * 524288 then some (.region ((o - 0x400000) / 8))
  else if 0x1000000 ≤ o ∧ o < 0x1000000 + 12 * 0x400000 then
    panelReg ((o - 0x1000000) / 0x400000) ((o - 0x1000000) % 0x400000)
  else none

/-- CORESTAT.STATE (04 R116). -/
def CoreState.code : CoreState → Nat
  | .idle => 0 | .running => 1 | .stopping => 2 | .halted => 3 | .quiet => 4 | .killed => 5 | .retired => 6

/-- CORESTAT (04 R116). -/
def corestat (x : Core) : Nat :=
  x.status.code * 2 ^ 28 + x.tenant % 32 * 2 ^ 23 + bit x.err * 2 ^ 22 + bit x.withheld * 2 ^ 21 + bit x.diverged * 2 ^ 20

/-- PWRSTAT (05 R123). -/
def pwrstat (x : Core) : Nat :=
  x.vnow.toNat * 2 ^ 24 + bit x.srcnow * 2 ^ 23 + bit x.hopping * 2 ^ 22 + bit x.stretch * 2 ^ 21 +
    bit x.pwrErr * 2 ^ 20 + bit x.forced * 2 ^ 19 + x.dcount.toNat

/-- A window register: first word (base, enable) or second (limit). -/
def windowWord (s : State) (n : Nat) (second : Bool) : Nat :=
  let w := Table.get (0, 0, false) s.package.windows n
  if second then w.2.1.toNat * 65536 else w.1.toNat * 65536 + bit w.2.2

/-- Boot is stopped: the recovery registers act (01 R40). -/
def bootStopped (s : State) : Bool := s.package.boot.phase == .stopped

/-- A register of the host control block (01 R40). -/
def hostcbRead (s : State) (o : Nat) : Nat :=
  let b := s.package.boot
  if o = 0 then s.package.linken.toNat
  else if o = 8 then b.bootst.toNat
  else if 0x100 ≤ o ∧ o < 0x200 then windowWord s ((o - 0x100) / 16) (o % 16 == 8)
  else if 0x200 ≤ o ∧ o < 0x300 then windowWord s (16 + (o - 0x200) / 16) (o % 16 == 8)
  else if !bootStopped s then 0
  else if o = 0x1008 then b.raddr.toNat
  else if o = 0x1010 then b.rlen.toNat
  else if o = 0x1018 then b.rstat.toNat + b.rerr.toNat * 256
  else if 0x2000 ≤ o ∧ o < 0x3000 then b.rbuf.nat (o - 0x2000) 8
  else 0

/-- The value of a control-space register. -/
def ctlValue (s : State) : CtlReg → Nat
  | .ptroot => s.package.ptroot.toNat
  | .pginv => s.package.pginv.toNat
  | .pgcnt => s.package.pgcnt.toNat
  | .flushep => bit s.package.flushBusy * 2 ^ 63
  | .lawinv => s.package.lawinv.toNat
  | .bootst => s.package.boot.bootst.toNat
  | .sevbase => s.package.sevbase.toNat
  | .sevprod => s.package.sevprod.toNat
  | .sevcons => s.package.sevcons.toNat
  | .tdom t => (s.tenant t).tdom.toNat
  | .tlife t => (s.tenant t).tlife.toNat
  | .pquota t => (s.tenant t).pquota.toNat
  | .lawbase t => (s.tenant t).lawbase.toNat
  | .pal t j => (Table.get 0 (s.tenant t).pal j).toNat
  | .hostcb o => hostcbRead s o
  | .region r => (regionEntry s r).toNat
  | .rampup p => (s.panel p).rampup.toNat
  | .rampdn p => (s.panel p).rampdn.toNat
  | .swerr p => bit (s.panel p).swerr
  | .srcclk p => (s.panel p).fb.toNat * 2 ^ 16 + (s.panel p).fa.toNat
  | .zto p => (s.panel p).zto.toNat
  | .patchctl p n => (Table.get 0 (s.panel p).patchctl n).toNat
  | .patchst p n => (Table.get 0 (s.panel p).patchst n).toNat
  | .qbind p i => (Table.get 0 (s.panel p).qbind i).toNat
  | .tweight p t => (Table.get 1 (s.panel p).tweight t).toNat
  | .tdivto p t => (Table.get 1000 (s.panel p).tdivto t).toNat
  | .tmask c => (s.core c).tmask.toNat
  | .corecmd c => (s.core c).corecmd.toNat
  | .corestat c => corestat (s.core c)
  | .trbase c => (s.core c).trbase.toNat
  | .trlim c => (s.core c).trlim.toNat
  | .trpos c => (s.core c).trpos.toNat
  | .trmode c => (s.core c).trmode.toNat
  | .pwrctl c => (s.core c).volt.toNat * 2 ^ 24 + (s.core c).dthr.toNat * 2 ^ 18 + bit (s.core c).src * 2 ^ 17
  | .pwrstat c => pwrstat (s.core c)
  | .stkcnt p n => (Table.get 0 (s.panel p).stackCounts n).toNat
  | .pgcntr p e second =>
    match (s.panel p).pageCounts[e]? with
    | none => 0
    | some (page, a, b, c) => if second then a + b * 2 ^ 16 + c * 2 ^ 32 else page % 2 ^ 41 * 2 ^ 16 + 1
  | .errlog p e second =>
    let w := Table.get (0, 0) (s.panel p).errlog e
    if second then w.2.toNat else w.1.toNat
  | .errpos p => (s.panel p).errpos
  | .rgncnt p q =>
    (List.range 4).foldr (fun i acc => acc * 2 ^ 16 + (Table.get 0 (s.panel p).regionCounts (4 * q + i)).toNat) 0

/-- SWERR read: it is returned and cleared (04 R101). -/
def swerrTake (p : Nat) (s : State) : State := s.setPanel p { s.panel p with swerr := false }
/-- PWRSTAT read: DCOUNT is cleared (05 R123). -/
def pwrstatTake (c : CoreId) (s : State) : State := s.setCore c { s.core c with dcount := 0 }

/-- A read of a control-space register, with what the read clears. -/
def ctlRead (s : State) (r : CtlReg) : W64 × State :=
  let v := BitVec.ofNat 64 (ctlValue s r)
  match r with
  | .swerr p => (v, swerrTake p s)
  | .pwrstat c => (v, pwrstatTake c s)
  | _ => (v, s)

/-- The event that a write of a control-space register is: its own where the register has a behaviour, else
REGISTER_WRITE with space 2. -/
def ctlWriteEvent (o : Nat) (v : W64) : Instr × EventArg :=
  match ctlReg o with
  | some .pginv => (.pageShootdown, { v := v })
  | some .flushep => (.flushEpochStart, { v := v })
  | some .lawinv => (.lawTableShootdown, { v := v })
  | some (.region r) => (.regionWrite, { a := r, v := v })
  | some (.srcclk p) => (.srcclkWrite, { panel := p, v := v })
  | some (.trmode c) => (.trmodeWrite, { core := c, v := v })
  | some (.pwrctl c) => (.pwrctlWrite, { core := c, v := v })
  | some (.corecmd c) =>
    match v.toNat % 16 with
    | 0 => (.corecmdNone, { core := c, v := v })
    | 1 => (.corecmdPreempt, { core := c, v := v })
    | 2 => (.corecmdResume, { core := c, v := v })
    | 3 => (.corecmdHalt, { core := c, v := v })
    | 4 => (.corecmdHaltQuiet, { core := c, v := v })
    | 5 => (.corecmdUnhalt, { core := c, v := v })
    | _ => (.corecmdReject, { core := c, v := v })
  | _ => (.registerWrite, { a := 2, b := o, c := 8, v := v })

/-- A package field changed. -/
def State.withPackage (s : State) (f : Package → Package) : State := { s with package := f s.package }

/-- A swift register takes v if it is good; a reserved value leaves it and sets SWERR (04 R101). -/
def swiftSet (p : Nat) (good : Bool) (f : Panel → Panel) (s : State) : State :=
  s.setPanel p (if good then f (s.panel p) else { s.panel p with swerr := true })

/-- A core register takes v if it is good; a reserved value leaves it and sets CORESTAT.ERR (04 R101). A retired
core's registers discard writes (01 R42). -/
def coreSet (c : CoreId) (good : Bool) (f : Core → Core) (s : State) : State :=
  let x := s.core c
  if x.status == .retired then s else s.setCore c (if good then f x else { x with err := true })

/-- A counter. -/
def counterOf (s : State) (id : Nat) : Counter := Table.get {} s.counters id
/-- A counter written. -/
def setCounter (id : Nat) (c : Counter) (s : State) : State := { s with counters := Table.set {} s.counters id c }

/-- A palette entry installed for a counter (08 R195, R198): the value at its install is the one that BASE stands for, and what it
kept for an earlier palette is gone. DEDUCED (log 54): the low 18 bits are BASE, and the others those of the counter's value, or of
the last value with these low bits before it. -/
def installCounter (v : W64) (s : State) : State :=
  if v.getLsbD 16 && !v.getLsbD 17 then
    let id := v.toNat % 65536
    let c := counterOf s id
    let back := (c.value - v.extractLsb' 32 32) &&& 0x3FFFF
    setCounter id { c with installed := c.value - back, signaller := none, deposits := [], dropped := none } s
  else s

/-- A write to a control-space register without a behaviour of its own (01 R41, R42). A value with a reserved code or
a must-be-zero bit leaves it; a read-only register keeps its value. -/
def ctlStore (r : CtlReg) (v : W64) (s : State) : State :=
  let n := v.toNat
  match r with
  | .ptroot => if n % 2 ^ 21 = 0 ∧ n < 2 ^ 57 then s.withPackage fun p => { p with ptroot := v } else s
  | .pgcnt => if 1 ≤ n ∧ n ≤ 2 ^ 20 then s.withPackage fun p => { p with pgcnt := v.setWidth 21 } else s
  | .sevbase => if n % 65536 = 0 then s.withPackage fun p => { p with sevbase := v } else s
  | .sevcons => serviceLost (serviceDrain 64 (s.withPackage fun p => { p with sevcons := v }))
  | .tdom t => if n < 2 ^ 17 then s.setTenant t { s.tenant t with tdom := v } else s
  | .tlife t => if 1 ≤ n ∧ n < 2 ^ 32 then s.setTenant t { s.tenant t with tlife := v.setWidth 32 } else s
  | .pquota t => s.setTenant t { s.tenant t with pquota := v }
  | .lawbase t => if n % 8192 = 0 then s.setTenant t { s.tenant t with lawbase := v } else s
  | .pal t j =>
    if n < 2 ^ 50 ∧ n / 2 ^ 18 % 2 ^ 14 = 0 then
      let x := s.tenant t
      installCounter v (s.setTenant t { x with pal := Table.set 0 x.pal j v })
    else s
  | .rampup p => swiftSet p (1 ≤ n && n < 2 ^ 20) (fun x => { x with rampup := v.setWidth 20 }) s
  | .rampdn p => swiftSet p (1 ≤ n && n < 2 ^ 20) (fun x => { x with rampdn := v.setWidth 20 }) s
  | .zto p => swiftSet p (1 ≤ n && n < 2 ^ 16) (fun x => { x with zto := v.setWidth 16 }) s
  | .patchctl p i => swiftSet p (n < 2 ^ 16) (fun x => { x with patchctl := Table.set 0 x.patchctl i (v.setWidth 16) }) s
  | .qbind p i => swiftSet p (n / 2 ^ 50 % 16 = 0 && n / 2 ^ 59 < 32) (fun x => { x with qbind := Table.set 0 x.qbind i v }) s
  | .tweight p t => swiftSet p (1 ≤ n && n < 16) (fun x => { x with tweight := Table.set 1 x.tweight t (v.setWidth 4) }) s
  | .tdivto p t => swiftSet p (1 ≤ n && n < 2 ^ 16) (fun x => { x with tdivto := Table.set 1000 x.tdivto t (v.setWidth 16) }) s
  | .tmask c => coreSet c (n < 2 ^ 32) (fun x => { x with tmask := v.setWidth 32 }) s
  | .trbase c => coreSet c (n % 16 = 0 && n < 2 ^ 57) (fun x => { x with trbase := v }) s
  | .trlim c => coreSet c (n % 16 = 0 && n < 2 ^ 57) (fun x => { x with trlim := v }) s
  | .trpos c => coreSet c (n % 16 = 0 && n < 2 ^ 57) (fun x => { x with trpos := v }) s
  | _ => s

/-! ## The host's writes (01 R40; 03 R79, R84) -/

/-- A window of the host control block written (01 R37, R40). DESIGN CHOICE (log 35): a write with a non-zero must-be-zero bit
is discarded whole, as in the control space. -/
def windowStore (n : Nat) (second : Bool) (v : W64) (s : State) : State :=
  let w := Table.get (0, 0, false) s.package.windows n
  let good := if second then v.toNat % 65536 = 0 else v.toNat % 65536 < 2
  if good then
    let new := if second then (w.1, v.extractLsb' 16 48, w.2.2) else (v.extractLsb' 16 48, w.2.1, v.getLsbD 0)
    s.withPackage fun p => { p with windows := Table.set (0, 0, false) p.windows n new }
  else s

/-- A write to the host control block (01 R40), registers with a behaviour of their own apart. -/
def hostcbStore (o size : Nat) (v : W64) (s : State) : State :=
  if 0x100 ≤ o ∧ o < 0x200 ∧ o % 8 = 0 then windowStore ((o - 0x100) / 16) (o % 16 == 8) v s
  else if 0x200 ≤ o ∧ o < 0x300 ∧ o % 8 = 0 then windowStore (16 + (o - 0x200) / 16) (o % 16 == 8) v s
  else if !bootStopped s then s
  else if o = 0x1008 then
    if v.toNat % 4096 = 0 then s.withPackage fun p => { p with boot := { p.boot with raddr := v } } else s
  else if o = 0x1010 then
    if 1 ≤ v.toNat ∧ v.toNat ≤ 4096 then s.withPackage fun p => { p with boot := { p.boot with rlen := v.setWidth 13 } } else s
  else if 0x2000 ≤ o ∧ o < 0x3000 then
    s.withPackage fun p => { p with boot := { p.boot with rbuf := p.boot.rbuf.setBytes (o - 0x2000) (toBytes size v.toNat) } }
  else s

/-- A write to a tenant page or the management mailbox (03 R79, R84, R97), registers with a behaviour apart. A page of
no tenant ignores writes (R80). DESIGN CHOICE (log 56): a write of EVBASE with a bit of [5:0] set, or of EVCTL with LOG, the vector or
the count out of range or a bit above 24 set, is discarded whole, even one that clears enable. -/
def pageStore (o size : Nat) (v : W64) (s : State) : State :=
  if o < 0x20000 then
    let t := o / 4096
    let x := s.tenant t
    if !x.present then s
    else
      match o % 4096 with
      | 0x000 => s.setTenant t { x with shipAddr := v }
      | 0x008 => s.setTenant t { x with shipOp0 := v }
      | 0x010 => s.setTenant t { x with shipOp1 := v }
      | 0x030 => s.setTenant t { x with shipOp2 := v }
      | 0x040 => if v.toNat % 64 = 0 then s.setTenant t { x with evBase := v } else s
      | 0x048 =>
        let log := v.toNat % 32
        if 6 ≤ log ∧ log ≤ 16 ∧ v.toNat / 32 % 8 = 0 ∧ v.toNat / 256 % 256 < 64 ∧ 1 ≤ v.toNat / 65536 % 256 ∧ v.toNat < 2 ^ 25
        then s.setTenant t { x with evCtl := v } else s
      | _ => s
  else if o < 0x20040 then
    let req := ofRecBytes (overlay (recBytes s.package.mailReq) (o - 0x20000) (toBytes size v.toNat))
    s.withPackage fun p => { p with mailReq := req }
  else s

end Sys2Proof.Machine
end

