-- ==== Sys2Proof/Machine/Transc.lean ====
section
/-!
DEFINITION. Transc.lean: correctly rounded exponentials, logarithms and circular functions (12 R283, 13 R304, R311):
each is enclosed between two multiples of a power of two, finely enough that both round alike. Where the finest
enclosure tried leaves the rounding open, the value is Config.undecided (log 11).
-/
namespace Sys2Proof.Machine

/-- A real number known exactly, or strictly between lo × 2^q and hi × 2^q in magnitude. -/
inductive Enclosure where
  | exact (e : Exact)
  | between (neg : Bool) (lo hi : Nat) (q : Int)
  deriving DecidableEq, Repr

/-- The one rounding of an enclosed value, where both ends agree. -/
def Enclosure.round (f : FFmt) (rm : Rm) : Enclosure → Option (Nat × Nat)
  | .exact e => some (e.round f rm)
  | .between neg lo hi q =>
    let a := (Exact.val neg lo q true).round f rm
    let b := (Exact.val neg (hi - 1) q true).round f rm
    if 0 < lo && (a == b || hi ≤ lo + 1) then some a else none

/-- The rounding at the first of these precisions that decides it. -/
def roundReal (f : FFmt) (rm : Rm) (approx : Nat → Enclosure) : List Nat → Option (Nat × Nat)
  | [] => none
  | p :: ps => match (approx p).round f rm with | some r => some r | none => roundReal f rm approx ps

/-- A number for a rounding mode, for Config.undecided. -/
def Rm.code : Rm → Nat
  | .ne => 0 | .zero => 1 | .up => 2 | .down => 3 | .dither d => 4 + d

/-- The correctly rounded value, or the free one. -/
def correctly (fn x : Nat) (f : FFmt) (rm : Rm) (approx : Nat → Enclosure) : Nat × Nat :=
  (roundReal f rm approx [96, 200, 400]).getD (Config.undecided fn x rm.code % 2 ^ f.width, Flag.nx)

/-! ## Series in units of 2^−p, from below; each term loses less than one unit -/

/-- Σ q^−(2k+1)/(2k+1) for k below n. -/
def atanhInv (p q : Nat) : Nat → Nat
  | 0 => 0
  | n + 1 => atanhInv p q n + 2 ^ p / ((2 * n + 1) * q ^ (2 * n + 1))
/-- The positive and the negative terms of the arc tangent of 1/q. -/
def atanInv (p q : Nat) : Nat → Int
  | 0 => 0
  | n + 1 =>
    let t : Int := (2 ^ p / ((2 * n + 1) * q ^ (2 * n + 1)) : Nat)
    atanInv p q n + if n % 2 = 0 then t else -t
/-- Terms enough for p bits. -/
def terms (p : Nat) : Nat := p / 2 + 8
/-- ln 2 from below; above it by less than terms p × 2 + 4 units. -/
def ln2Lo (p : Nat) : Nat := 2 * atanhInv p 3 (terms p)
/-- ln 2 from above. -/
def ln2Hi (p : Nat) : Nat := ln2Lo p + 2 * terms p + 4
/-- π within 32 × terms p units. -/
def piMid (p : Nat) : Int := 16 * atanInv p 5 (terms p) - 4 * atanInv p 239 (terms p)
/-- π from below. -/
def piLo (p : Nat) : Nat := (piMid p - 32 * terms p).toNat
/-- π from above. -/
def piHi (p : Nat) : Nat := (piMid p + 32 * terms p).toNat

/-- Σ t^k/k! from term k on: n terms, the current term given. -/
def expSum (p t : Nat) (term : Nat) (k : Nat) : Nat → Nat
  | 0 => 0
  | n + 1 => term + expSum p t (term * t / 2 ^ p / (k + 1)) (k + 1) n
/-- e^t for 0 ≤ t < 1, within terms p units from below. -/
def expLo (p t : Nat) : Nat := expSum p t (2 ^ p) 0 (terms p)
/-- e^t for 0 ≤ t < 1, from above. -/
def expHi (p t : Nat) : Nat := expSum p t (2 ^ p) 0 (terms p) + 3 * terms p + 3

/-- Alternating Σ ± of t^(2j)/(2j + c)!, the current term given, whose factorial index is k. -/
def altSum (p t : Nat) (term k : Nat) (pos : Bool) : Nat → Int
  | 0 => 0
  | n + 1 =>
    (if pos then (term : Int) else -(term : Int)) +
      altSum p t (term * t / 2 ^ p * t / 2 ^ p / ((k + 1) * (k + 2))) (k + 2) (!pos) n
/-- sin t for 0 ≤ t < 1, within 3 × terms p units. -/
def sinMid (p t : Nat) : Int := altSum p t t 1 true (terms p)
/-- cos t for 0 ≤ t < 1, within 3 × terms p units. -/
def cosMid (p t : Nat) : Int := altSum p t (2 ^ p) 0 true (terms p)

/-- Σ z^(2j+1)/(2j+1), the current power given. -/
def atanhSum (p z : Nat) (pow j : Nat) : Nat → Nat
  | 0 => 0
  | n + 1 => pow / (2 * j + 1) + atanhSum p z (pow * z / 2 ^ p * z / 2 ^ p) (j + 1) n

/-! ## The functions -/

/-- 2^(num / 2^k): exact at whole numbers. -/
def exp2At (num : Int) (k p : Nat) : Enclosure :=
  let n := num / (2 ^ k : Nat)
  let f := (num % (2 ^ k : Nat)).toNat
  if f = 0 then .exact (.val false 1 n false)
  else
    let lo := expLo p (ln2Lo p * f / 2 ^ k)
    let hi := expHi p (ln2Hi p * f / 2 ^ k + 1)
    .between false lo hi (n - p)

/-- An enclosure times ± m × 2^e. -/
def Enclosure.times (x : Enclosure) (neg : Bool) (m : Nat) (e : Int) : Enclosure :=
  if m = 0 then .exact (.val neg 0 0 false)
  else
    match x with
    | .exact (.val n m2 e2 st) => .exact (.val (n != neg) (m2 * m) (e2 + e) st)
    | .exact y => .exact y
    | .between n lo hi q => .between (n != neg) (lo * m) (hi * m) (q + e)

/-- sin (2π r/2^k) for 0 < r/2^k ≤ 1/8. -/
def sinSmall (r k p0 : Nat) : Enclosure :=
  let p := p0 + (k - Nat.log2 r)
  let lo := sinMid p (2 * piLo p * r / 2 ^ k) - 3 * terms p
  let hi := sinMid p (2 * piHi p * r / 2 ^ k + 1) + 3 * terms p + 3
  .between false lo.toNat hi.toNat (-(p : Int))
/-- cos (2π r/2^k) for 0 < r/2^k ≤ 1/8. -/
def cosSmall (r k p0 : Nat) : Enclosure :=
  let p := p0 + 2 * (k - Nat.log2 r)
  let lo := cosMid p (2 * piHi p * r / 2 ^ k + 1) - 3 * terms p
  let hi := cosMid p (2 * piLo p * r / 2 ^ k) + 3 * terms p
  .between false lo.toNat (min hi.toNat (2 ^ p)) (-(p : Int))
/-- sin (2π r/2^k), or the cosine, for 0 ≤ r/2^k < 1/4. -/
def quarter (cosine : Bool) (r k p : Nat) : Enclosure :=
  if r = 0 then .exact (.val false (if cosine then 1 else 0) 0 false)
  else if 8 * r ≤ 2 ^ k then (if cosine then cosSmall r k p else sinSmall r k p)
  else
    let r2 := 2 ^ k - 4 * r
    if cosine then sinSmall r2 (k + 2) p else cosSmall r2 (k + 2) p
/-- sin or cos of num/2^k turns (0 ≤ num): a zero is +0. -/
def turnAt (cosine : Bool) (num k p : Nat) : Enclosure :=
  let x := num % 2 ^ k
  let q := 4 * x / 2 ^ k
  let r4 := 4 * x % 2 ^ k
  let odd := q % 2 == 1
  let neg := if cosine then q == 1 || q == 2 else q == 2 || q == 3
  match quarter (cosine != odd) r4 (k + 2) p with
  | .exact (.val _ m e st) => .exact (.val (neg && m != 0) m e st)
  | .between _ lo hi z => .between neg lo hi z
  | y => y

/-- log2 of m × 2^e. -/
def log2At (m : Nat) (e : Int) (p : Nat) : Enclosure :=
  let k := Nat.log2 m
  let n : Int := k + e
  let d := m - 2 ^ k
  if d = 0 then .exact (.val (decide (n < 0)) n.natAbs 0 false)
  else
    let z := d * 2 ^ p / (m + 2 ^ k)
    let a := 2 * atanhSum p z z 0 (terms p)
    let b := 2 * (atanhSum p (z + 1) (z + 1) 0 (terms p) + 4 * terms p)
    let lo := a * 2 ^ p / ln2Hi p
    let hi := b * 2 ^ p / ln2Lo p + 1
    let lo2 := n * (2 ^ p : Nat) + lo
    let hi2 := n * (2 ^ p : Nat) + hi
    if n < 0 then .between true (-hi2).toNat (-lo2).toNat (-(p : Int))
    else .between false lo2.toNat hi2.toNat (-(p : Int))

/-- Repeated squaring, from below. -/
def squareLo (p x : Nat) : Nat → Nat
  | 0 => x
  | n + 1 => squareLo p (x * x / 2 ^ p) n
/-- Repeated squaring, from above. -/
def squareHi (p x : Nat) : Nat → Nat
  | 0 => x
  | n + 1 => squareHi p (x * x / 2 ^ p + 1) n

/-- tanh of m × 2^e, m > 0. -/
def tanhAt (m : Nat) (e : Int) (p : Nat) : Enclosure :=
  let lead := leadExp m e
  if lead < -12 then
    let s := (3 * (-e)).toNat + 4
    let x := m * 2 ^ (s + e).toNat
    let c := m * m * m * 2 ^ (s + 3 * e).toNat / 3 + 1
    .between false (x - c) x (-(s : Int))
  else if 5 < lead then .between false (2 ^ p - 1) (2 ^ p) (-(p : Int))
  else
    let t := if e + p - 6 < 0 then m / 2 ^ (-(e + p - 6)).toNat else m * 2 ^ (e + p - 6).toNat
    let lo := squareLo p (expLo p t) 7
    let hi := squareHi p (expHi p (t + 1)) 7
    .between false ((lo - 2 ^ p) * 2 ^ p / (lo + 2 ^ p)) ((hi - 2 ^ p) * 2 ^ p / (hi + 2 ^ p) + 1) (-(p : Int))

/-- 1/√(m × 2^e), m > 0, exactly with a sticky rest. -/
def rsqrtExact (m : Nat) (e : Int) : Exact :=
  let (m, e) := if e % 2 = 0 then (m, e) else (2 * m, e - 1)
  let k := Nat.log2 m + 100
  let v := 2 ^ (2 * k) / m
  let r := isqrt v
  .val false r (-(e / 2) - k) (r * r * m != 2 ^ (2 * k))

/-! ## VFUN (12 R283) -/

/-- A unary function of an accumulator lane: format, mode, pattern to pattern and flags. -/
abbrev FunFn := BitVec 3 → Rm → Nat → Nat × Nat

/-- The canonical NaN; a signalling input is invalid. -/
def nanOf (f : FFmt) (bad : Bool) : Nat × Nat := (f.nan, if bad then Flag.nv else 0)

/-- m × 2^e as num/2^k, signed. -/
def fraction (n : Bool) (m : Nat) (e : Int) : Int × Nat :=
  let v : Int := (m * 2 ^ e.toNat : Nat)
  (if n then -v else v, (-e).toNat)

/-- EXP2 -/
def funExp2 : FunFn := fun fmt rm x =>
  let f := laneF fmt
  match f.decode x with
  | .nan s => nanOf f s
  | .inf n => (if n then 0 else f.infinity false, 0)
  | .fin n m e =>
    if m != 0 && 12 < leadExp m e then (Exact.val false 1 (if n then -4096 else 4096) true).round f rm
    else
      let q := fraction n m e
      correctly 0 x f rm (exp2At q.1 q.2)
/-- LOG2 -/
def funLog2 : FunFn := fun fmt rm x =>
  let f := laneF fmt
  match f.decode x with
  | .nan s => nanOf f s
  | .inf n => if n then nanOf f true else (f.infinity false, 0)
  | .fin n m e =>
    if m = 0 then (f.infinity true, Flag.dz)
    else if n then nanOf f true
    else correctly 1 x f rm (log2At m e)
/-- SINT or COST. -/
def funTurn (cosine : Bool) : FunFn := fun fmt rm x =>
  let f := laneF fmt
  match f.decode x with
  | .nan s => nanOf f s
  | .inf _ => nanOf f true
  | .fin n m e =>
    let q := fraction false m e
    let neg := n && !cosine
    let flip := fun (y : Enclosure) =>
      match y with
      | .exact (.val s mm ee st) => Enclosure.exact (.val (if mm = 0 then neg else s != neg) mm ee st)
      | .between s lo hi z => .between (s != neg) lo hi z
      | y => y
    correctly (if cosine then 3 else 2) x f rm fun p => flip (turnAt cosine q.1.toNat q.2 p)
/-- TANH -/
def funTanh : FunFn := fun fmt rm x =>
  let f := laneF fmt
  match f.decode x with
  | .nan s => nanOf f s
  | .inf n => (Exact.val n 1 0 false).round f rm
  | .fin n m e =>
    if m = 0 then (x, 0)
    else
      correctly 4 x f rm fun p =>
        match tanhAt m e p with
        | .between _ lo hi z => .between n lo hi z
        | y => y
/-- RECIP -/
def funRecip : FunFn := fun fmt rm x =>
  let f := laneF fmt
  let (e, fl) := (Num.fin false 1 0).div (f.decode x)
  let (v, fl2) := e.round f rm
  (v, fl ||| fl2)
/-- RSQRT -/
def funRsqrt : FunFn := fun fmt rm x =>
  let f := laneF fmt
  match f.decode x with
  | .nan s => nanOf f s
  | .inf n => if n then nanOf f true else (0, 0)
  | .fin n m e =>
    if m = 0 then (f.infinity n, Flag.dz)
    else if n then nanOf f true
    else (rsqrtExact m e).round f rm

end Sys2Proof.Machine
end

