-- ==== Sys2Proof/Machine/Pattern.lean ====
section
/-!
DEFINITION. Pattern.lean: pattern descriptors and the values of pattern windows (07 R178; 13 R311, R312).
-/
namespace Sys2Proof.Machine

/-- Bits [lo + n − 1 : lo] of a descriptor. -/
def patBits (d : BitVec 256) (lo n : Nat) : Nat := d.toNat / 2 ^ lo % 2 ^ n
/-- KIND -/
def patKind (d : BitVec 256) : Nat := patBits d 252 4
/-- EFMT -/
def patFmt (d : BitVec 256) : BitVec 3 := d.extractLsb' 248 3
/-- The element size in bytes. -/
def patSize (d : BitVec 256) : Nat := laneBytes (patFmt d)
/-- The row length W. -/
def patWidth (d : BitVec 256) : Nat := patBits d 224 24 + 1
/-- The value field at [223:160], EFMT bits in the low bits. -/
def patVal (d : BitVec 256) : Nat := patBits d 160 64 % 2 ^ laneBits (patFmt d)

/-- The base of a strand's own scratchpad window (07 R162). -/
def scratchBase : Nat := 0x01F0000000000000
/-- The bytes of a scratchpad. -/
def scratchSize : Nat := 0x80000

/-- A descriptor that SET refuses (13 R312). -/
def patInvalid (d : BitVec 256) : Bool :=
  let k := patKind d
  let fmt := patFmt d
  let w := laneBits fmt
  let flt := isFloat fmt
  let special := fun (x : Nat) => match (laneF fmt).decode x with | .fin _ _ _ => false | _ => true
  let high := fun (lo : Nat) => patBits d (lo + w) (64 - w) != 0
  patBits d 251 1 != 0 ||
    match k with
    | 0 => patBits d 0 224 != 0
    | 1 => high 160 || high 96 || patBits d 0 96 != 0 || (flt && (special (patVal d) || special (patBits d 96 64 % 2 ^ w)))
    | 2 => high 128 || patBits d 0 126 != 0 || patBits d 126 2 == 3 || (patBits d 126 2 == 0 && !flt)
    | 3 =>
      let freq := patBits d 128 64
      patBits d 0 128 != 0 || !(fmt == 5 || fmt == 6) || patWidth d % 2 != 0 ||
        128 < patWidth d || freq % 4 != 0 || freq < scratchBase || scratchBase + scratchSize < freq + 256
    | 4 => patBits d 0 62 != 0 || 2 ≤ patBits d 62 2 || (patBits d 62 2 == 1 && fmt != 5)
    | 5 => high 160 || patBits d 0 160 != 0
    | 6 => patBits d 0 224 != 0
    | _ => true

/-- The most negative finite value of a format, or the least integer. -/
def patLowest (fmt : BitVec 3) : Nat :=
  if isFloat fmt then (laneF fmt).signed true (laneF fmt).maxMag else ofInt (laneBits fmt) (intMin (laneBits fmt))

/-- Element e of a descriptor (13 R311); freq reads entry i of the frequency table. -/
def patElement (d : BitVec 256) (freq : Nat → Nat) (e : Nat) : Nat :=
  let fmt := patFmt d
  let w := laneBits fmt
  let row := e / patWidth d
  let col := e % patWidth d
  match patKind d with
  | 1 =>
    let base := patVal d
    let stp := patBits d 96 64 % 2 ^ w
    if isFloat fmt then
      let x : Num := match fval fmt stp with
        | .fin n m q => .fin n (m * e) q
        | y => y
      ((fval fmt base).add false x).round (laneF fmt) .ne |>.1
    else (base + stp * e) % 2 ^ w
  | 2 =>
    if (col : Int) ≤ (row : Int) + toSigned 32 (patBits d 192 32) then patBits d 128 64 % 2 ^ w
    else
      match patBits d 126 2 with
      | 0 => (laneF fmt).infinity true
      | 1 => 0
      | _ => patLowest fmt
  | 3 =>
    let phi := (patBits d 192 32 + row) * freq (col / 2) % 2 ^ 32
    (correctly 8 phi (laneF fmt) .ne fun p => turnAt (col % 2 == 0) phi 32 p).1
  | 4 =>
    let size := patSize d
    let n := (patBits d 96 64 + e * size / 16) % 2 ^ 64
    let word := fun j => philox (n % 2 ^ 32) (n / 2 ^ 32) (patBits d 64 32) 0 (patBits d 160 64) j
    let at_ := e * size % 16
    if patBits d 62 2 = 1 then unif (word (at_ / 4))
    else ofBytes (((((List.range 4).flatMap fun j => toBytes 4 (word j)).drop at_).take size))
  | 5 => patVal d
  | _ => 0

/-- The n bytes at offset b of a pattern window; n and b are multiples of the element size. -/
def patBytes (d : BitVec 256) (freq : Nat → Nat) (b n : Nat) : List Byte :=
  let size := patSize d
  (List.range (n / size)).flatMap fun i => toBytes size (patElement d freq (b / size + i))

end Sys2Proof.Machine
end

