-- ==== Sys2Proof/Machine/Access.lean ====
section
/-!
DEFINITION. Access.lean: how an access of a strand reaches memory: the core-local windows (07 R162), the PLB and its
rights (07 R165–R167), translation (07 R169–R172), loads and stores on the core path (08 R183, R187, R191), fixed
mode (08 R197–R200) and instruction fetch (10 R223).
-/
namespace Sys2Proof.Machine

/-- The kinds of access, in the order of 07 R175. -/
inductive Acc where
  | read
  | write
  | fetch
  | ticket
  | law
  | ship
  deriving DecidableEq, Repr

/-- The code of an access (07 R175). -/
def Acc.code : Acc → Nat
  | .read => 0 | .write => 1 | .fetch => 2 | .ticket => 3 | .law => 4 | .ship => 5
/-- The RIGHTS bit an access needs (07 R165, R167). -/
def Acc.allowed (a : Acc) (rights : Nat) : Bool := rights / 2 ^ (5 - a.code) % 2 == 1

/-! ## The PLB (07 R165, R166) -/

/-- The bits of a page offset by size code. -/
def pageShift (sz : Nat) : Nat :=
  match sz with
  | 0 => 16 | 1 => 21 | _ => 30
/-- The VPN field of an entry, as an address. -/
def plbBase (e : BitVec 128) : Nat := e.toNat / 2 ^ 16 % 2 ^ 41 * 2 ^ 16
/-- SZ -/
def plbSize (e : BitVec 128) : Nat := e.toNat / 2 ^ 125 % 4
/-- V -/
def plbValid (e : BitVec 128) : Bool := e.getLsbD 127
/-- RIGHTS -/
def plbRights (e : BitVec 128) : Nat := e.toNat / 2 ^ 103 % 64
/-- DOM and GEN as a domain word -/
def plbDomain (e : BitVec 128) : BitVec 16 := e.extractLsb' 109 16
/-- The entry covers an address. -/
def plbCovers (e : BitVec 128) (va : Nat) : Bool :=
  va / 2 ^ pageShift (plbSize e) == plbBase e / 2 ^ pageShift (plbSize e)
/-- The entry that matches an access (07 R166). -/
def plbFind (x : Core) (d : BitVec 16) (va : Nat) : Option (Nat × BitVec 128) :=
  x.plb.find? fun e => plbValid e.2 && plbCovers e.2 va && plbDomain e.2 == d
/-- The entry becomes the most recently used. -/
def plbUsed (c : CoreId) (i : Nat) (s : State) : State :=
  let x := s.core c
  s.setCore c { x with plbUse := i :: x.plbUse.filter fun j => j != i }
/-- An entry for a page: size code, base, domain, rights. -/
def plbEntry (sz base : Nat) (d : BitVec 16) (rights : Nat) : BitVec 128 :=
  BitVec.ofNat 128 (2 ^ 127 + sz * 2 ^ 125 + d.toNat * 2 ^ 109 + rights * 2 ^ 103 + base / 2 ^ 16 * 2 ^ 16)
/-- An entry loaded: into an invalid entry, the lowest, or over the least recently used. -/
def plbLoad (c : CoreId) (e : BitVec 128) (s : State) : State :=
  let x := s.core c
  let i := ((List.range 64).find? fun i => !plbValid (Table.get 0 x.plb i)).getD
    (((x.plbUse.filter fun j => j < 64).getLast?).getD 0)
  plbUsed c i (s.setCore c { x with plb := Table.set 0 x.plb i e })

/-! ## Translation (07 R169–R171) -/

/-- The end of a walk. -/
inductive Walk where
  | leaf (pte : W64) (level : Nat)
  | unmapped
  | invalid
  /-- a table entry lies in no region -/
  | region
  /-- the region of a table entry, at this physical address, is held (07 R179) -/
  | hold (pa : Nat)
  /-- the line of a table entry, at this key, waits for self-refresh to end (02 R75) -/
  | refresh (key : Nat)
  deriving DecidableEq, Repr

/-- The index shift of a level. -/
def levelShift (level : Nat) : Nat :=
  match level with
  | 0 => 16 | 1 => 21 | 2 => 30 | _ => 39
/-- The entries of a table of a level. -/
def levelCount (level : Nat) : Nat :=
  match level with
  | 0 => 32 | 1 => 512 | 2 => 512 | _ => 262144

/-- STATE of a page-table entry (07 R170). -/
def pteState (e : W64) : Nat := e.toNat / 2 ^ 60
/-- DOM -/
def pteDom (e : W64) : Nat := e.toNat / 2 ^ 48 % 4096
/-- TARGET -/
def pteTarget (e : W64) : Nat := e.toNat % 2 ^ 40
/-- The rights an entry gives a domain (07 R170). -/
def pteRights (d : BitVec 16) (e : W64) : Nat :=
  if privileged d then 63 else if pteDom e == 4095 || pteDom e == domId d then e.toNat / 2 ^ 42 % 64 else 0

/-- Some region of a page outside CLASS X (07 R171). -/
def outsideExpander (s : State) (target level : Nat) : Bool :=
  (List.range (max 1 (2 ^ levelShift level / 2 ^ 21))).any fun i => rgClass (paEntry s (target * 65536 + i * 2 ^ 21)) != 2
/-- A leaf breaks a rule of 07 R171. -/
def leafBad (s : State) (e : W64) (level : Nat) : Bool :=
  let t := pteTarget e
  let align := 2 ^ (levelShift level - 16)
  level == 3 ||
    match pteState e with
    | 2 => t % align != 0
    | 5 => t % align != 0 || outsideExpander s t level
    | 3 => t / 2 ^ 24 % 2 ^ 9 != 0 || t % 2 ^ 24 % align != 0 || t / 2 ^ 33 == s.package.pkg.toNat % 128
    | 4 => t % align != 0
    | _ => false

/-- An entry of a table, read through the walk cache, or the region table and the home cache (07 R169, R179; 02 R53, R54):
the entry, and its physical address where the home cache is asked; or what the access meets there. A poisoned entry cannot be
used: DESIGN CHOICE (log 38), the walk ends as at an invalid entry. -/
def pteAt (s : State) (panel va level table : Nat) : Except Walk (W64 × Option Nat) :=
  match (s.panel panel).walkCache.find? fun e => e.1 == level && e.2.1 == va / 2 ^ levelShift level with
  | some e => .ok (e.2.2, none)
  | none =>
    let pa := table + 8 * (va / 2 ^ levelShift level % levelCount level)
    let g := paEntry s pa
    let key := regionKey g pa
    if !regionOk s g then .error .region
    else if rgState g = 1 ∨ rgState g = 3 then .error (.hold pa)
    else if rgState g = 2 then .error .unmapped
    else if mustWait s key then .error (.refresh key)
    else if sectorBad s (.dev key) then .error .invalid
    else .ok (BitVec.ofNat 64 (s.dmem.nat key 8), some pa)

/-- A walk from a level and its table: the end, the non-leaf entries it passed (level, index, entry), and the physical
addresses it read. -/
def walkFrom (s : State) (panel va : Nat) : Nat → Nat → Walk × List (Nat × Nat × W64) × List Nat
  | level, table =>
    match pteAt s panel va level table with
    | .error w => (w, [], [])
    | .ok (e, pa) =>
      if e.toNat / 2 ^ 40 % 4 != 0 || 7 ≤ pteState e then (.invalid, [], pa.toList)
      else if pteState e = 0 then (.unmapped, [], pa.toList)
      else if pteState e = 1 then
        match level with
        | 0 => (.invalid, [], pa.toList)
        | n + 1 =>
          let (w, l, pas) := walkFrom s panel va n (pteTarget e * 256)
          (w, (n + 1, va / 2 ^ levelShift (n + 1), e) :: l, pa.toList ++ pas)
      else if leafBad s e level then (.invalid, [], pa.toList)
      else (.leaf e level, [], pa.toList)

/-- The reads of a walk are home-cache requests of their panel (02 R57, 07 R169); one that waits for self-refresh to end is
queued. -/
def walkReads (panel : Nat) (w : Walk) (pas : List Nat) (s : State) : State :=
  let s := pas.foldl (fun s pa =>
    let key := regionKey (paEntry s pa) pa
    homeTouch key false (countRegion panel (pa / 2 ^ 21) (keyStack key) s)) s
  match w with
  | .refresh key => queueRead key none s
  | _ => s

/-- The translation of an address at a panel's slice: a TLB hit, or a walk that fills the TLB and the walk cache. -/
def translate (panel va : Nat) (s : State) : Walk × State :=
  match (s.panel panel).tlb.find? fun e => va / 2 ^ levelShift e.2.1 == e.1 / 2 ^ levelShift e.2.1 with
  | some e => (.leaf e.2.2 e.2.1, s)
  | none =>
    let (w, l, pas) := walkFrom s panel va 3 s.package.ptroot.toNat
    let s := walkReads panel w pas s
    let p := s.panel panel
    let fresh := l.filter fun e => !p.walkCache.any fun f => f.1 == e.1 && f.2.1 == e.2.1
    let p := { p with walkCache := fresh ++ p.walkCache }
    match w with
    | .leaf e level =>
      (w, s.setPanel panel { p with tlb := ((va / 2 ^ levelShift level * 2 ^ levelShift level, level, e) :: p.tlb).take 4096 })
    | _ => (w, s.setPanel panel p)

/-! ## Where an access goes (07 R172) -/

/-- Why an access of a page does not go on. -/
inductive PageFault where
  /-- a cause of 07 R164; the access code of an ACCESS_FAULT event, where one is posted -/
  | cause (c : Nat) (event : Option Nat)
  /-- the pager; STATE found -/
  | pager (found : Nat)
  /-- held at the translation slice, for this region (02 R54), or for a table line that waits for DRAM (R75) -/
  | hold (region : Option Nat)
  deriving DecidableEq, Repr

/-- A physical address of this package: its region decides (02 R53, R54); an expander's granules lie in an enabled
XPWIN (01 R37, R38). -/
def regionPlace (s : State) (acc : Acc) (pa : Nat) : Except PageFault Place :=
  let e := paEntry s pa
  if !regionOk s e then .error (.cause Cause.regionInvalid (some acc.code))
  else if rgState e = 1 ∨ rgState e = 3 then .error (.hold (some (pa / 2 ^ 21)))
  else if rgState e = 2 then .error (.pager 0)
  else if rgClass e == 2 && !windowCovers s 16 (rgMedia e * 2 ^ 21 + pa % 2 ^ 21) then
    .error (.cause Cause.accessRights (some 8))
  else .ok (.dev (regionKey e pa))

/-- The outcome of an access under a leaf (07 R172); a package without a link that is up reaches no other (01 R38). -/
def leafPlace (s : State) (acc : Acc) (e : W64) (level va : Nat) : Except PageFault Place :=
  let off := va % 2 ^ levelShift level
  let t := pteTarget e
  match pteState e with
  | 2 => regionPlace s acc (t * 65536 + off)
  | 5 => regionPlace s acc (t * 65536 + off)
  | 3 =>
    if s.package.reachable.contains (t / 2 ^ 33) && (upLink s).isSome then .ok (.remote (t / 2 ^ 33) (t % 2 ^ 24 * 65536 + off))
    else .error (.cause Cause.remoteUnreachable none)
  | 4 =>
    match acc with
    | .ticket => .error (.cause Cause.pathUnsupported none)
    | .law => .error (.cause Cause.pathUnsupported none)
    | .ship => .error (.cause Cause.pathUnsupported none)
    | _ =>
      if windowCovers s 0 (t * 65536 + off) then .ok (.host (t * 65536 + off))
      else .error (.cause Cause.accessRights (some 8))
  | _ =>
    match acc with
    | .write => .error (.pager 6)
    | .law => .error (.pager 6)
    | .ship => .error (.pager 6)
    | _ => .ok .zero

/-- The region of an address under the translation that the panel's slice holds for it. -/
def pageRegion (s : State) (panel va : Nat) : Option Nat :=
  match (s.panel panel).tlb.find? fun e => va / 2 ^ levelShift e.2.1 == e.1 / 2 ^ levelShift e.2.1 with
  | none => none
  | some e =>
    if pteState e.2.2 = 2 || pteState e.2.2 = 5 then
      some ((pteTarget e.2.2 * 65536 + va % 2 ^ levelShift e.2.1) / 2 ^ 21)
    else none
/-- A line access that leaves a panel counted: the home-cache request of its region, and its page's counts (02 R57, 07 R174). One of
another package's line leaves as a flit (07 R172). -/
def countLine (panel va : Nat) (p : Place) (s : State) : State :=
  match p with
  | .dev key =>
    let s := match pageRegion s panel va with | some r => countRegion panel r (keyStack key) s | none => s
    countPage panel (va / 65536) 0 s
  | .remote m _ => outgoing 0 (memberPkg s m) (countPage panel (va / 65536) 1 s)
  | .host _ => countPage panel (va / 65536) 2 s
  | _ => s

/-- A page's place at a panel's slice, once rights have been checked (07 R172). -/
def placeAt (panel : Nat) (acc : Acc) (va : Nat) (s : State) : Except PageFault Place × State :=
  let (w, s) := translate panel va s
  match w with
  | .region => (.error (.cause Cause.regionInvalid (some acc.code)), s)
  | .invalid => (.error (.cause Cause.pteInvalid (some acc.code)), s)
  | .unmapped => (.error (.pager 0), s)
  | .hold pa => (.error (.hold (some (pa / 2 ^ 21))), s)
  | .refresh _ => (.error (.hold none), s)
  | .leaf e level => (leafPlace s acc e level va, s)

/-- A page access at a panel's slice for a domain, without a PLB (07 R167): the page's rights, then its state. -/
def pageAt (panel : Nat) (d : BitVec 16) (acc : Acc) (va : Nat) (s : State) : Except PageFault Place × State :=
  let (w, s) := translate panel va s
  match w with
  | .leaf e _ => if !acc.allowed (pteRights d e) then (.error (.cause Cause.accessRights none), s) else placeAt panel acc va s
  | _ => placeAt panel acc va s

/-- A PLB lookup for a core's strand: the rights, loaded on a miss (07 R166). -/
def plbLookup (c : CoreId) (d : BitVec 16) (va : Nat) (s : State) : Except PageFault Nat × State :=
  match plbFind (s.core c) d va with
  | some (i, e) => (.ok (plbRights e), plbUsed c i s)
  | none =>
    let (w, s) := translate c.panel va s
    match w with
    | .region => (.error (.cause Cause.regionInvalid (some 0)), s)
    | .invalid => (.error (.cause Cause.pteInvalid (some 0)), s)
    | .unmapped => (.error (.pager 0), s)
    | .hold pa => (.error (.hold (some (pa / 2 ^ 21))), s)
    | .refresh _ => (.error (.hold none), s)
    | .leaf e level =>
      let r := pteRights d e
      let base := va / 2 ^ levelShift level * 2 ^ levelShift level
      (.ok r, plbLoad c (plbEntry level base d r) s)

/-! ## Held accesses (02 R54, R58) -/

/-- A held access can go on: its strand can issue, or its event is due. -/
def Holder.live (s : State) : Holder → Bool
  | .strand k => (s.strand k).canIssue
  | .event a => s.agenda.any fun t => match t with | .event _ b => b == a | _ => false
/-- An access to a region waits behind those that were held for it earlier and can go on (02 R58 step 4). -/
def heldBehind (s : State) (h : Holder) (r : Nat) : Bool :=
  match s.held.find? fun e => e.2 == r && (e.1 == h || e.1.live s) with
  | some e => e.1 != h
  | none => false
/-- An access is held for a region, if it is not yet. -/
def holdAccess (h : Holder) (r : Nat) (s : State) : State :=
  if s.held.contains (h, r) then s else { s with held := s.held ++ [(h, r)] }
/-- What a party's access meets, with the region of its page: the access of the event in hand is held where the region is, and
keeps the order of those held for it. -/
def inOrder (p : Except PageFault Place) (region : Option Nat) (s : State) : Except PageFault Place × State :=
  match p with
  | .error (.hold (some r)) => (p, holdAccess (.event s.arg) r s)
  | .ok _ =>
    match region with
    | some r =>
      if heldBehind s (.event s.arg) r then (.error (.hold (some r)), holdAccess (.event s.arg) r s)
      else (p, if s.held.isEmpty then s else { s with held := s.held.filter fun e => e != (.event s.arg, r) })
    | none => (p, s)
  | _ => (p, s)
/-- A party's page access: in the order of the accesses held for its region. -/
def pageFor (panel : Nat) (d : BitVec 16) (acc : Acc) (va : Nat) (s : State) : Except PageFault Place × State :=
  let (p, s) := pageAt panel d acc va s
  inOrder p (pageRegion s panel va) s

/-- ACCESS_FAULT for a domain's tenant (03 R93). -/
def postAccessFault (d : BitVec 16) (src : Nat) (addr : W64) (code cause : Nat) (id : BitVec 32) (s : State) : State :=
  postEvent s (tenantOf s d) src 4
    [(24, 8, addr.toNat), (32, 1, code), (33, 1, cause), (36, 4, id.toNat)]

/-- A page fault of a strand as the stop of its instruction, with its event. -/
def strandFault (k : StrandId) (acc : Acc) (va : Nat) (f : PageFault) : Act Unit := do
  let a := BitVec.ofNat 64 va
  match f with
  | .cause c ev =>
    match ev with
    | some code =>
      let code := if code = 8 then 8 else acc.code
      modify fun s => postAccessFault (s.strand k).domain (srcStrand k) a code c (strandSource s k) s
    | none => pure ()
    trapAt c a
  | .pager found => throw (.pager { addr := a, access := acc.code, found := found })
  | .hold region =>
    match region with
    | some r => modify (holdAccess (.strand k) r)
    | none => pure ()
    throw .stall

/-- The 4-byte words of n bytes at an offset of a line are all valid. -/
def wordsValid (l : L1Line) (off n : Nat) : Bool := (List.range n).all fun i => l.valid.getLsbD ((off + i) / 4)

/-- The place of n bytes of a page line for a strand: rights through the PLB; where the L1 has no copy of them, the page's
state. -/
def strandPage (k : StrandId) (acc : Acc) (va n : Nat) : Act Place := do
  let d := ((← get).strand k).domain
  match ← modifyGet (plbLookup k.core d va) with
  | .error f =>
    strandFault k acc va f
    throw .stall
  | .ok rights =>
    if !acc.allowed rights then trapAt Cause.accessRights (BitVec.ofNat 64 va)
    else
      let s ← get
      let hit := if acc == .read || acc == .fetch then
          (s.core k.core).l1.find? (fun l => l.line == va / 128 && wordsValid l (va % 128) n)
        else none
      match hit with
      | some l => pure (placePlus l.home (va % 128))
      | none =>
        match ← modifyGet (placeAt k.core.panel acc va) with
        | .error f =>
          strandFault k acc va f
          throw .stall
        | .ok p =>
          match pageRegion (← get) k.core.panel va with
          | some r =>
            if heldBehind (← get) (.strand k) r then
              strandFault k acc va (.hold (some r))
              throw .stall
            else pure p
          | none => pure p

/-- What an address names for a strand. -/
inductive Target where
  | scratch (core : CoreId) (off : Nat)
  | pattern (w off : Nat)
  | queue (off : Nat)
  | control (r : CtlReg) (off : Nat)
  | page (p : Place)
  deriving DecidableEq, Repr

/-- One access: it does not cross a 128-byte line. -/
structure Piece where
  target : Target
  va : Nat
  n : Nat
  deriving DecidableEq, Repr

/-- The core-local windows (07 R162) for n bytes at va. -/
def localTarget (k : StrandId) (x : Strand) (acc : Acc) (va n : Nat) : Except Nat Target :=
  let b := va % 2 ^ 48
  let rw := acc == .read || acc == .write
  match va / 2 ^ 48 with
  | 0x1F0 =>
    if scratchSize < b + n then .error Cause.addrHole
    else if rw || acc == .law then .ok (.scratch k.core b) else .error Cause.accessRights
  | 0x1F1 =>
    let i := b / 2 ^ 20
    let o := b % 2 ^ 20
    if 195 < i || scratchSize < o + n then .error Cause.addrHole
    else if 192 ≤ i && !supervisory x.domain then
      .error (if privileged x.domain then Cause.accessRights else Cause.scratchPriv)
    else if rw then .ok (.scratch (mkCore k.core.panel i) o) else .error Cause.accessRights
  | 0x1F2 =>
    let w := b / 2 ^ 32
    let o := b % 2 ^ 32
    if 3 < w || 2 ^ 32 < o + n then .error Cause.addrHole
    else if acc == .fetch then .error Cause.accessRights
    else
      let d := x.pat.toList.getD w 0
      if acc == .read || patKind d == 6 && acc == .write then
        if patKind d = 0 then .error Cause.patternEmpty
        else if o % patSize d != 0 || n % patSize d != 0 then .error Cause.patternAlign
        else .ok (.pattern w o)
      else if patKind d == 6 then .error Cause.accessRights
      else .error Cause.patternStore
  | 0x1F3 =>
    if 0x400 < b + n then .error Cause.addrHole
    else if acc == .write then .ok (.queue b) else .error Cause.accessRights
  | 0x1F8 =>
    if 2 ^ 32 < b + n then .error Cause.addrHole
    else if !privileged x.domain || !rw then .error Cause.accessRights
    else if n != 8 then .error Cause.addrHole
    else
      match ctlReg b with
      | some r => .ok (.control r b)
      | none => .error Cause.addrHole
  | _ => .error Cause.addrHole

/-- The target of n bytes at va that cross no line; last is the last page line resolved, with the place of its first byte. -/
def resolveOne (k : StrandId) (acc : Acc) (last : Option (Nat × Place)) (va n : Nat) : Act (Target × Option (Nat × Place)) := do
  if 2 ^ 57 ≤ va then trapAt Cause.addrNoncanon (BitVec.ofNat 64 va)
  else if va / 2 ^ 52 = 0x1F then
    match localTarget k ((← get).strand k).seen acc va n with
    | .ok t => pure (t, last)
    | .error c => trapAt c (BitVec.ofNat 64 va)
  else
    let line := va / 128 * 128
    match last with
    | some (l, p) => if l = line then pure (.page (placePlus p (va - line)), last) else fresh line
    | none => fresh line
where
  /-- A line not resolved yet. -/
  fresh (line : Nat) : Act (Target × Option (Nat × Place)) := do
    let p ← strandPage k acc va n
    pure (.page p, some (line, lineStart p))

/-- A run of bytes cut at 128-byte lines; n bounds the pieces. -/
def cutLines : Nat → Nat → Nat → List (Nat × Nat)
  | 0, _, _ => []
  | f + 1, va, n =>
    let c := min n (128 - va % 128)
    if n = 0 then [] else (va, c) :: cutLines f (va + c) (n - c)

/-- Requests resolved in order; every one is checked before any byte moves (10 R236). -/
def resolveFrom (k : StrandId) (acc : Acc) : Option (Nat × Place) → List (Nat × Nat) → Act (List Piece)
  | _, [] => pure []
  | last, (va, n) :: rs => do
    let (t, last) ← resolveOne k acc last va n
    let rest ← resolveFrom k acc last rs
    pure ({ target := t, va := va, n := n } :: rest)

/-- Requests (address, length) resolved; a core-local run stays whole, a page run is cut at lines. -/
def resolve (k : StrandId) (acc : Acc) (reqs : List (Nat × Nat)) : Act (List Piece) :=
  resolveFrom k acc none (reqs.flatMap fun r =>
    if r.1 / 2 ^ 52 = 0x1F then [r] else cutLines (r.2 / 128 + 2) r.1 r.2)

/-! ## Scratchpad (07 R162, 08 R191) -/

/-- A range of the scoreboard overlaps bytes of a core's scratchpad. -/
def overlaps (x : Core) (off n : Nat) : Bool := x.ranges.any fun r => r.off < off + n && off < r.off + r.len
/-- A sector among n bytes at off is poisoned. -/
def scratchBad (x : Core) (off n : Nat) : Bool := x.scratchPoison.any fun q => q * 32 < off + n && off < q * 32 + 32
/-- Bytes (offset, value) written to a scratchpad: a sector written whole loses its poison (02 R67). -/
def scratchStore (c : CoreId) (bs : List (Nat × Byte)) (s : State) : State :=
  let x := s.core c
  let whole := wholeSectors (bs.map Prod.fst)
  s.setCore c { x with
    scratch := bs.foldl (fun m b => m.setByte b.1 b.2) x.scratch
    scratchPoison := if x.scratchPoison.isEmpty then [] else x.scratchPoison.filter fun q => !whole.contains q }
/-- Sectors of a scratchpad poisoned, named by offsets in them. -/
def scratchSpoil (c : CoreId) (offs : List Nat) (s : State) : State :=
  let x := s.core c
  if offs.isEmpty then s
  else s.setCore c { x with scratchPoison := (offs.map fun o => o / 32).dedup ++ x.scratchPoison.filter fun q => !(offs.any fun o => o / 32 == q) }
/-- A strand in fixed mode whose horizon area these bytes touch (08 R196). -/
def hitsHorizon (s : State) (c : CoreId) (off n : Nat) : Bool :=
  (coreStrands c).any fun j =>
    let x := s.strand j
    x.live && x.isFixed && x.horizonAt < off + n && off < x.horizonAt + 64
/-- A zone of a core, armed, that holds these bytes whole (20 R379). -/
def armedZone (x : Core) (off n : Nat) : Bool := x.ranges.any fun r => r.zone && r.armed && r.off ≤ off && off + n ≤ r.off + r.len

/-! ## Loads -/

/-- The value a strand's own latest store in flight gives a byte (08 R187). -/
def ownStore (s : State) (k : StrandId) (p : Place) : Option Byte :=
  s.stores.foldl (fun acc r =>
    if r.strand == k && r.path == 0 then
      (r.bytes.foldl (fun a b => if b.1 == p then some b.2 else a) acc)
    else acc) none

/-- The stamp of a sector as XAUX gives it: zero where there is none (11 R258). -/
def auxSector (w : W64) : Nat :=
  if secStamped w then (secGen w).toNat * 2 ^ 46 + secObj w * 2 ^ 42 + 2 ^ 41 else 0
/-- XAUX of a conflict with buffered words of a strand of the own core, in a sector with this metadata (08 R199, 11 R258). -/
def auxBuffered (c : CoreId) (strand : Nat) (w : W64) : W64 :=
  BitVec.ofNat 64 (auxSector w + 2 ^ 40 + (c.panel * 256 + c.index) * 2 ^ 16 + strand * 2 ^ 12)
/-- XAUX of a conflict with a stamp. -/
def auxStamp (w : W64) : W64 :=
  let a := secOwner w false
  BitVec.ofNat 64 (auxSector w + if a.2 != 0 then 2 ^ 40 + a.1 * 2 ^ 16 + 15 * 2 ^ 12 else 0)
/-- FIXED_CONFLICT at a sector. -/
def conflict {α : Type} (va : Nat) (aux : W64) : Act α :=
  throw (.trap { cause := BitVec.ofNat 8 Cause.fixedConflict, addr := BitVec.ofNat 64 (va / 32 * 32), aux := aux })

/-- The sector's L1 record as the strand's own publish (08 R199). -/
def ownPublish (x : Core) (strand key : Nat) : Bool := x.published.contains (strand, key / 32)
/-- The stamp of a sector is within a horizon, or there is none. -/
def stampOk (h : Horizon) (w : W64) : Bool := !secStamped w || within (h.getD (secObj w) 0) (secGen w)

/-- The fixed-mode checks of a sector (08 R199): another strand's buffered words; a stamp beyond the horizon. -/
def checkSector (k : StrandId) (va key : Nat) (reading : Bool) : Act Unit := do
  let s ← get
  let x := s.core k.core
  match x.buffered.find? fun b => b.key / 32 == key / 32 && b.strand != k.num with
  | some b => conflict va (auxBuffered k.core b.strand (sectorOf s key))
  | none =>
    if reading && (s.strand k).seen.isFixed && !ownPublish x k.num key && !stampOk (horizon s k) (sectorOf s key) then
      conflict va (auxStamp (sectorOf s key))
    else pure ()

/-- The sectors among n bytes at a key, by the offset of their first byte in the run. -/
def sectorStarts (key n : Nat) : List Nat := ((List.range n).filter fun i => i = 0 || (key + i) % 32 = 0)

/-- The line of an L1 after a fill from its home: the valid words stay, the others come from home; a poisoned sector gives no
word. -/
def fillLine (s : State) (line : Nat) (home : Place) (old : Option L1Line) : L1Line :=
  let o := old.getD { line := line, data := 0, valid := 0, owned := 0, home := home }
  let fresh := lineBytes s home
  let clean : BitVec 32 := (List.range 4).foldl (fun m i =>
    if sectorBad s (placePlus home (32 * i)) then m else m ||| sectorWords i 0xFF) 0
  { o with
    data := ofLanes 32 32 fun i => if o.valid.getLsbD i then word32 o.data i else word32 fresh i
    valid := o.valid ||| clean }

/-- A sector among n bytes at an offset of a line's copy is poisoned. -/
def copyBad (l : L1Line) (off n : Nat) : Bool := (List.range n).any fun i => l.bad.getLsbD ((off + i) / 32)

/-- The non-owned words of a line let go, where the L1 has done so by now (07 R391; log 6). The core-local windows are
not cached. -/
def dropIfGone (c : CoreId) (line : Nat) (s : State) : State :=
  let x := s.core c
  if line / 2 ^ 45 != 0x1F && x.l1.any (fun l => l.line == line) && Config.dropsLine s.steps then
    s.setCore c (x.withL1 (x.l1.filterMap fun l =>
      if l.line == line then (if l.valid &&& l.owned == 0 then none else some { l with valid := l.valid &&& l.owned, bad := 0 }) else some l))
  else s

/-- A copy of a line in the L1 of a core. -/
def l1Find (x : Core) (va : Nat) (p : Place) : Option L1Line :=
  x.l1.find? fun l => l.line == va / 128 && l.home == lineStart p
/-- A line fetched from its home into the L1 of a core, as a copy that it does not own (07 R172). -/
def l1Fill (c : CoreId) (va : Nat) (p : Place) (s : State) : State :=
  let s := countLine c.panel va p s
  let s := match p with | .dev key => homeTouch key false s | _ => s
  l1Insert c (fillLine s (va / 128) (lineStart p) (l1Find (s.core c) va p)) s
/-- A copy becomes the most recently used of its set (07 R391). -/
def l1Used (c : CoreId) (l : L1Line) (s : State) : State :=
  let x := s.core c
  if x.l1.head?.any fun y => y.line == l.line && y.home == l.home then s
  else s.setCore c { x with l1 := l :: x.l1.filter fun y => !(y.line == l.line && y.home == l.home) }
/-- A store in flight of a strand carries poison into the sector of a place (05 R132). -/
def ownPoison (s : State) (k : StrandId) (p : Place) : Bool :=
  s.stores.any fun r => r.strand == k && r.path == 0 && r.poison.any fun q =>
    lineStart q == lineStart p && lineOffset q / 32 == lineOffset p / 32

/-- n bytes of a line read by a strand at va, each with the poison of its sector: its buffered bytes, its own stores in
flight, its L1, or home. The fixed-mode checks are the caller's. -/
def readBytes (k : StrandId) (va : Nat) (p : Place) (n : Nat) : Act (List (Byte × Bool)) := do
  let c := k.core
  match l1Find ((← get).core c) va p with
  | some l => if wordsValid l (va % 128) n then modify (l1Used c l) else miss
  | none => miss
  let s ← get
  let x := s.core c
  let line := (l1Find x va p).getD (fillLine s (va / 128) (lineStart p) none)
  pure ((List.range n).map fun i =>
    let q := placePlus p i
    let o := (va + i) % 128
    let bad := ownPoison s k q || copyBad line o 1
    match x.buffered.find? fun b => b.strand == k.num && Place.dev b.key == q with
    | some b => (b.value, bad || x.buffered.any fun y => y.strand == k.num && y.key / 32 == b.key / 32 && y.bad)
    | none =>
      match ownStore s k q with
      | some v => (v, bad || sectorBad s q)
      | none =>
        if line.valid.getLsbD (o / 4) then (BitVec.ofNat 8 (line.data.toNat / 2 ^ (8 * o)), bad)
        else (BitVec.ofNat 8 ((lineBytes s (lineStart p)).toNat / 2 ^ (8 * o)), true))
where
  /-- The L1 has no copy of the words: they are fetched from home. -/
  miss : Act Unit := do
    if lineBusy (← get) p then throw .stall
    match p with
    | .dev key =>
      if mustWait (← get) key then
        modify (queueRead key (some (k.core, va)))
        throw .stall
    | _ => pure ()
    modify (l1Fill k.core va p)

/-- As readBytes, once the fixed-mode checks of its sectors have passed (08 R199). -/
def readLine (k : StrandId) (va : Nat) (p : Place) (n : Nat) : Act (List (Byte × Bool)) := do
  match p with
  | .dev key => (sectorStarts key n).forM fun i => checkSector k (va + i) (key + i) true
  | _ => pure ()
  readBytes k va p n

/-- n bytes of a line used by a strand: poison kills the core (05 R132). -/
def readMem (k : StrandId) (va : Nat) (p : Place) (n : Nat) : Act (List Byte) := do
  let l ← readLine k va p n
  if l.any Prod.snd then throw (.kill 1)
  pure (l.map Prod.fst)

/-- A load through the panel window sent, if it is not (07 R163). -/
def panelAsk (k : StrandId) (c : CoreId) (off n : Nat) (s : State) : State :=
  if s.panelReads.any fun r => r.strand == k && r.target == c && r.off == off && r.size == n then s
  else
    let (id, s) := s.fresh
    let r : PanelRead := { id := id, strand := k, target := c, off := off, size := n }
    { s with panelReads := s.panelReads ++ [r] } |>.post .panelWindowRead { id := id }

/-- The loads through the panel window among the pieces: all sent, then all answered, or the strand tries again. -/
def panelLoads (k : StrandId) (moving : Bool) (ps : List Piece) : Act Unit := do
  ps.forM fun p =>
    match p.target with
    | .scratch c off => if c = k.core then pure () else modify (panelAsk k c off p.n)
    | _ => pure ()
  let s ← get
  if s.panelReads.any fun r => r.strand == k && r.reply.isNone then throw .stall
  ps.forM fun p =>
    match p.target with
    | .scratch c off =>
      match s.panelReads.find? fun r => r.strand == k && r.target == c && r.off == off && r.size == p.n with
      | some r =>
        match r.reply with
        | some (.error cause) =>
          if moving && cause.toNat == Cause.remoteDead then pure ()
          else throw (.trap { cause := cause, addr := BitVec.ofNat 64 p.va })
        | _ => pure ()
      | none => pure ()
    | _ => pure ()

/-- The value of one piece. -/
def readPiece (k : StrandId) (p : Piece) : Act (List Byte) := do
  match p.target with
  | .scratch c off =>
    let s ← get
    if c = k.core then
      let x := s.core c
      if overlaps x off p.n then throw (.wait .landing)
      if scratchBad x off p.n then throw (.kill 1)
      pure (x.scratch.bytes off p.n)
    else
      match s.panelReads.find? fun r => r.strand == k && r.target == c && r.off == off && r.size == p.n with
      | some { reply := some (.ok bs), poison := bad, .. } => if bad.isEmpty then pure bs else throw (.kill 1)
      | _ => throw .stall
  | .pattern w off =>
    let s ← get
    let x := s.core k.core
    let d := (s.strand k).seen.pat.toList.getD w 0
    let at_ := patBits d 128 64 - scratchBase
    let size := patSize d
    if patKind d = 3 then
      let used := (List.range (p.n / size)).map fun i => at_ + 4 * ((off / size + i) % patWidth d / 2)
      if used.any fun o => overlaps x o 4 then throw (.wait .landing)
      if used.any fun o => scratchBad x o 4 then throw (.kill 1)
    pure (patBytes d (fun i => x.scratch.nat (at_ + 4 * i) 4) off p.n)
  | .queue _ => trapAt Cause.accessRights (BitVec.ofNat 64 p.va)
  | .control r _ =>
    if (← get).stores.any fun q => q.strand == k && q.path == 0 && q.va == p.va && q.bytes.isEmpty then throw .stall
    let v ← modifyGet fun s => ctlRead s r
    pure (toBytes 8 v.toNat)
  | .page pl => readMem k p.va pl p.n

/-- Pieces read in order. -/
def readPieces (k : StrandId) : List Piece → Act (List (Nat × List Byte))
  | [] => pure []
  | p :: ps => do
    let b ← readPiece k p
    let rest ← readPieces k ps
    pure ((p.va, b) :: rest)

/-- The value of one piece that is only moved: each byte and whether its sector is poisoned (05 R132, R134). -/
def movePiece (k : StrandId) (p : Piece) : Act (List (Byte × Bool)) := do
  match p.target with
  | .scratch c off =>
    let s ← get
    if c = k.core then
      let x := s.core c
      if overlaps x off p.n then throw (.wait .landing)
      pure ((x.scratch.bytes off p.n).zipIdx.map fun b => (b.1, x.scratchPoison.contains ((off + b.2) / 32)))
    else
      match s.panelReads.find? fun r => r.strand == k && r.target == c && r.off == off && r.size == p.n with
      | some { reply := some (.ok bs), poison := bad, .. } =>
        pure (bs.zipIdx.map fun b => (b.1, bad.contains ((off + b.2) / 32)))
      | some { reply := some (.error _), .. } => pure (List.replicate p.n (0, true))
      | _ => throw .stall
  | .page pl => readLine k p.va pl p.n
  | _ =>
    let bs ← readPiece k p
    pure (bs.map fun b => (b, false))

/-- Pieces moved in order: address, byte and poison of each byte. -/
def movePieces (k : StrandId) : List Piece → Act (List (Nat × List (Byte × Bool)))
  | [] => pure []
  | p :: ps => do
    let b ← movePiece k p
    let rest ← movePieces k ps
    pure ((p.va, b) :: rest)

/-- The bytes at n addresses from va among what was read. -/
def gathered (l : List (Nat × List Byte)) (va n : Nat) : List Byte :=
  (List.range n).map fun i =>
    match l.find? fun e => e.1 ≤ va + i && va + i < e.1 + e.2.length with
    | some e => e.2.getD (va + i - e.1) 0
    | none => 0

/-- The piece lies in another core's scratchpad. -/
def Piece.away (k : StrandId) (p : Piece) : Bool :=
  match p.target with
  | .scratch c _ => c != k.core
  | _ => false
/-- A place of another package. -/
def Place.isRemote (p : Place) : Bool := match p with | .remote _ _ => true | _ => false
/-- The target of a store to the piece answers it, with an acknowledgement or an error (07 R163, R172): another core's scratchpad,
or another package. -/
def Piece.answered (k : StrandId) (p : Piece) : Bool :=
  p.away k || match p.target with | .page pl => pl.isRemote | _ => false
/-- A fixed-mode strand loads nothing through the panel window (08 R200). -/
def fixedLoad (k : StrandId) (ps : List Piece) : Act Unit := do
  if ((← get).strand k).seen.isFixed then
    match ps.find? (Piece.away k) with
    | some p => trapAt Cause.fixedPath (BitVec.ofNat 64 p.va)
    | none => pure ()

/-- While an acquire of the strand is pending, its accesses on the paths that the acquire covers are performed only after it
(10 R235, 08 R188). DEDUCED (log 39): an instruction fetch is not one of them, since instructions of the window may issue. -/
def awaitAcquire (k : StrandId) : Act Unit := do
  if (← get).hookReqs.any fun h => h.requester == .strand k && h.acquire then throw .stall

/-- Plain loads of a strand on the core path: requests (address, length); what was read, by address. -/
def load (k : StrandId) (acc : Acc) (reqs : List (Nat × Nat)) : Act (List (Nat × List Byte)) := do
  if acc != .fetch then
    if !reqs.isEmpty then awaitAcquire k
    modify fun s => reqs.foldl (fun s r => dropIfGone k.core (r.1 / 128) s) s
  let ps ← resolve k acc reqs
  fixedLoad k ps
  panelLoads k false ps
  readPieces k ps

/-- One load of at most 8 bytes as a number. -/
def loadNat (k : StrandId) (va n : Nat) : Act Nat := do
  let l ← load k .read [(va, n)]
  pure (ofBytes (gathered l va n))

/-! ## Stores -/

/-- The core is gone (05 R133, R135). -/
def Core.gone (x : Core) : Bool := x.status == .killed || x.status == .retired
/-- Why a core does not answer an access of a domain through the panel window (07 R163). -/
def windowCause (x : Core) (d : BitVec 16) : Option Nat :=
  if x.gone then some Cause.remoteDead
  else if x.status == .idle || (x.domain != d && !supervisory d) then some Cause.scratchDomain
  else none

/-- The checks of one piece to be stored (08 R196–R200); nothing is written. -/
def checkStore (k : StrandId) (p : Piece) : Act Unit := do
  let s ← get
  let x := (s.strand k).seen
  match p.target with
  | .scratch c off =>
    if c = k.core then
      if hitsHorizon s c off p.n then trapAt Cause.fixedHorizon (BitVec.ofNat 64 p.va)
      if overlaps (s.core c) off p.n then throw (.wait .landing)
    else if x.isFixed && !armedZone (s.core c) off p.n then trapAt Cause.fixedPath (BitVec.ofNat 64 p.va)
  | .queue _ => trapAt Cause.accessRights (BitVec.ofNat 64 p.va)
  | .page (.dev key) =>
    (sectorStarts key p.n).forM fun i => checkSector k (p.va + i) (key + i) false
  | _ => pure ()

/-- The first address among the pieces of an instruction whose line finds all 16 ways of its set holding buffered words, those
of the pieces before it included (08 R197); lines: the virtual lines that hold some. -/
def overflowAt : List Nat → List Piece → Option Nat
  | _, [] => none
  | lines, p :: ps =>
    match p.target with
    | .page (.dev _) =>
      let line := p.va / 128
      if lines.contains line then overflowAt lines ps
      else if 16 ≤ (lines.filter fun l => l % 64 == line % 64).length then some p.va
      else overflowAt (lines ++ [line]) ps
    | _ => overflowAt lines ps

/-- A store in flight to a home, for the bytes of one sector; the item that waits for its answer, if one does. -/
def sendStore (k : StrandId) (reply : Nat) (bad : Nat → Bool) (va : Nat) (bs : List (Place × Byte)) (s : State) : State :=
  let (id, s) := s.fresh
  let r : StoreReq := { id := id, core := k.core, strand := k, path := 0, va := va, bytes := bs, reply := reply
                        poison := (bs.zipIdx.filter fun b => bad (va + b.2)).map fun b => b.1.1 }
  { s with stores := s.stores ++ [r] } |>.post .homeAccess { id := id }

/-- The stores of a piece to a page, cut at 32-byte sectors (02 R67: a sector written whole); the panel counts the line access
(02 R57, 07 R174). -/
def sendStores (k : StrandId) (reply : Nat) (bad : Nat → Bool) (va : Nat) (bs : List (Place × Byte)) (s : State) : State :=
  let starts := (List.range bs.length).filter fun i => i = 0 || (va + i) % 32 = 0
  let s := (bs.head?.toList).foldl (fun s b => countLine k.core.panel va b.1 s) s
  starts.foldl (fun s i =>
    let n := min (bs.length - i) (32 - (va + i) % 32)
    sendStore k reply bad (va + i) ((bs.drop i).take n) s) s

/-- Bytes buffered in the L1 by a fixed-mode strand (08 R197), in a way of their line's set. -/
def bufferBytes (k : StrandId) (bad : Nat → Bool) (va key : Nat) (bs : List Byte) (s : State) : State :=
  let s := (l1Room k.core (va / 128) s).getD s
  let x := s.core k.core
  let new := bs.zipIdx.map fun b => ({ strand := k.num, va := va + b.2, key := key + b.2, value := b.1, bad := bad (va + b.2) } : BufByte)
  let old := x.buffered.filter fun b => !(b.strand == k.num && key ≤ b.key && b.key < key + bs.length)
  s.setCore k.core { x with buffered := old ++ new }

/-- The piece's bytes leave for their target; a landing at another core, and a store at another package, carry id; bad tells the addresses whose bytes
come from a poisoned sector. A store to the control space is in flight until its register is written (01 R41). -/
def sendPiece (k : StrandId) (id : Nat) (bad : Nat → Bool) (p : Piece) (bs : List Byte) (s : State) : State :=
  match p.target with
  | .scratch c off =>
    if c = k.core then scratchStore c (bs.zipIdx.map fun b => (off + b.2, b.1)) s
    else
      let x := (s.strand k).seen
      let l : Landing :=
        { id := id, target := c, off := off, bytes := bs.zipIdx.map fun b => (off + b.2, b.1)
          poison := (bs.zipIdx.filter fun b => bad (p.va + b.2)).map fun b => off + b.2
          sender := .strand k
          domain := x.domain
          supervisor := supervisory x.domain
          zonesOnly := x.isFixed }
      { s with landings := s.landings ++ [l] } |>.post .landingArrive { id := id, core := c, a := off }
  | .control _ off =>
    let e := ctlWriteEvent off (BitVec.ofNat 64 (ofBytes bs))
    let (id, s) := s.fresh
    let r : StoreReq := { id := id, core := k.core, strand := k, path := 0, va := p.va, bytes := [] }
    { s with stores := s.stores ++ [r] } |>.post e.1 { e.2 with id := id }
  | .page (.dev key) =>
    if (s.strand k).seen.isFixed then bufferBytes k bad p.va key bs s
    else sendStores k 0 bad p.va (bs.zipIdx.map fun b => (.dev (key + b.2), b.1)) s
  | .page (.host a) => sendStores k 0 bad p.va (bs.zipIdx.map fun b => (.host (a + b.2), b.1)) s
  | .page (.remote m pa) => sendStores k id bad p.va (bs.zipIdx.map fun b => (.remote m (pa + b.2), b.1)) s
  | _ => s

/-- The scratchpad pieces of the own core gathered into one write, so that whole sectors count as whole. -/
def ownBytes (k : StrandId) : List (Piece × List Byte) → List (Nat × Byte)
  | [] => []
  | (p, bs) :: ps =>
    match p.target with
    | .scratch c off => if c = k.core then bs.zipIdx.map (fun b => (off + b.2, b.1)) ++ ownBytes k ps else ownBytes k ps
    | _ => ownBytes k ps

/-- The offsets of the own scratchpad that receive bytes of poisoned sectors. -/
def ownBad (k : StrandId) (bad : Nat → Bool) (l : List (Piece × List Byte)) : List Nat :=
  l.flatMap fun e =>
    match e.1.target with
    | .scratch c off =>
      if c = k.core then ((List.range e.1.n).filter fun i => bad (e.1.va + i)).map fun i => off + i else []
    | _ => []

/-- The pieces of a fixed-mode strand's stores find room among the buffered words of the L1 (08 R197). -/
def fixedRoom (k : StrandId) (ps : List Piece) : Act Unit := do
  let s ← get
  if (s.strand k).seen.isFixed then
    match overflowAt (((s.core k.core).buffered.map fun b => b.va / 128).dedup) ps with
    | some va => trapAt Cause.fixedOverflow (BitVec.ofNat 64 va)
    | none => pure ()

/-- Where an instruction stores to several places, a core among them that would not answer stops it before any byte is written
(13 R290). A store to one place alone meets its core when it arrives there (07 R163). -/
def windowChecks (k : StrandId) (ps : List Piece) : Act Unit := do
  let s ← get
  if 1 < ps.length then
    ps.forM fun p =>
      match p.target with
      | .scratch c _ =>
        match (if c = k.core then none else windowCause (s.core c) (s.strand k).seen.domain) with
        | some cause => trapAt cause (BitVec.ofNat 64 p.va)
        | none => pure ()
      | _ => pure ()
/-- All that can stop stores, before any byte is sent. -/
def storeChecks (k : StrandId) (ps : List Piece) : Act Unit := do
  if !ps.isEmpty then awaitAcquire k
  ps.forM fun p => checkStore k p
  fixedRoom k ps
  windowChecks k ps

/-- Bytes to be stored (address, bytes), all checked before any is sent; where the instruction waits for an answer of
another core or package, the identifier it waits for (08 R183). -/
def storePieces (k : StrandId) (bad : Nat → Bool) (l : List (Piece × List Byte)) : Act (Option Nat) := do
  storeChecks k (l.map Prod.fst)
  let away := l.any fun e => e.1.answered k
  let id ← if away then modifyGet State.fresh else pure 0
  modify fun s =>
    let s := scratchStore k.core (ownBytes k l) s
    let s := scratchSpoil k.core (ownBad k bad l) s
    l.foldl (fun s e =>
      match e.1.target with
      | .scratch c _ => if c = k.core then s else sendPiece k id bad e.1 e.2 s
      | _ => sendPiece k id bad e.1 e.2 s) s
  pure (if away then some id else none)

/-- The pieces of a resolved list with the bytes they take from data given by address. -/
def withBytes (data : Nat → Byte) (ps : List Piece) : List (Piece × List Byte) :=
  ps.map fun p => (p, (List.range p.n).map fun i => data (p.va + i))

/-- Stores of a strand on the core path: (address, bytes) in order; a later one of the same byte remains. -/
def store (k : StrandId) (reqs : List (Nat × List Byte)) : Act (Option Nat) := do
  let ps ← reqs.mapM fun r => do
    let l ← resolve k .write [(r.1, r.2.length)]
    pure (withBytes (fun a => r.2.getD (a - r.1) 0) l)
  storePieces k (fun _ => false) ps.flatten

/-! ## Ordering (08 R183, R184, R188) -/

/-- Accesses of a strand on the core path are all performed; the slot store of an APPEND follows its claim (14 R329). -/
def corePerformed (s : State) (k : StrandId) : Bool :=
  !(s.stores.any fun r => r.strand == k && r.path == 0) &&
    !(s.landings.any fun l => l.sender == .strand k) &&
    !(s.hookReqs.any fun h => h.requester == .append k && h.routine == 20)
/-- The store of item id to a register is performed (01 R41). -/
def storeDone (id : Nat) (s : State) : State := { s with stores := dropId StoreReq.id s.stores id }
/-- A release waits until the strand's earlier core-path accesses are performed (08 R183). -/
def awaitCore (k : StrandId) : Act Unit := do
  if corePerformed (← get) k then pure () else throw .stall

/-- Sectors stamped (08 R197). -/
def stampSectors (obj : Nat) (gen : BitVec 18) (secs : List Nat) (s : State) : State :=
  secs.foldl (fun s q => setSector s (q * 32) (withStamp (sectorOf s (q * 32)) obj gen)) s
/-- A strand's buffered words have left its L1, which records their sectors as its own publish. -/
def recordPublish (k : StrandId) (secs : List Nat) (s : State) : State :=
  let c := s.core k.core
  s.setCore k.core { c with
    buffered := c.buffered.filter fun b => b.strand != k.num
    published := (secs.map fun q => (k.num, q)) ++ c.published.filter fun e => !(e.1 == k.num && secs.contains e.2) }
/-- The words written at their home slices at once, stamped, registered and recorded. -/
def publishNow (k : StrandId) (obj : Nat) (gen : BitVec 18) (mine : List BufByte) (s : State) : State :=
  let lines := (mine.map fun b => (b.va / 128, b.key / 128)).dedup
  let secs := (mine.map fun b => b.key / 32).dedup
  let s := devWrite (mine.map fun b => (b.key, b.value)) s
  let s := stampSectors obj gen secs (devPoison ((mine.filter BufByte.bad).map BufByte.key) s)
  let s := lines.foldl (fun s l => countLine k.core.panel (l.1 * 128) (.dev (l.2 * 128)) s) s
  let s := lines.foldl (fun s l =>
    registerStore k.core (l.1 * 128) ((mine.filter fun b => b.va / 128 == l.1 && b.key / 128 == l.2).map BufByte.key) s) s
  recordPublish k secs s
/-- The words sent to their home slices as stores that carry the stamp, sector by sector, and recorded. -/
def publishSend (k : StrandId) (obj : Nat) (gen : BitVec 18) (mine : List BufByte) (s : State) : State :=
  let s := ((mine.map fun b => (b.va / 32, b.key / 32)).dedup).foldl (fun s q =>
    let l := mine.filter fun b => b.va / 32 == q.1 && b.key / 32 == q.2
    let (id, s) := s.fresh
    let r : StoreReq :=
      { id := id, core := k.core, strand := k, path := 0, va := (l.head?.map BufByte.va).getD 0
        bytes := l.map fun b => (.dev b.key, b.value)
        poison := (l.filter BufByte.bad).map fun b => .dev b.key
        stamp := some (obj, gen) }
    (countLine k.core.panel r.va (.dev (q.2 * 32)) { s with stores := s.stores ++ [r] }).post .homeAccess { id := id }) s
  recordPublish k ((mine.map fun b => b.key / 32).dedup) s
/-- A buffered word is published through its panel's translation slice: it waits or faults there where its region is no longer
normal (02 R53, R54). -/
def publishReach (k : StrandId) (b : BufByte) : Act Unit := do
  modify fun s => (translate k.core.panel b.va s).2
  let s ← get
  match pageRegion s k.core.panel b.va with
  | none => pure ()
  | some r =>
    let pa := r * 2 ^ 21 + b.key % 2 ^ 21
    if regionKey (paEntry s pa) pa = b.key then
      match regionPlace s .write pa with
      | .ok _ => pure ()
      | .error f => strandFault k .write b.va f
/-- The buffered bytes of a strand published with a stamp (08 R197, R199): all are checked, then written. Where one of them has to
wait at its home slice, for the DRAM (02 R75) or for a routine on its line (R68), all are sent as stores, and the release waits for
them. -/
def publish (k : StrandId) (obj : Nat) (gen : BitVec 18) : Act Unit := do
  let s ← get
  let x := s.core k.core
  let mine := x.buffered.filter fun b => b.strand == k.num
  let h := horizon s k
  mine.forM fun b =>
    let w := sectorOf s b.key
    if stampOk h w || ownPublish x k.num b.key then pure () else conflict b.va (auxStamp w)
  mine.forM (publishReach k)
  let s ← get
  if writeMustWait s (mine.map fun b => (b.key, b.value)) || mine.any fun b => lineBusy s (.dev b.key) then
    modify (publishSend k obj gen mine)
    throw .stall
  modify (publishNow k obj gen mine)

/-- The strand holds buffered words (08 R200). -/
def holdsWords (s : State) (k : StrandId) : Bool := (s.core k.core).buffered.any fun b => b.strand == k.num

/-! ## Fetch (10 R223, R224) -/

/-- One parcel of a strand's instruction at va. -/
def fetchParcel (k : StrandId) (va : W64) : Act Nat := do
  let l ← load k .fetch [(va.toNat, 2)]
  pure (ofBytes (gathered l va.toNat 2))

/-- The instruction that parcels as fetched encode; an encoding that is no instruction is ILLEGAL_INSTRUCTION (10 R229). -/
def instrOf (w : BitVec 32) : Instr :=
  match (if w.toNat % 2 = 0 then decodeParcel (w.toNat % 2 ^ 16) else decodeWord w.toNat) with
  | .ok i => i
  | .error _ => .illegalInstruction w

/-- The instruction at va and its parcels; an encoding that is no instruction is ILLEGAL_INSTRUCTION (10 R229). -/
def fetchInstr (k : StrandId) (va : W64) : Act Instr := do
  modify (dropIfGone k.core (va.toNat / 128))
  let lo ← fetchParcel k va
  if lo % 2 = 0 then
    match decodeParcel lo with
    | .ok i => pure i
    | .error _ => pure (.illegalInstruction (BitVec.ofNat 32 lo))
  else
    let hi ← fetchParcel k (va + 2)
    let w := lo + hi * 2 ^ 16
    match decodeWord w with
    | .ok i => pure i
    | .error _ => pure (.illegalInstruction (BitVec.ofNat 32 w))

end Sys2Proof.Machine
end

