-- ==== Sys2Proof/Machine/Operands.lean ====
section
/-!
DEFINITION. Operands.lean: the operand forms of the instructions: strips in memory and their lanes (12 R269), channel
operands (12 R270), post-increments (11 R241), the registers an instruction writes and the instructions that wait for
every pending one (10 R234), and what a strand does at its turn (10 R231, R233).
-/
namespace Sys2Proof.Machine

/-! ## The instruction in hand -/

/-- The address of the instruction that the strand runs now: the repeated one, or the one at PC. -/
def Strand.here (x : Strand) : W64 :=
  match x.redo with
  | some r => r.pc
  | none => x.pc
/-- Fault at the instruction's own address (11 R258 ADDR). -/
def trapHere {α : Type} (x : Strand) (cause : Nat) : Act α := trapAt cause x.here

/-- A post-increment, where the increment bit is set (11 R241). -/
def bump (x : Strand) (inc : Bool) (p : BitVec 3) : List RegWrite := if inc then [.p p (x.ptr p).step] else []

/-! ## Memory operands (12 R269) -/

/-- The lanes among n that a test picks, in order. -/
def pick (n : Nat) (g : Nat → Bool) : List Nat := (List.range n).filter g

/-- Lanes of the strip at P⟨p⟩, each one access of the lane's width; a lane not in the list reads as zero. -/
def stripLanes (k : StrandId) (x : Strand) (w : Nat) (p : BitVec 3) (lanes : List Nat) : Act (Nat → Nat) := do
  let base := (x.ptr p).base
  let n := w / 8
  if lanes.isEmpty then pure fun _ => 0
  else if base.toNat % n != 0 then trapAt Cause.misaligned base
  else
    let l ← load k .read (lanes.map fun i => ((base + BitVec.ofNat 64 (i * n)).toNat, n))
    pure fun i => if lanes.contains i then ofBytes (gathered l (base + BitVec.ofNat 64 (i * n)).toNat n) else 0

/-! ## Channels (06 R153, 12 R270, 14 R325) -/

/-- The packets of a channel of a core, oldest first. -/
def channelOf (x : Core) (c : Nat) : List Packet :=
  x.mailbox.filter fun p => x.bindings.any fun b => b.tag == p.pair.2 && b.kind == 2 && b.chan.toNat == c

/-- The oldest packet of a channel taken (06 R153): the payload as a strip; an acquire. It waits while the channel is
empty, and faults in fixed mode (08 R200). A poisoned payload kills the core (05 R132). -/
def popChannel (k : StrandId) (x : Strand) (c : Nat) : Act Strip := do
  if x.isFixed then trapHere x Cause.fixedSync
  let s ← get
  match channelOf (s.core k.core) c with
  | [] => throw (.wait (.channel c))
  | p :: _ =>
    if !p.bad.isEmpty then throw (.kill 1)
    modify fun s =>
      let core := s.core k.core
      acquire k.core (s.setCore k.core (Core.freeClosed { core with mailbox := core.mailbox.filter fun q => q.id != p.id }))
    pure (ofStripBytes p.payload)

/-! ## The operands of format V -/

/-- Operand b: lanes of a strip, or a channel's strip, which is popped whatever lanes are read. -/
def operandB (k : StrandId) (x : Strand) (o : LaneOps) (w : Nat) (lanes : List Nat) : Act (Nat → Nat) := do
  if o.cb then
    let a ← popChannel k x o.pb.toNat
    pure (lane w a)
  else stripLanes k x w o.pb lanes

/-- The post-increments of format V: P⟨pa⟩, then P⟨pb⟩. -/
def laneBumps (o : LaneOps) (x : Strand) : List RegWrite :=
  bump x o.ia o.pa ++ bump x (o.ib && !o.cb) o.pb

/-- The guard of format V. -/
def laneGuard (o : LaneOps) (x : Strand) (i : Nat) : Bool := x.guard o.k i

/-- The mode of lane i of a result of width w (09 R206–R208). -/
def laneMode (x : Strand) (rm : BitVec 2) (w i : Nat) : Rm := modeOf (codeOf rm x.fpctl) w (x.drow.toNat % 65536) i

/-! ## Registers an instruction writes (10 R233, R234) -/

/-- The pointer of a post-increment, as a destination. -/
def incDest (inc : Bool) (p : BitVec 3) : List Reg := if inc then [.p p] else []
/-- A mask, as a destination; K0 is never written. -/
def maskDest (d : BitVec 2) : List Reg := if d = 0 then [] else [.k d]
/-- The pointers of format V. -/
def laneIncs (o : LaneOps) : List Reg := incDest o.ia o.pa ++ incDest (o.ib && !o.cb) o.pb
/-- The pointer of format H. -/
def halfIncs (o : HOps) : List Reg := incDest (o.inc && !o.ch) o.p
/-- A control register (11 R252) whose write commits under 10 R233. -/
def csrDest (rm : BitVec 12) : List Reg :=
  match rm.toNat with
  | 0 => [.sst] | 3 => [.fixed] | 4 => [.link] | 0x10 => [.xvec] | 0x14 => [.xresume] | _ => []

/-- A lane form of this format and saturation bit can raise sticky flags (09 R204, R205; 12 R275). -/
def laneRaises (sat : Bool) (o : LaneOps) : List Reg := if o.fmt.getLsbD 2 || sat then [.flags] else []
/-- A conversion into a float format of p significant bits can raise sticky flags, but for integers that it holds exactly. -/
def floatRaises (p : Nat) (o : LaneOps) : List Reg := if !isFloat o.fmt && laneBits o.fmt ≤ p then [] else [.flags]
/-- The same for a 16-bit form: fmt2 = 3 is i32. -/
def halfRaises (o : HOps) : List Reg := if o.fmt = 3 then [] else [.flags]
/-- The sticky flags, as a destination of the instructions whose result can raise one. -/
def flagDests (i : Instr) : List Reg :=
  match i with
  | .hAdd o | .hSub o | .hRsub o | .hMul o | .hFma o | .hMin o | .hMax o | .hAcc o | .hCmplt o => halfRaises o
  | .variAdd sat _ o | .variSub sat _ o | .variRsub sat _ o | .variMul sat _ o | .variFma sat _ o | .variFms sat _ o
  | .variFmal sat _ o | .variAbs sat _ o | .variNeg sat _ o | .vredSum sat _ o | .vredAcc sat _ o
  | .vredDot sat _ o => laneRaises sat o
  | .variMin _ _ o | .variMax _ _ o | .variCpysgn _ _ o | .vredMin o | .vredMax o => laneRaises false o
  | .variDiv _ _ _ | .variSqrt _ _ _ => [.flags]
  | .vcmpEq _ o | .vcmpNe _ o | .vcmpLt _ o | .vcmpLe _ o | .vcmpGt _ o | .vcmpGe _ o | .vcmpUn _ o => laneRaises false o
  | .vcvtTi64 sat _ o | .vcvtTi32 sat _ o | .vcvtTi16 sat _ o | .vcvtTi8 sat _ o => laneRaises sat o
  | .vcvtTf64 _ _ o => floatRaises 53 o
  | .vcvtTf32 _ _ o => floatRaises 24 o
  | .vcvtTf16 _ _ o => floatRaises 11 o
  | .vcvtTbf16 _ _ o => floatRaises 8 o
  | .vcvtTe4m3 _ _ _ | .vcvtTe5m2 _ _ _ | .vcvtTe2m1 _ _ _ | .vcvtTsk _ _ _ => [.flags]
  | .vfunExp2 _ _ | .vfunLog2 _ _ | .vfunSint _ _ | .vfunCost _ _ | .vfunTanh _ _ | .vfunRecip _ _
  | .vfunRsqrt _ _ => [.flags]
  | .ship _ _ _ _ _ | .lawoRd _ _ _ | .lawoAdd _ _ _ | .lawoSwap _ _ _ | .lawoLaw _ _ _ | .lawoChk _ _ _
  | .lawoSet _ _ _ => [.flags]
  | .csrWr _ rm | .csrSetb _ rm | .csrClrb _ rm => if rm = 0 ∨ rm = 4 then [] else [.flags]
  | _ => []

/-- The registers an instruction writes, but for the sticky flags. -/
def regsOf (i : Instr) : List Reg :=
  match i with
  | .hLda o | .hAdd o | .hSub o | .hRsub o | .hMul o | .hFma o | .hMin o | .hMax o | .hAnd o | .hOr o | .hXor o
  | .hAcc o => .a :: halfIncs o
  | .hSta _ _ inc p => incDest inc p
  | .hShl ch _ inc p | .hShra ch _ inc p => .a :: incDest (inc && !ch) p
  | .hCmplt o => .k 1 :: halfIncs o
  | .variAdd _ _ o | .variSub _ _ o | .variRsub _ _ o | .variMul _ _ o | .variFma _ _ o | .variFms _ _ o
  | .variFmal _ _ o | .variMin _ _ o | .variMax _ _ o | .variDiv _ _ o | .variSqrt _ _ o | .variAbs _ _ o
  | .variNeg _ _ o | .variMov _ _ o | .variMulh _ _ o | .variCpysgn _ _ o => .a :: laneIncs o
  | .vbitAnd o | .vbitOr o | .vbitXor o | .vbitAndn o | .vbitShl o | .vbitShr o | .vbitShra o | .vbitRol o
  | .vbitNot o | .vbitPopc o | .vbitClz o => .a :: laneIncs o
  | .vcmpEq d o | .vcmpNe d o | .vcmpLt d o | .vcmpLe d o | .vcmpGt d o | .vcmpGe d o | .vcmpUn d o | .vcmpLtu d o
  | .vcmpLeu d o | .vcmpGtu d o | .vcmpGeu d o => maskDest d ++ laneIncs o
  | .vcvtTi64 _ _ o | .vcvtTi32 _ _ o | .vcvtTi16 _ _ o | .vcvtTi8 _ _ o | .vcvtTf64 _ _ o | .vcvtTf32 _ _ o
  | .vcvtTbf16 _ _ o | .vcvtTf16 _ _ o | .vcvtTe4m3 _ _ o | .vcvtTe5m2 _ _ o | .vcvtTe2m1 _ _ o
  | .vcvtTsk _ _ o => .a :: laneIncs o
  | .vcvtFe4m3 o | .vcvtFe5m2 o | .vcvtFe2m1 o => .a :: laneIncs o
  | .vpermBcast o | .vpermPerm o | .vpermSldn o | .vpermSlup o | .vpermZiplo o | .vpermZiphi o | .vpermUnzev o
  | .vpermUnzod o | .vpermCompr o | .vpermExpnd o | .vpermRev o | .vpermIota o => .a :: laneIncs o
  | .vredSum _ _ o | .vredAcc _ _ o | .vredDot _ _ o => .a :: laneIncs o
  | .vredMin o | .vredMax o | .vredAnd o | .vredOr o | .vredXor o => .a :: laneIncs o
  | .vfunExp2 _ o | .vfunLog2 _ o | .vfunSint _ o | .vfunCost _ o | .vfunTanh _ o | .vfunRecip _ o
  | .vfunRsqrt _ o => .a :: laneIncs o
  | .randRaw _ _ inc p | .randUnif _ _ inc p => .a :: incDest inc p
  | .lda o | .ldaBc o | .ldaZx o | .gathGather o => .a :: incDest o.ip o.p
  | .sta o | .gathScatter o => incDest o.ip o.p
  | .lineMove _ _ _ s q d p => incDest d p ++ incDest s q
  | .lineFill _ _ _ d p => incDest d p
  | .ship _ _ _ _ _ | .tickLd _ _ _ _ | .tickQ _ _ => [.a]
  | .tickRd _ _ _ | .tickDrop _ _ => []
  | .lawoRd _ inc p | .lawoAdd _ inc p | .lawoSwap _ inc p | .lawoLaw _ inc p | .lawoChk _ inc p => .a :: incDest inc p
  | .lawoSet _ inc p => incDest inc p
  | .patnSet _ w _ | .patnClr _ w => [.pat w]
  | .dramPromote _ _ | .dramPin _ _ | .dramUnpin _ _ | .dramDemote _ _ => [.a]
  | .pset _ _ _ p | .paddImm _ _ p | .paddSh12 _ _ p | .paddStep _ p => [.p p]
  | .pmovMov _ _ d => [.p d]
  | .pmovToa _ _ _ => [.a]
  | .pmovFroma _ _ p | .pmovZero _ p | .pmovGetlink _ p => [.p p]
  | .pmovGsv _ c _ _ q => incDest c q
  | .pmovGld _ c n m q =>
    ((List.range 8).filter fun i => m.toNat ≤ i && i ≤ n.toNat).map (fun i => .p (BitVec.ofNat 3 i)) ++
      incDest (c && !(m.toNat ≤ q.toNat && q.toNat ≤ n.toNat)) q
  | .pmovSetlink _ _ | .brCall _ | .jumpJalr _ => [.link]
  | .aimmBcast _ _ | .aimmLane0 _ _ | .aimmOnly0 _ _ | .aimmAdd _ _ => [.a]
  | .kopsAnd d _ _ | .kopsOr d _ _ | .kopsXor d _ _ | .kopsAndn d _ _ | .kopsNot d _ | .kopsMov d _ | .kopsSet d
  | .kopsClr d | .kopsFirst d _ | .kopsFroma d | .kopsPrefix d _ => maskDest d
  | .kopsToa _ | .kopsPopc _ => [.a]
  | .timeRdst | .timeRddev => [.a]
  | .timeSetst | .timeAddst | .timeSyncst => [.stime]
  | .csrRd _ _ => [.a]
  | .csrWr _ rm | .csrSetb _ rm | .csrClrb _ rm => csrDest rm
  | .csrSkld _ n _ => [.skein n]
  | .protRde _ => [.a]
  | .strnStart _ | .strnStat => [.a]
  | .syncCread _ => [.a]
  | .ringAwait _ | .ringSlot _ => [.a]
  | .msgPop _ _ | .msgPeek _ _ => [.a]
  | .copyAppend _ _ => [.a]
  | .mtrxSclaim _ | .mtrxStat _ | .mtrxSeal => [.a]
  | _ => []

/-- The registers an instruction writes (10 R233, R234). -/
def destsOf (i : Instr) : List Reg := regsOf i ++ flagDests i

/-- The instructions that wait until every pending instruction has committed (10 R234): STRN, TRAP, PROT, CTXS and
the illegal ones. -/
def drainsAll (i : Instr) : Bool :=
  match i with
  | .illegalInstruction _ | .strnStart _ | .strnEnd | .strnJoinw _ | .strnYield | .strnStat | .strnBindh _ _
  | .trapSwt _ | .trapBrk _ | .trapRet | .trapRetx | .trapHalt | .protFlush | .protInvd _ | .protInva _ | .protRde _
  | .protWre _ | .ctxsStop _ | .ctxsSave _ _ | .ctxsLoad _ _ | .ctxsGo _ => true
  | _ => false

/-- Run an instruction of the strand in hand with its own destinations. -/
def perform (i : Instr) (la : BitVec 4) (body : Strand → Act Effect) (s : State) : Host.Outcome State Fault Refusal :=
  run i la.toNat (destsOf i) body s
/-- Run an instruction that has no lookahead. -/
def performNow (i : Instr) (body : Strand → Act Effect) (s : State) : Host.Outcome State Fault Refusal :=
  run i 0 (destsOf i) body s

/-! ## A strand's turn (10 R231, R233, R234) -/

/-- What a strand does at its turn. -/
inductive Plan where
  /-- it cannot issue -/
  | idle
  /-- its next instruction is held: the windows before it end -/
  | hold
  /-- its next instruction issues -/
  | issue (i : Instr)
  /-- its next instruction cannot be fetched; the parcel of it that was -/
  | stop (why : Stop) (parcels : BitVec 32)
  deriving DecidableEq, Repr

/-- Two instructions that write these may not both be pending (10 R234): the sticky flags are part of SST (log 37). -/
def Reg.clashes (q r : Reg) : Bool :=
  match q, r with
  | .flags, .sst => true
  | .sst, .flags => true
  | _, _ => q == r
/-- An instruction is held from issue by a pending one (10 R234). -/
def heldBy (l : List Pending) (i : Instr) : Bool :=
  !l.isEmpty && (drainsAll i || l.any fun p => p.dests.any fun r => (destsOf i).any r.clashes)

/-- The first parcel of an instruction as it is fetched from this state, where it can be (10 R231): fetchInstr's first. -/
def firstParcel (k : StrandId) (va : W64) (s : State) : BitVec 32 :=
  match (fetchParcel k va).run (dropIfGone k.core (va.toNat / 128) s) with
  | (.ok lo, _) => BitVec.ofNat 32 lo
  | _ => 0

/-- The clock of a core stands still in a droop (05 R125), and while a kill of it waits for its hop (05 R137). -/
def stands (x : Core) : Bool := x.stretch || x.killWaits.isSome

/-- The plan of a strand, with what fetching does to the machine. An instruction that has issued and waits is performed; a
fetch that must wait ends no window, and is tried again. -/
def plan (k : StrandId) (s : State) : Plan × State :=
  let x := s.strand k
  if !x.canIssue || stands (s.core k.core) then (.idle, s)
  else if x.view.isSome then (.issue (instrOf x.waitParcels), s)
  else
    match (fetchInstr k x.here).run s with
    | (.ok i, t) => (if heldBy x.pending i then .hold else .issue i, t)
    | (.error .stall, t) => (.idle, t)
    | (.error e, t) => if x.pending.isEmpty then (.stop e (firstParcel k x.here s), t) else (.hold, s)

/-- A fetch that does not give an instruction (10 R223, R231): the trap with the strand's place as resume address, or
the strand parked there. -/
def stopFetch (k : StrandId) (e : Stop) (parcels : BitVec 32) (s : State) : State :=
  let x := s.strand k
  let resume := match x.redo with | some r => r.resume | none => x.pc
  match e with
  | .trap f => settleStop k (takeTrap k f x.here parcels resume (s.setStrand k { x with redo := none, pc := resume }))
  | .pager f =>
    let s := parkPager k f x.here resume parcels s
    settleStop k (s.setStrand k { s.strand k with redo := x.redo })
  | .stall => requeue k s
  | .wait w => settleStop k (park k w s)
  | .kill c => killCore k.core c s

end Sys2Proof.Machine
end

