-- ==== Sys2Proof/Machine/Flags.lean ====
section
/-!
DEFINITION. Flags.lean: the sticky flags of a strand (SST, 11 R253) and how results and replies raise them. What a
rounding, a clamp or a conversion raises is computed with it in Num.lean and Lanes.lean.
-/
namespace Sys2Proof.Machine

namespace Flag
/-- SEALED -/
def sealed : Nat := 128
/-- UNDELIVERED -/
def undelivered : Nat := 256
/-- CSRIGN -/
def csrign : Nat := 512
/-- The bits of SST that are not must-be-zero. -/
def all : Nat := 1023
end Flag

/-- Flags a result raises at its commit (09 R205); none is no write. -/
def flagWrite (fl : Nat) : List RegWrite := if fl = 0 then [] else [.flags (BitVec.ofNat 64 fl)]

/-- The IEEE flags of a reply word's bits [12:8] (13 R293). -/
def replyFlags (status : W64) : Nat := status.toNat / 256 % 32

/-- A sticky flag that the hardware sets outside an instruction (11 R253). -/
def raise (k : StrandId) (fl : Nat) (s : State) : State :=
  let x := s.strand k
  if x.live then s.setStrand k { x with sst := x.sst ||| BitVec.ofNat 64 fl } else s

/-- A result of A and the flags beside it. -/
def resultWrites (r : Strip × Nat) : List RegWrite := .a r.1 :: flagWrite r.2

end Sys2Proof.Machine
end

