-- ==== Sys2Proof/Machine/Objects.lean ====
section
/-!
DEFINITION. Objects.lean: the sync objects (06 R155–R158), their signals, arrivals and deposits (08 R197, R198), and
the command queue of the matrix unit (14 R338–R343, R347), which a counter may hold (R345 WT).
-/
namespace Sys2Proof.Machine

/-! ## Names of objects (06 R155) -/

/-- The kinds of sync object. -/
inductive ObjKind where
  | barrier
  | counter
  | ring
  deriving DecidableEq, Repr

/-- The identifier names an object of the kind. -/
def objNamed (kind : ObjKind) (id : Nat) : Bool :=
  if id / 2 ^ 15 % 2 = 1 then
    id / 256 % 128 == 0 &&
      match kind with
      | .barrier => decide (id % 256 < 64)
      | .counter => true
      | .ring => false
  else
    id / 2 ^ 14 % 2 == 0 && decide (id / 1024 % 16 < 12) &&
      match kind with
      | .barrier => decide (id % 1024 < 256)
      | .counter => true
      | .ring => decide (id % 1024 < 64)

/-- The domain identifier that an object is assigned to. -/
def objOwner (s : State) (kind : ObjKind) (id : Nat) : Option (BitVec 12) :=
  match kind with
  | .barrier => (Table.get {} s.barriers id).owner
  | .counter => (Table.get {} s.counters id).owner
  | .ring => (Table.get {} s.rings id).owner

/-- The cause with which a party of a domain may not use an object: SYNC_INVALID, then SYNC_DOMAIN. -/
def objCause (s : State) (kind : ObjKind) (id : Nat) (d : BitVec 16) : Option Nat :=
  if !objNamed kind id then some Cause.syncInvalid
  else if objOwner s kind id != some (BitVec.ofNat 12 (domId d)) then some Cause.syncDomain
  else none

/-- A barrier. -/
def barrierOf (s : State) (id : Nat) : Barrier := Table.get {} s.barriers id
/-- A barrier written. -/
def setBarrier (id : Nat) (b : Barrier) (s : State) : State := { s with barriers := Table.set {} s.barriers id b }
/-- A ring. -/
def ringOf (s : State) (id : Nat) : Ring := Table.get {} s.rings id
/-- A ring written. -/
def setRing (id : Nat) (r : Ring) (s : State) : State := { s with rings := Table.set {} s.rings id r }

/-! ## The matrix command queue (14 R338–R347) -/

/-- An MMA format (14 R346). -/
def mmaFormat (f : Nat) : Bool := decide (f = 1 ∨ f = 2 ∨ (4 ≤ f ∧ f ≤ 16))
/-- The bytes of an operand of K elements a line (14 R344). -/
def operandBytes (f k : Nat) : Nat := 64 * k * skBits f / 8 + if skScaled f then 2 * k else 0

/-- The fields of a command from the highest bits down: lowest bit, width, and whether its value is allowed
(14 R343, R347; WOBJ and WVAL are used by every opcode). -/
def cmdRules (r : BitVec 512) (strand : Nat) (fmtOf : Nat → Nat) : List (Nat × Bool) :=
  let op := cmdOpc r
  let f := fun (lo n : Nat) => recBits r lo n
  let zero := fun (lo n : Nat) => f lo n == 0
  let ok := decide (1 ≤ op ∧ op ≤ 8)
  let skein := op == 1 || op == 4
  let kc := op == 1 || op == 2
  let sg := op == 3 || (op == 8 && cmdOf r 0)
  let k := 32 * cmdKc r
  let origin := skein && skScaled (fmtOf (cmdSk r)) && f 288 32 % 32 != 0
  let fa := op == 2 && (!mmaFormat (cmdFa r) || 8192 < operandBytes (cmdFa r) k)
  let fb := op == 2 && (!mmaFormat (cmdFb r) || 8192 < operandBytes (cmdFb r) k || (cmdFa r == 1) != (cmdFb r == 1))
  [(448, zero 448 32), (384, sg || zero 384 16),
   (352, op == 7 || op == 8 || zero 352 32), (320, op == 7 || zero 320 32), (288, (skein || zero 288 32) && !origin),
   (256, skein || zero 256 32), (240, skein || zero 240 16), (224, skein || zero 224 16), (208, op == 8 || zero 208 16),
   (74, zero 74 134), (69, if op == 2 then !fb else zero 69 5), (64, if op == 2 then !fa else zero 64 5), (60, zero 60 4),
   (56, f 56 4 == strand), (48, op == 3 || zero 48 8), (46, zero 46 2),
   (40, skein || zero 40 6), (36, if kc then decide (1 ≤ f 36 4 ∧ f 36 4 ≤ 8) else zero 36 4), (35, op == 4 || zero 35 1),
   (32, if op == 4 then decide (f 32 3 ≤ 4) else zero 32 3), (30, zero 30 2),
   (28, op == 4 || op == 6 || op == 7 || zero 28 2), (26, op == 2 || op == 5 || op == 6 || op == 7 || zero 26 2),
   (21, op == 2 || op == 3 || (op == 7 && cmdOf r 1) || zero 21 5),
   (16, op == 1 || op == 2 || op == 3 || (op == 7 && cmdOf r 0) || zero 16 5), (11, zero 11 4),
   (8, match op with
     | 2 => decide (f 8 3 < 2) | 3 => decide (f 8 3 < 2) | 6 => decide (f 8 3 < 2) | 7 => decide (f 8 3 < 4)
     | 8 => decide (f 8 3 < 2) | _ => zero 8 3),
   (0, ok)]

/-- The lowest bit of the first field of a command that breaks its rule, from the highest bits down. -/
def cmdBad (r : BitVec 512) (strand : Nat) (fmtOf : Nat → Nat) : Option Nat :=
  ((cmdRules r strand fmtOf).find? fun e => !e.2).map Prod.fst

/-- The unit stopped with a cause (14 R340, R341). -/
def matrixStop (c : CoreId) (cause strand : Nat) (s : State) : State :=
  s.setCore c { s.core c with stop := true, mcause := BitVec.ofNat 8 cause, mstrand := BitVec.ofNat 4 strand, active := none }

/-- A record of the command queue found bad (14 R347): RECORD_CRC or RECORD_FORMAT with its field. -/
def postBadCommand (c : CoreId) (m : Command) (field : Option Nat) (s : State) : State :=
  let base := [(24, 8, 0x01F3000000000000 + 64 * m.entry), (32, 1, 2), (33, 1, c.panel), (36, 1, c.index)]
  match field with
  | none => postEvent s (tenantOf s m.domain) (srcStrand (mkStrand c m.strand)) 2 base
  | some b => postEvent s (tenantOf s m.domain) (srcStrand (mkStrand c m.strand)) 3 (base ++ [(34, 2, b)])

/-- The event that performs a command of this opcode. -/
def matrixEvent (op : Nat) : Instr :=
  match op with
  | 1 => .matrixLoad | 2 => .matrixMma | 3 => .matrixMrot | 4 => .matrixStore | 5 => .matrixZero | 6 => .matrixMove
  | 7 => .matrixScale | _ => .matrixMark

/-- A command pushed outside fixed mode that waits on a palette counter, or any that signals one (08 R200, 14 R347). -/
def cmdFixedSync (s : State) (m : Command) : Bool :=
  let op := cmdOpc m.word
  ((op == 3 || op == 8) && cmdOf m.word 0 && inPalette s false (cmdSobj m.word)) ||
    (cmdWt m.word && m.horizon.isNone && inPalette s false (recBits m.word 400 16))

/-- The counters that a command names may be used by its domain (06 R155). -/
def cmdObject (s : State) (m : Command) : Option Nat :=
  let op := cmdOpc m.word
  let wt := if cmdWt m.word then objCause s .counter (recBits m.word 400 16) m.domain else none
  let sg := if (op == 3 || op == 8) && cmdOf m.word 0 then objCause s .counter (cmdSobj m.word) m.domain else none
  wt.or sg

/-- The command held by its counter (14 R345 WT). -/
def cmdWaits (s : State) (m : Command) : Bool :=
  cmdWt m.word && decide ((counterOf s (recBits m.word 400 16)).value.toNat < recBits m.word 416 32)

/-- A command has been queued: a change by an instruction before it, still to commit, waits (14 R338). -/
def holdChanges (c : CoreId) (s : State) : State :=
  (coreStrands c).foldl (fun s k =>
    let x := s.strand k
    let hold := fun (p : Pending) => match p.state with
      | .done ws => if changesHeld s k ws then { p with state := .held ws } else p
      | _ => p
    if x.pending.isEmpty then s else s.setStrand k { x with pending := x.pending.map hold }) s

/-- The next queued command considered: a bad one is discarded and stops the unit; one that may start does (14 R340,
R345, R347). A core that stops or is halted starts none (04 R117, R119). -/
def matrixTry (c : CoreId) (s : State) : State :=
  let x := s.core c
  if x.stop || x.active.isSome || !(x.status == .idle || x.status == .running) then s
  else
    match x.cmdq with
    | [] => s
    | m :: rest =>
      let out := s.setCore c { x with cmdq := rest }
      if !recordOk m.word then matrixStop c 0x6F (recBits m.word 56 4) (postBadCommand c m none out)
      else
        match cmdBad m.word m.strand fun _ => skFmt m.skein with
        | some b => matrixStop c 0x70 (recBits m.word 56 4) (postBadCommand c m (some b) out)
        | none =>
          match cmdObject s m with
          | some cause => matrixStop c cause m.strand out
          | none =>
            if cmdFixedSync s m then matrixStop c Cause.fixedSync m.strand out
            else if cmdWaits s m then s
            else (s.setCore c { x with cmdq := rest, active := some m }).post (matrixEvent (cmdOpc m.word)) { core := c }

/-- The oldest push that waits enters the queue, where an entry is free: its instruction is complete (14 R338); n bounds how many. -/
def fillQueue (c : CoreId) : Nat → State → State
  | 0, s => s
  | n + 1, s =>
    let x := s.core c
    match (waitingPushes s c).mergeSort fun a b => a.id ≤ b.id with
    | [] => s
    | m :: _ =>
      if 16 ≤ x.cmdq.length then s
      else
        let k := mkStrand c m.strand
        let y := s.strand k
        let push := fun (p : Pending) => match p.state with
          | .pushes o ws => if o.id == m.id then { p with state := .done ws } else p
          | _ => p
        let s := s.setStrand k { y with pending := y.pending.map push }
        let s := s.setCore c { x with cmdq := x.cmdq ++ [{ m with entry := x.cmdqNext }], cmdqNext := (x.cmdqNext + 1) % 16 }
        fillQueue c n ((holdChanges c s).post .lookaheadCommit { strand := k })

/-- The next queued command considered, and what waits for an entry or for a command that has started. -/
def matrixNext (c : CoreId) (s : State) : State :=
  let t := fillQueue c 16 (matrixTry c (fillQueue c 16 s))
  if (t.core c).cmdq == (s.core c).cmdq then t else commandsGone c t

/-- The command that a strand pushes now (14 R338): with its pattern slots and the skein that it names, as it sees them. -/
def commandOf (k : StrandId) (word : BitVec 512) (s : State) : Command :=
  let y := (s.strand k).seen
  { word := word, strand := k.num, entry := (s.core k.core).cmdqNext, domain := y.domain
    horizon := if y.isFixed then some (horizon s k) else none
    id := s.nextId, pats := y.pat.toList, skein := skeinSeen s k (cmdSk word), role := y.role }
/-- A store into the queue window finds no entry, or pushes before it that wait for one (14 R338). -/
def queueFull (s : State) (c : CoreId) : Bool := decide (16 ≤ (s.core c).cmdq.length) || !(waitingPushes s c).isEmpty
/-- A command pushed at the tail (14 R338); the caller has checked that an entry is free. -/
def matrixPush (k : StrandId) (word : BitVec 512) (s : State) : State :=
  let x := s.core k.core
  let m := commandOf k word s
  let t := holdChanges k.core <|
    (s.fresh.2).setCore k.core { x with cmdq := x.cmdq ++ [m], cmdqNext := (x.cmdqNext + 1) % 16 }
  matrixNext k.core t

/-- The unit is busy: a command runs or is queued. -/
def matrixBusy (x : Core) : Bool := x.active.isSome || !x.cmdq.isEmpty

/-- A command that was pushed before an item number is not done (08 R189). -/
def busyBefore (s : State) (c : CoreId) (mark : Nat) : Bool :=
  ((s.core c).active.toList ++ commandsDue s c).any fun m => decide (m.id < mark)

/-- MSTAT (14 R341). -/
def mstat (x : Core) : W64 :=
  BitVec.ofNat 64 (x.markv.toNat * 2 ^ 48 + x.mcause.toNat * 2 ^ 40 + x.mstrand.toNat * 2 ^ 36 + x.cmdq.length * 2 ^ 22 +
    bit x.active.isSome * 2 ^ 21 + bit x.stop * 2 ^ 20 + bit x.mbound * 2 ^ 6 + x.mflags.toNat)

/-! ## Task completion (04 R108) -/

/-- No strand of a task is live on the core and its matrix unit is idle or stopped: its task is complete (04 R108), or,
where none runs, the core is IDLE (R107). -/
def taskCheck (c : CoreId) (s : State) : State :=
  if !(coreStrands c).any (taskStrand s) && (!matrixBusy (s.core c) || (s.core c).stop) then
    if (runningRec s c).isSome then s.post .taskComplete { core := c } else idleCore c s
  else s

/-! ## Counters (06 R157, 08 R198) -/

/-- What follows a counter's new value: waiters woken, records made ready, held commands looked at. -/
def counterMoved (id : Nat) (deposit : Option Horizon) (s : State) : State :=
  let v := (counterOf s id).value
  let s := wakeAll 2 id (fun x => match x.wait with | .counter _ w => w.toNat ≤ v.toNat | _ => false) deposit s
  let s := s.post .recordReady { a := id, v := v.setWidth 64 }
  s.cores.foldl (fun s e => if e.2.cmdq.isEmpty then s else matrixNext e.1 s) s

/-- A signal of a counter (06 R157). -/
def signalCounter (id : Nat) (amount : BitVec 32) (s : State) : State :=
  let c := counterOf s id
  counterMoved id none (setCounter id { c with value := c.value + amount } s)

/-- A horizon with entry j replaced. -/
def withEntry (h : Horizon) (j : Nat) (g : BitVec 18) : Horizon :=
  (List.range 16).map fun i => if i = j then g else h.getD i 0

/-- A fixed-mode signal (08 R198): the deposit kept with its value; of more than 16 the oldest goes. -/
def signalFixed (k : StrandId) (id j : Nat) (amount : BitVec 32) (h : Horizon) (s : State) : State :=
  let c := counterOf s id
  let v := c.value + amount
  let dep := withEntry h j (v.setWidth 18)
  let l := c.deposits ++ [(v, dep)]
  let c := { c with value := v, signaller := some k }
  let c := if l.length ≤ 16 then { c with deposits := l }
    else
      let out := ((l.head?).map Prod.fst).getD 0
      { c with deposits := l.drop 1, dropped := some (match c.dropped with | some d => if d.toNat < out.toNat then out else d | none => out) }
  counterMoved id (some dep) (setCounter id c s)

/-- What a fixed-mode wait for w joins (08 R198): nothing, a deposit, or FIXED_HISTORY. -/
inductive Joined where
  | nothing
  | deposit (h : Horizon)
  | history
  deriving DecidableEq, Repr

/-- The join of a satisfied fixed-mode wait on a counter. -/
def counterJoin (c : Counter) (w : BitVec 32) : Joined :=
  if w.toNat ≤ c.installed.toNat then .nothing
  else
    match c.dropped with
    | some d => if w.toNat ≤ d.toNat then .history else kept c.deposits
    | none => kept c.deposits
where
  /-- The first kept deposit that reached w. -/
  kept (l : List (BitVec 32 × Horizon)) : Joined :=
    match l.find? fun e => w.toNat ≤ e.1.toNat with
    | some e => .deposit e.2
    | none => .nothing

/-! ## Barriers (06 R156, 08 R198) -/

/-- An arrival would overrun (06 R156). -/
def overruns (b : Barrier) (q : Bool) : Bool := q != b.phase && b.nxt + 1 == b.expect

/-- A join of horizons that may be absent. -/
def joinOpt (a b : Option Horizon) : Option Horizon :=
  match a, b with
  | some x, some y => some (joinDeposits x y)
  | some x, none => some x
  | none, y => y

/-- An arrival for phase q that does not overrun; in fixed mode it brings a horizon, and j is the palette index. -/
def arriveBarrier (id : Nat) (q : Bool) (h : Option Horizon) (j : Nat) (s : State) : State :=
  let b := barrierOf s id
  if q == b.phase then
    let join := joinOpt b.joinCur h
    if b.cur + 1 == b.expect then
      let g := b.gen + 1
      let dep := join.map fun d => withEntry d j g
      let s := setBarrier id { b with phase := !b.phase, cur := b.nxt, nxt := 0, gen := g
                                      joinCur := b.joinNxt, joinNxt := none, deposit := dep } s
      wakeAll 1 id (fun x => match x.wait with | .barrier _ p => p == q | _ => false) dep s
    else setBarrier id { b with cur := b.cur + 1, joinCur := join } s
  else setBarrier id { b with nxt := b.nxt + 1, joinNxt := joinOpt b.joinNxt h } s

/-! ## Rings (06 R158) -/

/-- A ring holds a filled slot. -/
def ringReady (r : Ring) : Bool := r.wr != r.rd
/-- A ring is full. -/
def ringFull (r : Ring) : Bool := (r.wr - r.rd).toNat == r.slots.toNat
/-- The scratchpad offset of slot i. -/
def ringOffset (r : Ring) (i : BitVec 16) : Nat := r.base + i.toNat % r.slots.toNat * r.size
/-- A post: WR advances and awaiters are woken. -/
def postRing (id : Nat) (s : State) : State :=
  let r := ringOf s id
  wakeAll 3 id (fun _ => true) none (setRing id { r with wr := r.wr + 1 } s)

/-! ## Conditions of waits (06 R145) -/

/-- The strand has four packets that are neither accepted nor ended (14 R324). -/
def sendFull (s : State) (k : StrandId) : Bool := 4 ≤ (s.packets.filter fun p => p.sender == some k).length
/-- A free range of the scoreboard. -/
def rangeFree (x : Core) : Bool := decide (x.ranges.length < 16)

/-- The condition of a wait holds now. -/
def waitHolds (s : State) (k : StrandId) (w : WaitOn) : Bool :=
  match w with
  | .nothing => true
  | .channel c => !(channelOf (s.core k.core) c).isEmpty
  | .barrier o q => (barrierOf s o).phase != q
  | .counter o v => decide (v.toNat ≤ (counterOf s o).value.toNat)
  | .ring o => ringReady (ringOf s o)
  | .landing => true
  | .pager => false
  | .join h => !(s.strand (mkStrand k.core h)).live
  | .helperSlot => (freeHelper s k.core).isSome
  | .sendBuffer => !sendFull s k

/-- The deposit that a wait that holds now joins. -/
def waitDeposit (s : State) (w : WaitOn) : Option Horizon :=
  match w with
  | .barrier o _ => (barrierOf s o).deposit
  | .counter o v => match counterJoin (counterOf s o) v with | .deposit h => some h | _ => none
  | _ => none

/-- A waiting strand brought back is looked at again: a condition that holds wakes it. -/
def recheck (k : StrandId) (s : State) : State :=
  let x := s.strand k
  if x.state == .waiting && !x.satisfied && waitHolds s k x.wait then
    (s.setStrand k { x with satisfied := true, deposit := waitDeposit s x.wait }).post .strandWake
      { a := (x.wait.code k).1, b := (x.wait.code k).2 }
  else s

end Sys2Proof.Machine
end

