-- ==== Sys2Proof/Machine/Memory.lean ====
section
/-!
DEFINITION. Memory.lean: loads and stores (13 R288, R289), gather and scatter (R290), line moves and fills (R291),
pattern descriptors (R310), cache control (R313), DRAM rows (R314, 02 R47–R50) and fences (R315, 08 R189).
-/
namespace Sys2Proof.Machine

/-! ## Format M -/

/-- The access size s. -/
def accessSize (o : MemOps) : Nat := 2 ^ o.sz.toNat
/-- The covered lanes c. -/
def covered (o : MemOps) : Nat := accessSize o / laneBytes o.fmt
/-- The enabled lanes among the first n. -/
def lanesOn (o : MemOps) (x : Strand) (n : Nat) : List Nat := pick n (x.guard o.k)
/-- The address is aligned (13 R288). -/
def aligned (o : MemOps) (addr : W64) : Bool :=
  addr.toNat % (if accessSize o ≤ 8 then accessSize o else laneBytes o.fmt) == 0
/-- The post-increment of format M. -/
def memBump (o : MemOps) (x : Strand) : List RegWrite := bump x o.ip o.p

/-- Runs of consecutive lanes: the first of each, and how many. -/
def runs : List Nat → List (Nat × Nat)
  | [] => []
  | i :: is =>
    match runs is with
    | (j, n) :: rs => if i + 1 = j then (i, n + 1) :: rs else (i, 1) :: (j, n) :: rs
    | [] => [(i, 1)]

/-- The address of lane i of a strip of n-byte lanes. -/
def laneVa (base : W64) (n i : Nat) : Nat := (base + BitVec.ofNat 64 (i * n)).toNat

/-- The checks of an access of format M before its bytes are looked at: alignment, if a lane is enabled; an acquire or
release in fixed mode (08 R200). -/
def memCheck (o : MemOps) (x : Strand) (lanes : List Nat) : Act Unit := do
  let base := (x.ptr o.p).base
  if !lanes.isEmpty && !aligned o base then trapAt Cause.misaligned base
  if o.ord != 0 && x.isFixed then trapAt Cause.fixedSync base

/-- A load: the lanes taken from memory (each run of enabled lanes one access), and A from them; an acquire is
performed when the value is bound (08 R183). -/
def loadBody (o : MemOps) (lanes : Strand → List Nat) (f : Strand → (Nat → Nat) → Strip) (x : Strand) : Act Effect := do
  let k := (← get).cur
  let base := (x.ptr o.p).base
  let n := laneBytes o.fmt
  memCheck o x (lanes x)
  let l ← load k .read ((runs (lanes x)).map fun r => (laneVa base n r.1, r.2 * n))
  if o.ord = 1 then modify (acquire k.core)
  pure { ws := .a (f x fun i => ofBytes (gathered l (laneVa base n i) n)) :: memBump o x }

/-- The covered lanes loaded; the others as they were. -/
def loadMerge (o : MemOps) (x : Strand) (v : Nat → Nat) : Strip :=
  let w := laneBits o.fmt
  (mapLanes w (fun i => i < covered o && x.guard o.k i) x.a fun i => (v i, 0)).1
/-- As loadMerge, and the bytes from s on are zero. -/
def loadZero (o : MemOps) (x : Strand) (v : Nat → Nat) : Strip :=
  BitVec.ofNat 1024 ((loadMerge o x v).toNat % 2 ^ (8 * accessSize o))
/-- One element in every enabled lane. -/
def loadBroadcast (o : MemOps) (x : Strand) (v : Nat → Nat) : Strip :=
  (mapLanes (laneBits o.fmt) (x.guard o.k) x.a fun _ => (v 0, 0)).1
/-- The lanes that LDA loads. -/
def coveredOn (o : MemOps) (x : Strand) : List Nat := lanesOn o x (covered o)
/-- The one element of LDA.BC, if a lane is enabled. -/
def firstIfAny (o : MemOps) (x : Strand) : List Nat :=
  if (lanesOn o x (1024 / laneBits o.fmt)).isEmpty then [] else [0]

/-- The store pushes a matrix command (14 R338). -/
def pushes (o : MemOps) (x : Strand) : Bool :=
  let base := (x.ptr o.p).base.toNat
  base / 2 ^ 48 == 0x1F3 && base % 2 ^ 48 < 0x400 && base % 64 == 0 && o.sz == 6 && o.ord == 0 &&
    (coveredOn o x).length == covered o

/-- What a store of strips stores: each run of enabled covered lanes, with its address. -/
def staReqs (o : MemOps) (x : Strand) : List (Nat × List Byte) :=
  let n := laneBytes o.fmt
  (runs (coveredOn o x)).map fun r => (laneVa (x.ptr o.p).base n r.1, ((stripBytes x.a).drop (r.1 * n)).take (r.2 * n))

/-- STA (13 R289): the enabled covered lanes stored; a release waits for what is before it (08 R183). -/
def staBody (o : MemOps) (x : Strand) : Act Effect := do
  let k := (← get).cur
  memCheck o x (coveredOn o x)
  if pushes o x then
    awaitAcquire k
    let s ← get
    let word := BitVec.ofNat 512 x.a.toNat
    if queueFull s k.core then
      modify fun s => s.fresh.2
      pure { ws := memBump o x, lasts := some (.pushes (commandOf k word s) (memBump o x)) }
    else
      modify (matrixPush k word)
      pure { ws := memBump o x }
  else
    if o.ord = 2 then awaitCore k
    let id ← store k (staReqs o x)
    pure { ws := memBump o x, async := id }

/-- LDA, the merge load. -/
def execLda (o : MemOps) (s : State) : Host.Outcome State Fault Refusal :=
  perform (.lda o) o.la (loadBody o (coveredOn o) (loadMerge o)) s
/-- LDA.BC -/
def execLdaBc (o : MemOps) (s : State) : Host.Outcome State Fault Refusal :=
  perform (.ldaBc o) o.la (loadBody o (firstIfAny o) (loadBroadcast o)) s
/-- LDA.ZX -/
def execLdaZx (o : MemOps) (s : State) : Host.Outcome State Fault Refusal :=
  perform (.ldaZx o) o.la (loadBody o (coveredOn o) (loadZero o)) s
/-- STA -/
def execSta (o : MemOps) (s : State) : Host.Outcome State Fault Refusal :=
  perform (.sta o) o.la (staBody o) s

/-! ## Gather and scatter (13 R290) -/

/-- The address of the element that an index names. -/
def elementVa (o : MemOps) (x : Strand) (index : Nat) : Nat :=
  let n := laneBytes o.fmt
  ((x.ptr o.p).base + BitVec.ofInt 64 (toSigned (8 * n) index * n)).toNat

/-- Every element address is a multiple of its size, or the first that is not faults. -/
def elementsAligned (n : Nat) (vas : List Nat) : Act Unit :=
  match vas.find? fun va => va % n != 0 with
  | some va => trapAt Cause.misaligned (BitVec.ofNat 64 va)
  | none => pure ()

/-- GATHER -/
def gatherBody (o : MemOps) (x : Strand) : Act Effect := do
  let k := (← get).cur
  let w := laneBits o.fmt
  let n := laneBytes o.fmt
  let va := fun i => elementVa o x (lane w x.a i)
  let lanes := lanesOn o x (1024 / w)
  elementsAligned n (lanes.map va)
  let l ← load k .read (lanes.map fun i => (va i, n))
  let a := (mapLanes w (x.guard o.k) x.a fun i => (ofBytes (gathered l (va i) n), 0)).1
  pure { ws := .a a :: memBump o x }

/-- What SCATTER stores: data from the lower lanes, indices from the upper. -/
def scatterReqs (o : MemOps) (x : Strand) : List (Nat × List Byte) :=
  let w := laneBits o.fmt
  let n := laneBytes o.fmt
  let h := 1024 / w / 2
  (lanesOn o x h).map fun j => (elementVa o x (lane w x.a (h + j)), toBytes n (lane w x.a j))
/-- SCATTER: a later lane of one element remains. -/
def scatterBody (o : MemOps) (x : Strand) : Act Effect := do
  let k := (← get).cur
  elementsAligned (laneBytes o.fmt) ((scatterReqs o x).map Prod.fst)
  let id ← store k (scatterReqs o x)
  pure { ws := memBump o x, async := id }

/-- GATH_GATHER -/
def execGathGather (o : MemOps) (s : State) : Host.Outcome State Fault Refusal :=
  perform (.gathGather o) o.la (gatherBody o) s
/-- GATH_SCATTER -/
def execGathScatter (o : MemOps) (s : State) : Host.Outcome State Fault Refusal :=
  perform (.gathScatter o) o.la (scatterBody o) s

/-! ## Line moves and fills (13 R291) -/

/-- L, the length in bytes. -/
def lineLength (n : BitVec 6) (sz : BitVec 3) : Nat := (n.toNat + 1) * 2 ^ sz.toNat
/-- A base of LINE is a multiple of s. -/
def lineAligned (sz : BitVec 3) (base : W64) : Act Unit :=
  if base.toNat % 2 ^ sz.toNat != 0 then trapAt Cause.misaligned base else pure ()

/-- The increments of MOVE: P⟨pd⟩, then P⟨ps⟩, which may be one register. -/
def moveBumps (x : Strand) (d : Bool) (p : BitVec 3) (s : Bool) (q : BitVec 3) : List RegWrite :=
  let first := bump x d p
  first ++ bump (first.foldl Strand.write x) s q

/-- len bytes moved from src to dst: every source byte is read before a destination byte is written; poison moves with
its sector (05 R132). -/
def moveBytes (k : StrandId) (dst src len : Nat) : Act (Option Nat) := do
  awaitAcquire k
  modify fun st => (cutLines (len / 128 + 2) src len).foldl (fun st r => dropIfGone k.core (r.1 / 128) st) st
  let from_ ← resolve k .read [(src, len)]
  let dest ← resolve k .write [(dst, len)]
  fixedLoad k from_
  panelLoads k true from_
  let moved := (← movePieces k from_).flatMap Prod.snd
  let byte := fun (a : Nat) => moved.getD (a - dst) (0, false)
  storePieces k (fun a => (byte a).2) (withBytes (fun a => (byte a).1) dest)

/-- MOVE -/
def lineMoveBody (n : BitVec 6) (sz : BitVec 3) (s : Bool) (q : BitVec 3) (d : Bool) (p : BitVec 3) (x : Strand) : Act Effect := do
  let k := (← get).cur
  let dst := (x.ptr p).base
  let src := (x.ptr q).base
  lineAligned sz dst
  lineAligned sz src
  let id ← moveBytes k dst.toNat src.toNat (lineLength n sz)
  pure { ws := moveBumps x d p s q, async := id }

/-- The 8 bytes of lane 0, repeated. -/
def fillBytes (x : Strand) (len : Nat) : List Byte := (List.range len).map fun i => (stripBytes x.a).getD (i % 8) 0
/-- FILL -/
def lineFillBody (n : BitVec 6) (sz : BitVec 3) (d : Bool) (p : BitVec 3) (x : Strand) : Act Effect := do
  let k := (← get).cur
  let dst := (x.ptr p).base
  lineAligned sz dst
  let id ← store k [(dst.toNat, fillBytes x (lineLength n sz))]
  pure { ws := bump x d p, async := id }

/-- LINE_MOVE -/
def execLineMove (la : BitVec 4) (n : BitVec 6) (sz : BitVec 3) (si : Bool) (q : BitVec 3) (d : Bool) (p : BitVec 3)
    (s : State) : Host.Outcome State Fault Refusal :=
  perform (.lineMove la n sz si q d p) la (lineMoveBody n sz si q d p) s
/-- LINE_FILL -/
def execLineFill (la : BitVec 4) (n : BitVec 6) (sz : BitVec 3) (d : Bool) (p : BitVec 3) (s : State) :
    Host.Outcome State Fault Refusal :=
  perform (.lineFill la n sz d p) la (lineFillBody n sz d p) s

/-! ## Pattern descriptors (13 R310–R312) -/

/-- n bytes at va lie in the own-scratchpad window. -/
def inScratch (va : W64) (n : Nat) : Bool := scratchBase ≤ va.toNat && va.toNat + n ≤ scratchBase + scratchSize
/-- The 32 bytes of a descriptor lie in the own scratchpad, aligned. -/
def patPlace (va : W64) : Act Unit :=
  if inScratch va 32 && va.toNat % 32 == 0 then pure () else trapAt Cause.patternInvalid va
/-- A change of a slot, or of a skein: it stays pending while a matrix command may use it (09 R220, 14 R338). -/
def changeOf (ws : List RegWrite) : Act Effect := do
  let s ← get
  pure { ws := ws, lasts := if changesHeld s s.cur ws then some (.held ws) else none }

/-- SET -/
def patSetBody (w : BitVec 2) (p : BitVec 3) (x : Strand) : Act Effect := do
  let k := (← get).cur
  let va := (x.ptr p).base
  patPlace va
  let l ← load k .read [(va.toNat, 32)]
  let d := BitVec.ofNat 256 (ofBytes (gathered l va.toNat 32))
  if patInvalid d then trapAt Cause.patternInvalid va
  changeOf [.pat w d]
/-- GET -/
def patGetBody (w : BitVec 2) (p : BitVec 3) (x : Strand) : Act Effect := do
  let k := (← get).cur
  let va := (x.ptr p).base
  patPlace va
  let id ← store k [(va.toNat, toBytes 32 (x.pat.toList.getD w.toNat 0).toNat)]
  pure { async := id }
/-- CLR: KIND := 0. -/
def patClrBody (w : BitVec 2) (x : Strand) : Act Effect := do
  changeOf [.pat w (BitVec.ofNat 256 ((x.pat.toList.getD w.toNat 0).toNat % 2 ^ 252))]

/-- PATN_SET -/
def execPatnSet (la : BitVec 4) (w : BitVec 2) (p : BitVec 3) (s : State) : Host.Outcome State Fault Refusal :=
  perform (.patnSet la w p) la (patSetBody w p) s
/-- PATN_GET -/
def execPatnGet (la : BitVec 4) (w : BitVec 2) (p : BitVec 3) (s : State) : Host.Outcome State Fault Refusal :=
  perform (.patnGet la w p) la (patGetBody w p) s
/-- PATN_CLR -/
def execPatnClr (la : BitVec 4) (w : BitVec 2) (s : State) : Host.Outcome State Fault Refusal :=
  perform (.patnClr la w) la (patClrBody w) s

/-! ## Cache control (13 R313) -/

/-- Virtual line j lies in the range of a pointer, which wraps with the address. -/
def inRange (x : Pointer) (line : Nat) : Bool :=
  decide ((line + 2 ^ 57 - x.base.toNat / 128) % 2 ^ 57 < x.count.toNat)

/-- The lines of an L1 that a test picks give up their owned words, which stay as copies. -/
def flushLines (c : CoreId) (test : Nat → Bool) (s : State) : State :=
  let x := s.core c
  let s := (x.l1.filter fun l => test l.line).foldl (fun s l => releaseOwned c l s) s
  s.setCore c (x.withL1 (x.l1.map fun l => if test l.line then { l with owned := 0 } else l))
/-- The lines that a test picks leave the L1, those of local-resident and expander pages. -/
def dropLines (c : CoreId) (test : Nat → Bool) (s : State) : State :=
  let x := s.core c
  s.setCore c (x.withL1 (x.l1.filter fun l => !(test l.line && l.media.isSome)))

/-- What an address without rights leads to in the home caches. -/
inductive Resident where
  /-- a line of device memory, at this key -/
  | line (key : Nat)
  /-- no line of a local-resident or expander page that may be reached now -/
  | skipped
  /-- held at the translation slice (02 R54, R75) -/
  | held
  deriving DecidableEq, Repr

/-- The line behind a virtual address whose page is local-resident or an expander page. -/
def residentKey (panel va : Nat) (s : State) : Resident × State :=
  if 2 ^ 57 ≤ va || va / 2 ^ 52 = 0x1F then (.skipped, s)
  else
    let (w, s) := translate panel va s
    match w with
    | .leaf e level =>
      if pteState e = 2 || pteState e = 5 then
        match leafPlace s .read e level va with
        | .ok (.dev key) => (.line key, s)
        | .error (.hold _) => (.held, s)
        | _ => (.skipped, s)
      else (.skipped, s)
    | .hold _ => (.held, s)
    | .refresh _ => (.held, s)
    | _ => (.skipped, s)

/-- n lines from a virtual line on fetched into their home caches; other lines are skipped. One that has to wait for
self-refresh to end enters its slice's queue (02 R75). Whether some line is not done. -/
def prefetchLines (panel line n : Nat) (s : State) : Bool × State :=
  (List.range n).foldl (fun b i =>
    let va := (line + i) % 2 ^ 57 * 128
    let (k, s) := residentKey panel va b.2
    match k with
    | .line key =>
      if mustWait s key then (true, queueRead key none s)
      else (b.1, homeTouch key false (countLine panel va (.dev key) s))
    | .skipped => (b.1, s)
    | .held => (true, s)) (false, s)

/-- The object of PF2's notification (lane 0): a barrier with its phase, or a counter. -/
def pf2Kind (v : W64) : ObjKind := if v.getLsbD 17 then .barrier else .counter

/-- PF2: the lines are fetched; a notification follows the last and completes the instruction. -/
def pf2Body (notify : Bool) (p : BitVec 3) (x : Strand) : Act Effect := do
  let s ← get
  let k := s.cur
  let v := lane64 x.a 0
  if notify then
    if x.isFixed then trapHere x Cause.fixedSync
    match objCause s (pf2Kind v) (v.toNat % 65536) x.domain with
    | some c => trapHere x c
    | none => pure ()
    if inPalette s (v.getLsbD 17) (v.toNat % 65536) then trapHere x Cause.fixedSync
  let ptr := x.ptr p
  if ← modifyGet (prefetchLines k.core.panel (ptr.base.toNat / 128) ptr.count.toNat) then throw .stall
  if notify then
    let id ← modifyGet State.fresh
    let r : Prefetch := { id := id, notify := some v, lines := ptr.count.toNat }
    modify fun s => ({ s with prefetches := s.prefetches ++ [r] } : State).post .pf2Notify { id := id, strand := k }
    pure { async := some id }
  else pure {}

/-- FLUSH, INV and FLUSHALL fault in fixed mode (13 R313). -/
def cacheGuard (x : Strand) : Act Unit := if x.isFixed then trapHere x Cause.fixedPath else pure ()

/-- FLUSH -/
def flushBody (p : BitVec 3) (x : Strand) : Act Effect := do
  cacheGuard x
  let c := (← get).cur.core
  modify (flushLines c (inRange (x.ptr p)))
  pure {}
/-- INV -/
def invBody (p : BitVec 3) (x : Strand) : Act Effect := do
  cacheGuard x
  let c := (← get).cur.core
  modify fun s => dropLines c (inRange (x.ptr p)) (flushLines c (inRange (x.ptr p)) s)
  pure {}
/-- SINV -/
def sinvBody (_ : Strand) : Act Effect := do
  let c := (← get).cur.core
  modify (acquire c)
  pure {}
/-- FLUSHALL -/
def flushallBody (x : Strand) : Act Effect := do
  cacheGuard x
  let c := (← get).cur.core
  modify (flushLines c fun _ => true)
  pure {}

/-- CACH_PF2 -/
def execCachPf2 (la : BitVec 4) (n : Bool) (p : BitVec 3) (s : State) : Host.Outcome State Fault Refusal :=
  perform (.cachPf2 la n p) la (pf2Body n p) s
/-- CACH_FLUSH -/
def execCachFlush (la : BitVec 4) (p : BitVec 3) (s : State) : Host.Outcome State Fault Refusal :=
  perform (.cachFlush la p) la (flushBody p) s
/-- CACH_INV -/
def execCachInv (la : BitVec 4) (p : BitVec 3) (s : State) : Host.Outcome State Fault Refusal :=
  perform (.cachInv la p) la (invBody p) s
/-- CACH_SINV -/
def execCachSinv (la : BitVec 4) (s : State) : Host.Outcome State Fault Refusal :=
  perform (.cachSinv la) la sinvBody s
/-- CACH_FLUSHALL -/
def execCachFlushall (la : BitVec 4) (s : State) : Host.Outcome State Fault Refusal :=
  perform (.cachFlushall la) la flushallBody s

/-! ## DRAM rows (13 R314; 02 R47–R50) -/

/-- What DRAM acts on at an address: the physical address of a local-resident or expander page; none for NOT_LOCAL. -/
def dramPa (k : StrandId) (va : W64) : Act (Option Nat) := do
  if 2 ^ 57 ≤ va.toNat then trapAt Cause.addrNoncanon va
  if va.toNat / 2 ^ 52 = 0x1F then pure none
  else
    let d := ((← get).strand k).domain
    match ← modifyGet (plbLookup k.core d va.toNat) with
    | .error (.hold r) =>
      strandFault k .read va.toNat (.hold r)
      pure none
    | .error _ => pure none
    | .ok rights =>
      if !Acc.allowed .read rights then trapAt Cause.accessRights va
      match ← modifyGet (translate k.core.panel va.toNat) with
      | .leaf e level =>
        pure (if pteState e = 2 || pteState e = 5 then some (pteTarget e * 65536 + va.toNat % 2 ^ levelShift level) else none)
      | .hold pa =>
        strandFault k .read va.toNat (.hold (some (pa / 2 ^ 21)))
        pure none
      | .refresh _ =>
        strandFault k .read va.toNat (.hold none)
        pure none
      | _ => pure none

/-- Cases 1–3 of R47, in that order, for the physical address of a local-resident or expander page: the outcome, or the far row's stack,
subarray and row. DEDUCED (log 57): the order of R47 stands before the sentence of 13 R314 on pages that are not local-resident, so an
expander page meets case 1 first. -/
def dramCases (s : State) (pa : Nat) : Except Nat (Nat × Nat × Nat) :=
  let e := paEntry s pa
  if rgState e != 0 || (regionOk s e && (s.stack (rgStack e)).refresh) then .error 6
  else if !regionOk s e || rgClass e = 2 then .error 3
  else if rgClass e = 0 then .error 2
  else
    let key := regionKey e pa
    .ok (keyStack key, farPlace s key)

/-- The slot counts against a tenant (02 R47): its row's until that is evicted, and DESIGN CHOICE (log 35) that of the row that
it is to receive. -/
def Slot.counts (v : Slot) (tenant : Nat) : Bool :=
  v.state != .free && (v.tenant == tenant || (v.next.isSome && v.heir == tenant))
/-- The promotion slots of the package that a tenant holds. -/
def slotsOf (s : State) (tenant : Nat) : Nat :=
  (s.gstacks.map fun x => (x.2.slots.filter fun e => e.2.counts tenant).length).sum
/-- The promotion quota of a strand's tenant, or of firmware. -/
def quotaOf (s : State) : Option Nat → Nat
  | some t => (s.tenant t).pquota.toNat
  | none => Config.firmwareQuota

/-- The age for the next promotion of a stack. -/
def nextAge (stack : Nat) (s : State) : Nat × State :=
  let x := s.stack stack
  (x.ageNext, s.setStack stack { x with ageNext := x.ageNext + 1 })

/-- The slot of a subarray with the least age among those that may be evicted. -/
def victim (x : Stack) (sub : Nat) : Option Nat :=
  let l := x.slots.filter fun e => e.1 / 16 == sub && !e.2.pin
  (l.foldl (fun best e =>
    match best with
    | none => some e
    | some b => if e.2.age < b.2.age then some e else some b) none).map Prod.fst

/-- Cases 5–7 of R47: the outcome. -/
def promoteRow (tenant : Option Nat) (stack sub row : Nat) (s : State) : Nat × State :=
  let t := tenant.getD 255
  if quotaOf s tenant ≤ slotsOf s t then (4, s)
  else
    let (age, s) := nextAge stack s
    let x := s.stack stack
    let fill := fun n s => (setSlot stack n { state := .filling, row := row, tenant := t, age := age } s).post
      .promotionFillDone { stack := stack, a := n }
    match (List.range 16).find? fun i => (Table.get {} x.slots (sub * 16 + i)).state == .free with
    | some i => (0, fill (sub * 16 + i) s)
    | none =>
      match victim x sub with
      | none => (6, s)
      | some n =>
        let v := Table.get {} x.slots n
        match v.state with
        | .clean => (0, fill n s)
        | .dirty => (0, (setSlot stack n { v with state := .filling, next := some row, heir := t, age := age } s).post
            .promotionFillDone { stack := stack, a := n })
        | _ => (0, setSlot stack n { v with next := some row, heir := t, emptying := false, age := age } s)

/-- PROMOTE of a far row (02 R47). -/
def promote (tenant : Option Nat) (stack sub row : Nat) (s : State) : Nat × State :=
  match slotOf (s.stack stack) sub row with
  | some (n, v) =>
    let (age, s) := nextAge stack s
    (1, setSlot stack n { v with age := age } s)
  | none => promoteRow tenant stack sub row s

/-- PIN (02 R49). -/
def pinRow (tenant : Option Nat) (stack sub row : Nat) (s : State) : Nat × State :=
  let (code, s) := match slotOf (s.stack stack) sub row with
    | some _ => (0, s)
    | none => promoteRow tenant stack sub row s
  if code != 0 then (code, s)
  else
    match slotOf (s.stack stack) sub row with
    | none => (6, s)
    | some (n, v) =>
      if v.pin then (1, s)
      else if 12 ≤ ((s.stack stack).slots.filter fun e => e.1 / 16 == sub && e.2.pin).length then (5, s)
      else (0, setSlot stack n { v with pin := true } s)

/-- UNPIN (02 R49). -/
def unpinRow (_ : Option Nat) (stack sub row : Nat) (s : State) : Nat × State :=
  match slotOf (s.stack stack) sub row with
  | none => (7, s)
  | some (n, v) => (0, setSlot stack n { v with pin := false } s)

/-- DEMOTE (02 R49). -/
def demoteRow (_ : Option Nat) (stack sub row : Nat) (s : State) : Nat × State :=
  match slotOf (s.stack stack) sub row with
  | none => (7, s)
  | some (n, _) => (0, evictSlot stack n s)

/-- DRAM: the outcome code in lane 0. -/
def dramBody (p : BitVec 3) (op : Option Nat → Nat → Nat → Nat → State → Nat × State) (x : Strand) : Act Effect := do
  let k := (← get).cur
  let pa ← dramPa k (x.ptr p).base
  let s ← get
  let place := match pa with
    | some pa => dramCases s pa
    | none => .error 3
  match place with
  | .error c => pure { ws := [.a (setLane64 x.a 0 (BitVec.ofNat 64 c))] }
  | .ok (stack, sub, row) =>
    let c ← modifyGet (op (tenantOf s x.domain) stack sub row)
    pure { ws := [.a (setLane64 x.a 0 (BitVec.ofNat 64 c))] }

/-- DRAM_PROMOTE -/
def execDramPromote (la : BitVec 4) (p : BitVec 3) (s : State) : Host.Outcome State Fault Refusal :=
  perform (.dramPromote la p) la (dramBody p promote) s
/-- DRAM_PIN -/
def execDramPin (la : BitVec 4) (p : BitVec 3) (s : State) : Host.Outcome State Fault Refusal :=
  perform (.dramPin la p) la (dramBody p pinRow) s
/-- DRAM_UNPIN -/
def execDramUnpin (la : BitVec 4) (p : BitVec 3) (s : State) : Host.Outcome State Fault Refusal :=
  perform (.dramUnpin la p) la (dramBody p unpinRow) s
/-- DRAM_DEMOTE -/
def execDramDemote (la : BitVec 4) (p : BitVec 3) (s : State) : Host.Outcome State Fault Refusal :=
  perform (.dramDemote la p) la (dramBody p demoteRow) s

/-! ## Fences (13 R315, 08 R189) -/

/-- A law routine of the hooks. -/
def lawRoutine (r : Nat) : Bool := 24 ≤ r && r ≤ 29
/-- The request is this strand's. -/
def HookReq.mine (k : StrandId) (h : HookReq) : Bool := h.requester == .strand k || h.requester == .append k

/-- The strand's accesses on the paths of a mask are all performed; the matrix path apart. -/
def pathsPerformed (s : State) (k : StrandId) (x : BitVec 7) : Bool :=
  (!x.getLsbD 0 || (corePerformed s k && !s.hookReqs.any fun h => h.mine k && h.carrier)) &&
  (!x.getLsbD 1 || !s.hookReqs.any fun h => h.mine k && !lawRoutine h.routine) &&
  (!x.getLsbD 2 || (!s.ticketReqs.any (fun t => t.strand == k) && !s.landings.any fun l => l.sender == .ticket k)) &&
  (!x.getLsbD 3 || !s.hookReqs.any fun h => h.mine k && lawRoutine h.routine) &&
  (!x.getLsbD 5 || (!s.copyJobs.any (fun j => j.appender == some k) && !s.hookReqs.any fun h => h.requester == .append k))

/-- The item number at the issue of the instruction in hand: what was pushed before it has a lower one. -/
def issueMark (s : State) (k : StrandId) : Nat :=
  match (s.strand k).view with
  | some v => v.mark
  | none => s.nextId

/-- FENC: with a mask that is zero it orders nothing and completes at once; else the strand tries again until the accesses of
X that came before it are performed, and nothing of it issues meanwhile, so that Y asks for nothing more. A stopped matrix unit
faults a fence on the matrix path. -/
def fencBody (x : BitVec 7) (yZero : Bool) (y : Strand) : Act Effect := do
  let s ← get
  let k := s.cur
  let c := s.core k.core
  if x.getLsbD 4 && c.stop then trapHere y c.mcause.toNat
  if !yZero && (!pathsPerformed s k x || (x.getLsbD 4 && busyBefore s k.core (issueMark s k))) then throw .stall
  pure {}

/-- FENC -/
def execFenc (y : BitVec 5) (x : BitVec 7) (sz : BitVec 2) (s : State) : Host.Outcome State Fault Refusal :=
  performNow (.fenc y x sz) (fencBody x (y == 0 && sz == 0)) s

end Sys2Proof.Machine
end

