-- ==== Sys2Proof/Machine/Pointer.lean ====
section
/-!
DEFINITION. Pointer.lean: PSET, PADD and PMOV (11 R242–R245), AIMM (R246) and KOPS (R247).
-/
namespace Sys2Proof.Machine

/-! ## Pointer fields -/

/-- A pointer's field changed as a number: 0 base, 1 stride, 2 count. -/
def mapField (x : Pointer) (fld : BitVec 2) (f : Nat → Nat → Nat) : Pointer :=
  match fld.toNat with
  | 0 => { x with base := BitVec.ofNat 64 (f 64 x.base.toNat) }
  | 1 => { x with stride := BitVec.ofNat 32 (f 32 x.stride.toNat) }
  | _ => { x with count := BitVec.ofNat 32 (f 32 x.count.toNat) }

/-- Chunk sub of a field of w bits set to v; the chunks above kept, cleared, or filled with v's sign (11 R242). -/
def setChunk (sub v mode w f : Nat) : Nat :=
  let lo := 16 * sub
  let above := match mode with
    | 0 => f / 2 ^ (lo + 16)
    | 1 => 0
    | _ => if v < 2 ^ 15 then 0 else 2 ^ (w - lo - 16) - 1
  above * 2 ^ (lo + 16) + v * 2 ^ lo + f % 2 ^ lo

/-- PSET -/
def psetBody (n : BitVec 18) (sub fld : BitVec 2) (p : BitVec 3) (x : Strand) : Act Effect :=
  pure { ws := [.p p (mapField (x.ptr p) fld (setChunk sub.toNat (n.toNat % 65536) (n.toNat / 65536)))] }
/-- PADD .imm and .sh12 -/
def paddBody (n : BitVec 18) (scale : Int) (fld : BitVec 2) (p : BitVec 3) (x : Strand) : Act Effect :=
  pure { ws := [.p p (mapField (x.ptr p) fld fun w f => ofInt w ((f : Int) + n.toInt * scale))] }
/-- PADD .step -/
def stepBody (n : BitVec 18) (p : BitVec 3) (x : Strand) : Act Effect :=
  let y := x.ptr p
  pure { ws := [.p p { y with
    base := y.base + BitVec.ofInt 64 (n.toInt * y.stride.toInt)
    count := y.count - BitVec.ofInt 32 n.toInt }] }

/-- PSET -/
def execPset (n : BitVec 18) (sub fld : BitVec 2) (p : BitVec 3) (s : State) : Host.Outcome State Fault Refusal :=
  performNow (.pset n sub fld p) (psetBody n sub fld p) s
/-- PADD_IMM -/
def execPaddImm (n : BitVec 18) (fld : BitVec 2) (p : BitVec 3) (s : State) : Host.Outcome State Fault Refusal :=
  performNow (.paddImm n fld p) (paddBody n 1 fld p) s
/-- PADD_SH12 -/
def execPaddSh12 (n : BitVec 18) (fld : BitVec 2) (p : BitVec 3) (s : State) : Host.Outcome State Fault Refusal :=
  performNow (.paddSh12 n fld p) (paddBody n 4096 fld p) s
/-- PADD_STEP -/
def execPaddStep (n : BitVec 18) (p : BitVec 3) (s : State) : Host.Outcome State Fault Refusal :=
  performNow (.paddStep n p) (stepBody n p) s

/-! ## PMOV (11 R244, R245) -/

/-- The 16-byte image of a pointer, as a number. -/
def Pointer.image (x : Pointer) : Nat := x.base.toNat + x.stride.toNat * 2 ^ 64 + x.count.toNat * 2 ^ 96
/-- The pointer of an image. -/
def ofImage (n : Nat) : Pointer :=
  { base := BitVec.ofNat 64 n, stride := BitVec.ofNat 32 (n / 2 ^ 64), count := BitVec.ofNat 32 (n / 2 ^ 96) }
/-- n bits of A from bit lo on set to v. -/
def setBits (a : Strip) (lo n v : Nat) : Strip :=
  BitVec.ofNat 1024 (a.toNat / 2 ^ (lo + n) * 2 ^ (lo + n) + v % 2 ^ n * 2 ^ lo + a.toNat % 2 ^ lo)

/-- MOV -/
def movPtrBody (src dst : BitVec 3) (x : Strand) : Act Effect := pure { ws := [.p dst (x.ptr src)] }
/-- TOA -/
def ptrToaBody (g p : BitVec 3) (x : Strand) : Act Effect :=
  pure { ws := [.a (setBits x.a (128 * g.toNat) 128 (x.ptr p).image)] }
/-- FROMA -/
def ptrFromaBody (g p : BitVec 3) (x : Strand) : Act Effect :=
  pure { ws := [.p p (ofImage (lane 128 x.a g.toNat))] }
/-- ZERO -/
def zeroPtrBody (p : BitVec 3) (_ : Strand) : Act Effect := pure { ws := [.p p {}] }
/-- GETLINK -/
def getlinkBody (p : BitVec 3) (x : Strand) : Act Effect := pure { ws := [.p p { x.ptr p with base := x.link }] }
/-- SETLINK -/
def setlinkBody (p : BitVec 3) (x : Strand) : Act Effect := pure { ws := [.link (x.ptr p).base] }

/-- The numbers of a pointer group. -/
def groupOf (n m : BitVec 3) : List (BitVec 3) :=
  ((List.range 8).filter fun i => m.toNat ≤ i && i ≤ n.toNat).map (BitVec.ofNat 3)
/-- The group's address is a multiple of 16. -/
def groupPlace (va : W64) : Act Unit := if va.toNat % 16 != 0 then trapAt Cause.misaligned va else pure ()

/-- GSV -/
def gsvBody (inc : Bool) (n m q : BitVec 3) (x : Strand) : Act Effect := do
  let k := (← get).cur
  let va := (x.ptr q).base
  groupPlace va
  let id ← store k [(va.toNat, (groupOf n m).flatMap fun i => toBytes 16 (x.ptr i).image)]
  pure { ws := bump x inc q, async := id }
/-- GLD -/
def gldBody (inc : Bool) (n m q : BitVec 3) (x : Strand) : Act Effect := do
  let k := (← get).cur
  let va := (x.ptr q).base
  groupPlace va
  let g := groupOf n m
  let l ← load k .read [(va.toNat, 16 * g.length)]
  let loaded := g.zipIdx.map fun e => RegWrite.p e.1 (ofImage (ofBytes (gathered l (va.toNat + 16 * e.2) 16)))
  pure { ws := loaded ++ bump x (inc && !g.contains q) q }

/-- PMOV_MOV -/
def execPmovMov (la : BitVec 4) (src dst : BitVec 3) (s : State) : Host.Outcome State Fault Refusal :=
  perform (.pmovMov la src dst) la (movPtrBody src dst) s
/-- PMOV_TOA -/
def execPmovToa (la : BitVec 4) (g p : BitVec 3) (s : State) : Host.Outcome State Fault Refusal :=
  perform (.pmovToa la g p) la (ptrToaBody g p) s
/-- PMOV_FROMA -/
def execPmovFroma (la : BitVec 4) (g p : BitVec 3) (s : State) : Host.Outcome State Fault Refusal :=
  perform (.pmovFroma la g p) la (ptrFromaBody g p) s
/-- PMOV_GSV -/
def execPmovGsv (la : BitVec 4) (c : Bool) (n m q : BitVec 3) (s : State) : Host.Outcome State Fault Refusal :=
  perform (.pmovGsv la c n m q) la (gsvBody c n m q) s
/-- PMOV_GLD -/
def execPmovGld (la : BitVec 4) (c : Bool) (n m q : BitVec 3) (s : State) : Host.Outcome State Fault Refusal :=
  perform (.pmovGld la c n m q) la (gldBody c n m q) s
/-- PMOV_ZERO -/
def execPmovZero (la : BitVec 4) (p : BitVec 3) (s : State) : Host.Outcome State Fault Refusal :=
  perform (.pmovZero la p) la (zeroPtrBody p) s
/-- PMOV_GETLINK -/
def execPmovGetlink (la : BitVec 4) (p : BitVec 3) (s : State) : Host.Outcome State Fault Refusal :=
  perform (.pmovGetlink la p) la (getlinkBody p) s
/-- PMOV_SETLINK -/
def execPmovSetlink (la : BitVec 4) (p : BitVec 3) (s : State) : Host.Outcome State Fault Refusal :=
  perform (.pmovSetlink la p) la (setlinkBody p) s

/-! ## AIMM (11 R246) -/

/-- BCAST: every lane is the constant. -/
def aimmBcastBody (n : BitVec 18) (fld : BitVec 2) (_ : Strand) : Act Effect :=
  let w := aimmWidth fld
  pure { ws := [.a (ofLanes w (1024 / w) fun _ => aimmConst fld n)] }
/-- LANE0, over an accumulator. -/
def aimmLane0Body (keep : Bool) (n : BitVec 18) (fld : BitVec 2) (x : Strand) : Act Effect :=
  pure { ws := [.a (setLane0 (aimmWidth fld) (if keep then x.a else 0) (aimmConst fld n))] }
/-- ADD: every lane plus the constant, wrapping; the format is i64 or i32. -/
def aimmAddBody (n : BitVec 18) (fld : Bool) (x : Strand) : Act Effect :=
  let f : BitVec 2 := if fld then 1 else 0
  let w := aimmWidth f
  pure { ws := [.a (ofLanes w (1024 / w) fun i => (lane w x.a i + aimmConst f n) % 2 ^ w)] }

/-- AIMM_BCAST -/
def execAimmBcast (n : BitVec 18) (fld : BitVec 2) (s : State) : Host.Outcome State Fault Refusal :=
  performNow (.aimmBcast n fld) (aimmBcastBody n fld) s
/-- AIMM_LANE0 -/
def execAimmLane0 (n : BitVec 18) (fld : BitVec 2) (s : State) : Host.Outcome State Fault Refusal :=
  performNow (.aimmLane0 n fld) (aimmLane0Body true n fld) s
/-- AIMM_ONLY0 -/
def execAimmOnly0 (n : BitVec 18) (fld : BitVec 2) (s : State) : Host.Outcome State Fault Refusal :=
  performNow (.aimmOnly0 n fld) (aimmLane0Body false n fld) s
/-- AIMM_ADD -/
def execAimmAdd (n : BitVec 18) (fld : Bool) (s : State) : Host.Outcome State Fault Refusal :=
  performNow (.aimmAdd n fld) (aimmAddBody n fld) s

/-! ## KOPS (11 R247) -/

/-- A mask computed from the strand. -/
def maskBody (d : BitVec 2) (f : Strand → Mask) (x : Strand) : Act Effect := pure { ws := [.k d (f x)] }
/-- The lowest set bit of a mask alone. -/
def firstBit (m : Mask) : Mask := m &&& -m
/-- The low c bits set. -/
def prefixMask (c : Nat) : Mask := BitVec.ofNat 128 (2 ^ min c 128 - 1)
/-- TOA -/
def maskToaBody (a : BitVec 2) (x : Strand) : Act Effect := pure { ws := [.a (setBits x.a 0 128 (x.k a).toNat)] }
/-- POPC -/
def maskPopcBody (a : BitVec 2) (x : Strand) : Act Effect :=
  pure { ws := [.a (setLane64 x.a 0 (BitVec.ofNat 64 (countBits (x.k a).toNat 128)))] }

/-- KOPS_AND -/
def execKopsAnd (d a b : BitVec 2) (s : State) : Host.Outcome State Fault Refusal :=
  performNow (.kopsAnd d a b) (maskBody d fun x => x.k a &&& x.k b) s
/-- KOPS_OR -/
def execKopsOr (d a b : BitVec 2) (s : State) : Host.Outcome State Fault Refusal :=
  performNow (.kopsOr d a b) (maskBody d fun x => x.k a ||| x.k b) s
/-- KOPS_XOR -/
def execKopsXor (d a b : BitVec 2) (s : State) : Host.Outcome State Fault Refusal :=
  performNow (.kopsXor d a b) (maskBody d fun x => x.k a ^^^ x.k b) s
/-- KOPS_ANDN -/
def execKopsAndn (d a b : BitVec 2) (s : State) : Host.Outcome State Fault Refusal :=
  performNow (.kopsAndn d a b) (maskBody d fun x => x.k a &&& ~~~(x.k b)) s
/-- KOPS_NOT -/
def execKopsNot (d a : BitVec 2) (s : State) : Host.Outcome State Fault Refusal :=
  performNow (.kopsNot d a) (maskBody d fun x => ~~~(x.k a)) s
/-- KOPS_MOV -/
def execKopsMov (d a : BitVec 2) (s : State) : Host.Outcome State Fault Refusal :=
  performNow (.kopsMov d a) (maskBody d fun x => x.k a) s
/-- KOPS_SET -/
def execKopsSet (d : BitVec 2) (s : State) : Host.Outcome State Fault Refusal :=
  performNow (.kopsSet d) (maskBody d fun _ => BitVec.allOnes 128) s
/-- KOPS_CLR -/
def execKopsClr (d : BitVec 2) (s : State) : Host.Outcome State Fault Refusal :=
  performNow (.kopsClr d) (maskBody d fun _ => 0) s
/-- KOPS_FIRST -/
def execKopsFirst (d a : BitVec 2) (s : State) : Host.Outcome State Fault Refusal :=
  performNow (.kopsFirst d a) (maskBody d fun x => firstBit (x.k a)) s
/-- KOPS_FROMA -/
def execKopsFroma (d : BitVec 2) (s : State) : Host.Outcome State Fault Refusal :=
  performNow (.kopsFroma d) (maskBody d fun x => x.a.setWidth 128) s
/-- KOPS_TOA -/
def execKopsToa (a : BitVec 2) (s : State) : Host.Outcome State Fault Refusal :=
  performNow (.kopsToa a) (maskToaBody a) s
/-- KOPS_PREFIX -/
def execKopsPrefix (d : BitVec 2) (p : BitVec 3) (s : State) : Host.Outcome State Fault Refusal :=
  performNow (.kopsPrefix d p) (maskBody d fun x => prefixMask (x.ptr p).count.toNat) s
/-- KOPS_POPC -/
def execKopsPopc (a : BitVec 2) (s : State) : Host.Outcome State Fault Refusal :=
  performNow (.kopsPopc a) (maskPopcBody a) s

end Sys2Proof.Machine
end

