-- ==== Sys2Proof/Machine/Branch.lean ====
section
/-!
DEFINITION. Branch.lean: branches (10 R232, 11 R248) and jumps (11 R249).
-/
namespace Sys2Proof.Machine

/-- The target of a branch: its own address and twice its offset. -/
def branchTarget (n : BitVec 19) (x : Strand) : W64 := x.here + BitVec.ofInt 64 (2 * n.toInt)
/-- The address of the instruction after a 32-bit one. -/
def afterWord (x : Strand) : W64 := x.here + 4

/-- A branch taken on a condition of the strand. -/
def branchBody (n : BitVec 19) (taken : Strand → Bool) (x : Strand) : Act Effect :=
  pure { next := if taken x then some (branchTarget n x) else none }
/-- A call. -/
def callBody (n : BitVec 19) (x : Strand) : Act Effect :=
  pure { ws := [.link (afterWord x)], next := some (branchTarget n x) }
/-- A jump: an odd target faults FETCH_ALIGN and changes nothing. -/
def jumpBody (target : Strand → W64) (ws : Strand → List RegWrite) (x : Strand) : Act Effect :=
  if (target x).getLsbD 0 then trapHere x Cause.fetchAlign else pure { ws := ws x, next := some (target x) }

/-- A lane 0 as i64. -/
def lane0 (x : Strand) : W64 := lane64 x.a 0

/-- BR -/
def execBr (n : BitVec 19) (s : State) : Host.Outcome State Fault Refusal :=
  performNow (.br n) (branchBody n fun _ => true) s
/-- BR_CALL -/
def execBrCall (n : BitVec 19) (s : State) : Host.Outcome State Fault Refusal :=
  performNow (.brCall n) (callBody n) s
/-- BR_CNZ -/
def execBrCnz (n : BitVec 19) (p : BitVec 3) (s : State) : Host.Outcome State Fault Refusal :=
  performNow (.brCnz n p) (branchBody n fun x => (x.ptr p).count != 0) s
/-- BR_CZ -/
def execBrCz (n : BitVec 19) (p : BitVec 3) (s : State) : Host.Outcome State Fault Refusal :=
  performNow (.brCz n p) (branchBody n fun x => (x.ptr p).count == 0) s
/-- BR_KANY -/
def execBrKany (n : BitVec 19) (k : BitVec 2) (s : State) : Host.Outcome State Fault Refusal :=
  performNow (.brKany n k) (branchBody n fun x => x.k k != 0) s
/-- BR_KNONE -/
def execBrKnone (n : BitVec 19) (k : BitVec 2) (s : State) : Host.Outcome State Fault Refusal :=
  performNow (.brKnone n k) (branchBody n fun x => x.k k == 0) s
/-- BR_NEG -/
def execBrNeg (n : BitVec 19) (s : State) : Host.Outcome State Fault Refusal :=
  performNow (.brNeg n) (branchBody n fun x => (lane0 x).getLsbD 63) s
/-- BR_EQZ -/
def execBrEqz (n : BitVec 19) (s : State) : Host.Outcome State Fault Refusal :=
  performNow (.brEqz n) (branchBody n fun x => lane0 x == 0) s
/-- BR_NEZ -/
def execBrNez (n : BitVec 19) (s : State) : Host.Outcome State Fault Refusal :=
  performNow (.brNez n) (branchBody n fun x => lane0 x != 0) s

/-- JUMP_JR -/
def execJumpJr (p : BitVec 3) (s : State) : Host.Outcome State Fault Refusal :=
  performNow (.jumpJr p) (jumpBody (fun x => (x.ptr p).base) fun _ => []) s
/-- JUMP_JALR -/
def execJumpJalr (p : BitVec 3) (s : State) : Host.Outcome State Fault Refusal :=
  performNow (.jumpJalr p) (jumpBody (fun x => (x.ptr p).base) fun x => [.link (afterWord x)]) s
/-- JUMP_RET -/
def execJumpRet (s : State) : Host.Outcome State Fault Refusal :=
  performNow .jumpRet (jumpBody (fun x => x.link) fun _ => []) s
/-- JUMP_JA -/
def execJumpJa (s : State) : Host.Outcome State Fault Refusal :=
  performNow .jumpJa (jumpBody lane0 fun _ => []) s
/-- JUMP_JIDX -/
def execJumpJidx (inc : BitVec 12) (p : BitVec 3) (s : State) : Host.Outcome State Fault Refusal :=
  performNow (.jumpJidx inc p) (jumpBody (fun x => (x.ptr p).base + BitVec.ofNat 64 (2 * inc.toNat)) fun _ => []) s

end Sys2Proof.Machine
end

