-- ==== Sys2Proof/Machine/System.lean ====
section
/-!
DEFINITION. System.lean: time (11 R250, R251), control registers and skeins (R252–R257, 09 R217–R219), traps and their
returns (R261, R262), the PLB (R264), pauses (R267) and encodings that are no instruction (10 R229, R231).
-/
namespace Sys2Proof.Machine

/-- A user domain may not (10 R230). -/
def privOnly (x : Strand) : Act Unit := if privileged x.domain then pure () else trapHere x Cause.privInstr

/-- ILLEGAL_INSTRUCTION: the trap ILLEGAL_INSTR, precise at issue (10 R231). -/
def execIllegalInstruction (parcels : BitVec 32) (s : State) : Host.Outcome State Fault Refusal :=
  performNow (.illegalInstruction parcels) (fun x => trapHere x Cause.illegalInstr) s

/-! ## TIME (11 R250, R251) -/

/-- A lane 0 from the strand and the machine. -/
def readBody (f : State → Strand → W64) (x : Strand) : Act Effect := do
  pure { ws := [.a (setLane64 x.a 0 (f (← get) x))] }
/-- Device time is not read in fixed mode. -/
def notFixed (x : Strand) : Act Unit := if x.isFixed then trapHere x Cause.fixedPath else pure ()
/-- RDDEV -/
def rddevBody (x : Strand) : Act Effect := do
  notFixed x
  readBody (fun s _ => s.now) x
/-- SYNCST -/
def syncstBody (x : Strand) : Act Effect := do
  notFixed x
  let now := (← get).now
  pure { ws := [.stime (if x.stime.toNat < now.toNat then now else x.stime)] }
/-- SETST -/
def setstBody (x : Strand) : Act Effect := pure { ws := [.stime (lane0 x)] }
/-- ADDST -/
def addstBody (x : Strand) : Act Effect := pure { ws := [.stime (x.stime + lane0 x)] }

/-- TIME_RDST -/
def execTimeRdst (s : State) : Host.Outcome State Fault Refusal := performNow .timeRdst (readBody fun _ x => x.stime) s
/-- TIME_RDDEV -/
def execTimeRddev (s : State) : Host.Outcome State Fault Refusal := performNow .timeRddev rddevBody s
/-- TIME_SETST -/
def execTimeSetst (s : State) : Host.Outcome State Fault Refusal := performNow .timeSetst setstBody s
/-- TIME_ADDST -/
def execTimeAddst (s : State) : Host.Outcome State Fault Refusal := performNow .timeAddst addstBody s
/-- TIME_SYNCST -/
def execTimeSyncst (s : State) : Host.Outcome State Fault Refusal := performNow .timeSyncst syncstBody s

/-! ## Control registers (11 R252–R257) -/

/-- The value of a control register of a strand. -/
def csrValue (s : State) (x : Strand) (n : Nat) : W64 :=
  match n with
  | 0x000 => x.sst
  | 0x001 => x.fpctl
  | 0x002 => x.drow
  | 0x003 => x.fixed
  | 0x004 => x.link
  | 0x005 => x.stime
  | 0x006 => x.rply
  | 0x007 => x.domain.setWidth 64
  | 0x008 => (strandSource s s.cur).setWidth 64
  | 0x010 => x.xvec
  | 0x011 => x.xstat
  | 0x012 => x.xaddr
  | 0x013 => x.xpc
  | 0x014 => x.xresume
  | 0x015 => x.xaux
  | _ => 0

/-- A write that R256 discards: SST.CSRIGN. -/
def ignored : Effect := { ws := [.flags (BitVec.ofNat 64 Flag.csrign)] }

/-- A write of v to a control register (11 R255–R257). FPCTL and DROW take effect at issue. -/
def csrWrite (n : Nat) (v : W64) (x : Strand) : Act Effect := do
  let k := (← get).cur
  match n with
  | 0x000 => pure { ws := [.sst (v &&& BitVec.ofNat 64 Flag.all)] }
  | 0x001 =>
    if 5 ≤ v.toNat then pure ignored
    else
      modify fun s => s.setStrand k { s.strand k with fpctl := v }
      pure {}
  | 0x002 =>
    if 65536 ≤ v.toNat then pure ignored
    else
      modify fun s => s.setStrand k { s.strand k with drow := v }
      pure {}
  | 0x003 =>
    let on := v.getLsbD 0
    if v.toNat / 2 % 32 != 0 || 2 ^ 19 ≤ v.toNat then pure ignored
    else if x.isFixed && on && v != x.fixed then pure ignored
    else if x.isFixed && !on && holdsWords (← get) k then trapHere x Cause.fixedPending
    else pure { ws := [.fixed v] }
  | 0x004 => pure { ws := [.link v] }
  | 0x010 => if v.getLsbD 0 then pure ignored else pure { ws := [.xvec v] }
  | _ => if v.getLsbD 0 then pure ignored else pure { ws := [.xresume v] }

/-- WR, SETB and CLRB: the register's value and lane 0 give the value written. -/
def csrBody (rm : BitVec 12) (f : W64 → W64 → W64) (x : Strand) : Act Effect := do
  csrWrite rm.toNat (f (csrValue (← get) x rm.toNat) (lane0 x)) x

/-- A skein image that a load refuses (09 R219). -/
def skeinBad (r : BitVec 512) : Bool :=
  let fmt := skFmt r
  let w := skBits fmt
  let nd := skNdim r
  let e0 := skExt r 0
  let used := (List.range 3).filter fun i => i < nd
  let unused := (List.range 3).filter fun i => nd ≤ i
  !recordOk r || skReserved fmt || recBits r 365 115 != 0 || 2 ^ 57 ≤ skBase r || 2 ^ 57 ≤ skSbase r ||
    unused.any (fun i => skExt r (i + 1) != 1 || skStr r (i + 1) != 0) ||
    (8 ≤ w && (skBase r % (w / 8) != 0 || used.any fun i => skStr r (i + 1) % (w / 8 : Nat) != 0)) ||
    (if skScaled fmt then e0 % 32 != 0 || skSbase r == 0 else skSbase r != 0) ||
    (fmt == 6 && e0 % 2 != 0) ||
    (w < 8 && used.any fun i => skStr r (i + 1) % (e0 * w / 8 : Nat) != 0)

/-- The 64 bytes of a skein lie in the own scratchpad, aligned (11 R257). -/
def skeinPlace (va : W64) : Act Unit :=
  if inScratch va 64 && va.toNat % 64 == 0 then pure () else trapAt Cause.skeinInvalid va
/-- The 64-byte image of a skein: a fresh CRC. -/
def skeinImage (s : State) (k : StrandId) (n : Nat) : BitVec 512 := sealRecord (skeinSeen s k n)

/-- SKLD -/
def skldBody (n : BitVec 6) (p : BitVec 3) (x : Strand) : Act Effect := do
  let k := (← get).cur
  let va := (x.ptr p).base
  skeinPlace va
  let l ← load k .read [(va.toNat, 64)]
  let r := ofRecBytes (gathered l va.toNat 64)
  if skeinBad r then trapAt Cause.skeinInvalid va
  changeOf [.skein n r]
/-- SKST -/
def skstBody (n : BitVec 6) (p : BitVec 3) (x : Strand) : Act Effect := do
  let s ← get
  let va := (x.ptr p).base
  skeinPlace va
  let id ← store s.cur [(va.toNat, recBytes (skeinImage s s.cur n.toNat))]
  pure { async := id }

/-- CSR_RD -/
def execCsrRd (la : BitVec 4) (rm : BitVec 12) (s : State) : Host.Outcome State Fault Refusal :=
  perform (.csrRd la rm) la (readBody fun s x => csrValue s x rm.toNat) s
/-- CSR_WR -/
def execCsrWr (la : BitVec 4) (rm : BitVec 12) (s : State) : Host.Outcome State Fault Refusal :=
  perform (.csrWr la rm) la (csrBody rm fun _ a => a) s
/-- CSR_SETB -/
def execCsrSetb (la : BitVec 4) (rm : BitVec 12) (s : State) : Host.Outcome State Fault Refusal :=
  perform (.csrSetb la rm) la (csrBody rm fun r a => r ||| a) s
/-- CSR_CLRB -/
def execCsrClrb (la : BitVec 4) (rm : BitVec 12) (s : State) : Host.Outcome State Fault Refusal :=
  perform (.csrClrb la rm) la (csrBody rm fun r a => r &&& ~~~a) s
/-- CSR_SKLD -/
def execCsrSkld (la : BitVec 4) (n : BitVec 6) (p : BitVec 3) (s : State) : Host.Outcome State Fault Refusal :=
  perform (.csrSkld la n p) la (skldBody n p) s
/-- CSR_SKST -/
def execCsrSkst (la : BitVec 4) (n : BitVec 6) (p : BitVec 3) (s : State) : Host.Outcome State Fault Refusal :=
  perform (.csrSkst la n p) la (skstBody n p) s

/-! ## Traps (11 R261, R262) -/

/-- SWT and BRK: the trap with imm12 as its address; it resumes after the instruction. -/
def softTrapBody (cause : Nat) (n : BitVec 12) (_ : Strand) : Act Effect := trapAt cause (n.setWidth 64)

/-- RET and RETX: the handler is left; RETX runs the instruction at XPC alone; the oldest kept fault, if there is one, is
taken with XRESUME unchanged. -/
def trapReturn (i : Instr) (again : Bool) (s : State) : State :=
  let k := s.cur
  let x := s.strand k
  if !x.xin then issue i 0 [] (fun x => trapHere x Cause.retNotrap) s
  else if again then
    requeue k (s.setStrand k { x with xin := false, redo := some { pc := x.xpc, resume := x.xresume } })
  else deliverKept k x.xresume (s.setStrand k { x with xin := false })

/-- HALT: the core halts as by CORECMD HALT. -/
def haltBody (x : Strand) : Act Effect := do
  privOnly x
  modify fun s => haltCore s.cur.core false s
  pure {}

/-- TRAP_SWT -/
def execTrapSwt (n : BitVec 12) (s : State) : Host.Outcome State Fault Refusal :=
  performNow (.trapSwt n) (softTrapBody Cause.software n) s
/-- TRAP_BRK -/
def execTrapBrk (n : BitVec 12) (s : State) : Host.Outcome State Fault Refusal :=
  performNow (.trapBrk n) (softTrapBody Cause.break_ n) s
/-- TRAP_RET -/
def execTrapRet (s : State) : Host.Outcome State Fault Refusal := .next (trapReturn .trapRet false s)
/-- TRAP_RETX -/
def execTrapRetx (s : State) : Host.Outcome State Fault Refusal := .next (trapReturn .trapRetx true s)
/-- TRAP_HALT -/
def execTrapHalt (s : State) : Host.Outcome State Fault Refusal := performNow .trapHalt haltBody s

/-! ## The PLB (11 R264) -/

/-- V := 0 for every entry that a test picks. -/
def plbInvalidate (c : CoreId) (test : BitVec 128 → Bool) (s : State) : State :=
  let x := s.core c
  s.setCore c { x with plb := x.plb.foldl (fun t e =>
    if test e.2 then Table.set 0 t e.1 (e.2.setWidth 127 |>.setWidth 128) else t) x.plb }
/-- An entry as WRE writes it: one that breaks a rule of R165 is written invalid. -/
def plbWritten (e : BitVec 128) : BitVec 128 :=
  let n := e.toNat
  let bad := plbSize e == 3 || n / 2 ^ 57 % 2 ^ 46 != 0 || n % 2 ^ 16 != 0 ||
    plbBase e % 2 ^ pageShift (plbSize e) != 0 || n / 2 ^ 113 % 4096 == 4095
  if bad then e.setWidth 127 |>.setWidth 128 else e

/-- FLUSH: every entry is invalid; it counts for the flush epoch (07 R168). -/
def plbFlushBody (x : Strand) : Act Effect := do
  privOnly x
  modify fun s =>
    let c := s.cur.core
    let s := plbInvalidate c (fun _ => true) s
    checkEpoch (s.setCore c { s.core c with flushed := true })
  pure {}
/-- INVD and INVA: the entries that a test picks are invalid. -/
def plbInvBody (test : Strand → BitVec 128 → Bool) (x : Strand) : Act Effect := do
  privOnly x
  modify fun s => plbInvalidate s.cur.core (test x) s
  pure {}
/-- RDE -/
def plbReadBody (e : BitVec 6) (x : Strand) : Act Effect := do
  privOnly x
  let s ← get
  let v := Table.get 0 (s.core s.cur.core).plb e.toNat
  pure { ws := [.a (setBits x.a 0 128 v.toNat)] }
/-- WRE: the entry written is the most recently used (07 R165). -/
def plbWriteBody (e : BitVec 6) (x : Strand) : Act Effect := do
  privOnly x
  modify fun s =>
    let c := s.cur.core
    let y := s.core c
    plbUsed c e.toNat (s.setCore c { y with plb := Table.set 0 y.plb e.toNat (plbWritten (x.a.setWidth 128)) })
  pure {}

/-- PROT_FLUSH -/
def execProtFlush (s : State) : Host.Outcome State Fault Refusal := performNow .protFlush plbFlushBody s
/-- PROT_INVD -/
def execProtInvd (d : BitVec 12) (s : State) : Host.Outcome State Fault Refusal :=
  performNow (.protInvd d) (plbInvBody fun _ e => e.extractLsb' 113 12 == d) s
/-- PROT_INVA -/
def execProtInva (p : BitVec 3) (s : State) : Host.Outcome State Fault Refusal :=
  performNow (.protInva p) (plbInvBody fun x e => plbCovers e (x.ptr p).base.toNat) s
/-- PROT_RDE -/
def execProtRde (e : BitVec 6) (s : State) : Host.Outcome State Fault Refusal :=
  performNow (.protRde e) (plbReadBody e) s
/-- PROT_WRE -/
def execProtWre (e : BitVec 6) (s : State) : Host.Outcome State Fault Refusal :=
  performNow (.protWre e) (plbWriteBody e) s

/-! ## Pauses (11 R267) -/

/-- PAUSE: nothing issues until the pause ends; a pause of 0 is none. -/
def pauseBody (n : BitVec 12) (_ : Strand) : Act Effect := do
  if n != 0 then
    modify fun s =>
      let k := s.cur
      (s.setStrand k { s.strand k with paused := true }).post .pauseEnd { strand := k, a := n.toNat }
  pure {}

/-- NOPS_NOP -/
def execNopsNop (s : State) : Host.Outcome State Fault Refusal := performNow .nopsNop (fun _ => pure {}) s
/-- NOPS_PAUSE -/
def execNopsPause (n : BitVec 12) (s : State) : Host.Outcome State Fault Refusal :=
  performNow (.nopsPause n) (pauseBody n) s

end Sys2Proof.Machine
end

