-- ==== Sys2Proof/Machine/Context.lean ====
section
/-!
DEFINITION. Context.lean: strand records (11 R266) and CTXS (R265).
-/
namespace Sys2Proof.Machine

/-! ## Strand records (11 R266) -/

/-- State, kind, object and value of a strand's wait-state word. -/
def waitWord (x : Strand) : Nat :=
  let w := if x.state == .stopped then x.stoppedFrom else x.state
  let st := match w with
    | .free => 0 | .waiting => 2 | _ => 1
  let fields : Nat × Nat × Nat := match x.wait with
    | .channel c => (0, c, 0)
    | .barrier o q => (1, o, bit q)
    | .counter o v => (2, o, v.toNat)
    | .ring o => (3, o, 0)
    | .landing => (4, 0, 0)
    | .pager => (5, 0, 0)
    | .join h => (6, h, 0)
    | .helperSlot => (7, 0, 0)
    | .sendBuffer => (8, 0, 0)
    | .nothing => (0, 0, 0)
  st * 2 ^ 60 + bit x.held * 2 ^ 55 +
    if st = 2 then fields.1 * 2 ^ 56 + fields.2.1 * 2 ^ 32 + fields.2.2 else 0

/-- The wait of a word. -/
def waitOf (w : Nat) : WaitOn :=
  let o := w / 2 ^ 32 % 2 ^ 16
  let v := w % 2 ^ 32
  match w / 2 ^ 56 % 16 with
  | 0 => .channel o
  | 1 => .barrier o (v % 2 == 1)
  | 2 => .counter o (BitVec.ofNat 32 v)
  | 3 => .ring o
  | 6 => .join o
  | 7 => .helperSlot
  | 8 => .sendBuffer
  | _ => .nothing

/-- One kept fault as 16 bytes. -/
def faultImage (f : PendFault) : Nat :=
  f.fault.addr.toNat + (f.fault.cause.toNat * 2 ^ 56 + f.pc.toNat / 2 % 2 ^ 56) * 2 ^ 64

/-- The 768 bytes of a strand. -/
def strandRecord (x : Strand) : List Byte :=
  layout 768
    ([(0x000, 128, x.a.toNat)] ++ (x.p.toList.zipIdx.map fun e => (0x080 + 16 * e.2, 16, e.1.image)) ++
     [(0x100, 16, x.k1.toNat), (0x110, 16, x.k2.toNat), (0x120, 16, x.k3.toNat), (0x130, 8, x.here.toNat),
      (0x138, 8, x.link.toNat), (0x140, 8, x.stime.toNat),
      (0x148, 8, bit x.xin * 2 ^ 60 + min x.faults.length 15 * 2 ^ 56 + x.xcause.toNat * 2 ^ 48 +
        x.drow.toNat % 2 ^ 16 * 2 ^ 32 + x.fpctl.toNat % 8 * 2 ^ 16 + x.sst.toNat % 2 ^ 16),
      (0x150, 8, x.xparcels.toNat * 2 ^ 32 + x.fixed.toNat % 2 ^ 19), (0x158, 8, x.rply.toNat)] ++
     (x.pat.toList.zipIdx.map fun e => (0x160 + 32 * e.2, 32, e.1.toNat)) ++
     [(0x1E0, 8, x.xvec.toNat), (0x1E8, 8, x.xaddr.toNat), (0x1F0, 8, x.xpc.toNat), (0x1F8, 8, x.xresume.toNat),
      (0x200, 8, x.xaux.toNat), (0x208, 8, waitWord x)] ++
     (x.faults.take 15).zipIdx.map fun e => (0x210 + 16 * e.2, 16, faultImage e.1))

/-- A cause code of 11 R263 that is not reserved. DEDUCED (log 41): of the row 0x60–0xFF every code counts as assigned. -/
def causeCode (c : Nat) : Bool :=
  decide (c ≤ 0x08 ∨ (0x10 ≤ c ∧ c ≤ 0x1E) ∨ (0x20 ≤ c ∧ c ≤ 0x25) ∨ (0x30 ≤ c ∧ c ≤ 0x37) ∨ (0x40 ≤ c ∧ c ≤ 0x47) ∨ 0x60 ≤ c)
/-- A pattern descriptor holds a reserved code: KIND, MSK of a causal one, MODE of a random one (13 R311). -/
def patReserved (d : BitVec 256) : Bool :=
  7 ≤ patKind d || (patKind d == 2 && patBits d 126 2 == 3) || (patKind d == 4 && 2 ≤ patBits d 62 2)
/-- A record holds a reserved code: STATE, KIND, MODE, a cause of XSTAT or of a kept fault, or a code of a pattern slot. -/
def recordReserved (bs : List Byte) : Bool :=
  let f := fun (at_ n : Nat) => ofBytes ((bs.drop at_).take n)
  let w := f 0x208 8
  let c := f 0x148 8
  let st := w / 2 ^ 60
  let kind := w / 2 ^ 56 % 16
  3 ≤ st || 8 < kind || (st = 2 && (kind = 4 || kind = 5)) || 5 ≤ c / 2 ^ 16 % 8 || !causeCode (c / 2 ^ 48 % 256) ||
    ((List.range (c / 2 ^ 56 % 16)).any fun i => !causeCode (f (0x210 + 16 * i + 8) 8 / 2 ^ 56)) ||
    (List.range 4).any fun i => patReserved (BitVec.ofNat 256 (f (0x160 + 32 * i) 32))

/-- The strand of a record, in a domain, stopped; FREE, with the record's registers, where its state is FREE. The parcels of a kept fault and
of a waiting instruction are not in the record: free values (log 8). PC, XVEC, XPC and XRESUME are never odd (10 R223, 11 R256):
DESIGN CHOICE (log 41), bit 0 of the record's is dropped. -/
def ofRecord (bs : List Byte) (d : BitVec 16) (n : Nat) (free : Nat) (old : Strand) : Strand :=
  let f := fun (at_ n : Nat) => ofBytes ((bs.drop at_).take n)
  let w64 := fun (at_ : Nat) => BitVec.ofNat 64 (f at_ 8)
  let even := fun (at_ : Nat) => BitVec.ofNat 64 (f at_ 8 / 2 * 2)
  let w := f 0x208 8
  let c := f 0x148 8
  let st := w / 2 ^ 60
  let new : Strand :=
    { a := BitVec.ofNat 1024 (f 0 128)
      p := Vector.ofFn fun i => ofImage (f (0x080 + 16 * i.val) 16)
      k1 := BitVec.ofNat 128 (f 0x100 16)
      k2 := BitVec.ofNat 128 (f 0x110 16)
      k3 := BitVec.ofNat 128 (f 0x120 16)
      pc := even 0x130
      link := w64 0x138
      stime := w64 0x140
      sst := BitVec.ofNat 64 (c % 2 ^ 10)
      fpctl := BitVec.ofNat 64 (c / 2 ^ 16 % 8)
      drow := BitVec.ofNat 64 (c / 2 ^ 32 % 2 ^ 16)
      fixed := BitVec.ofNat 64 (f 0x150 8 % 2 ^ 19 / 64 * 64 + f 0x150 8 % 2)
      pat := Vector.ofFn fun i => BitVec.ofNat 256 (f (0x160 + 32 * i.val) 32)
      rply := w64 0x158
      xvec := even 0x1E0
      xparcels := BitVec.ofNat 32 (f 0x150 8 / 2 ^ 32)
      xcause := BitVec.ofNat 8 (c / 2 ^ 48)
      xin := c / 2 ^ 60 % 2 == 1
      xaddr := w64 0x1E8
      xpc := even 0x1F0
      xresume := even 0x1F8
      xaux := w64 0x200
      faults := (List.range (c / 2 ^ 56 % 16)).map fun i =>
        let g := f (0x210 + 16 * i + 8) 8
        { fault := { cause := BitVec.ofNat 8 (g / 2 ^ 56), addr := w64 (0x210 + 16 * i) }
          pc := BitVec.ofNat 64 (g % 2 ^ 56 * 2)
          parcels := (Config.freeValue (free + i)).setWidth 32 }
      domain := d
      state := .stopped
      stoppedFrom := if st = 2 then .waiting else .ready
      held := true
      role := if n = 0 then .lead else .helper
      wait := if st = 2 then waitOf w else .nothing
      waitParcels := (Config.freeValue (free + 15)).setWidth 32
      waitPc := BitVec.ofNat 64 (f 0x130 8 / 2 * 2) - 4
      faultSeq := old.faultSeq }
  if st = 0 then new.ended else new

/-! ## CTXS (11 R265) -/

/-- CTXS is privileged, and names another strand of the core. -/
def ctxsTarget (x : Strand) (n : BitVec 4) : Act StrandId := do
  privOnly x
  let k := (← get).cur
  if n.toNat = k.num then trapHere x Cause.ctxState
  pure (mkStrand k.core n.toNat)
/-- The record's address is a multiple of 64. -/
def recordPlace (va : W64) : Act Unit := if va.toNat % 64 != 0 then trapAt Cause.misaligned va else pure ()

/-- STOP: the target drains and is stopped and held; one that is FREE or STOPPED is left as it is. -/
def ctxsStopBody (n : BitVec 4) (x : Strand) : Act Effect := do
  let t ← ctxsTarget x n
  modify (beginStop t true)
  let y := (← get).strand t
  if y.live && y.state != .stopped then throw .stall
  pure {}
/-- SAVE -/
def ctxsSaveBody (n : BitVec 4) (p : BitVec 3) (x : Strand) : Act Effect := do
  let t ← ctxsTarget x n
  let s ← get
  let va := (x.ptr p).base
  recordPlace va
  let y := s.strand t
  if y.live && y.state != .stopped then trapHere x Cause.ctxState
  let id ← store s.cur [(va.toNat, strandRecord y)]
  pure { async := id }
/-- A lead that was stopped in a START that waits for a helper waits for it still: no handler starts before it (06 R141, R152). -/
def keepStart (t : StrandId) (s : State) : State :=
  let c := s.core t.core
  if t.num = 0 && (s.strand t).waits && (s.strand t).wait == .helperSlot then s.setCore t.core { c with startWaits := true } else s

/-- LOAD: it waits while a matrix command may use the target's pattern slots (14 R338). -/
def ctxsLoadBody (n : BitVec 4) (p : BitVec 3) (x : Strand) : Act Effect := do
  let t ← ctxsTarget x n
  let s ← get
  let va := (x.ptr p).base
  recordPlace va
  let y := s.strand t
  if y.live then trapHere x Cause.ctxState
  let l ← load s.cur .read [(va.toNat, 768)]
  let bs := gathered l va.toNat 768
  if recordReserved bs then trapHere x Cause.ctxState
  let s ← get
  if slotsHeld s t.core n.toNat then throw .stall
  let new := ofRecord bs (s.core t.core).domain n.toNat (16 * s.steps) y
  modify fun s => keepStart t (s.setStrand t new)
  pure {}
/-- GO -/
def ctxsGoBody (n : BitVec 4) (x : Strand) : Act Effect := do
  let t ← ctxsTarget x n
  let y := (← get).strand t
  if !(y.state == .stopped && y.held) then trapHere x Cause.ctxState
  modify fun s => recheck t (goOn t s)
  pure {}

/-- CTXS_STOP -/
def execCtxsStop (n : BitVec 4) (s : State) : Host.Outcome State Fault Refusal :=
  performNow (.ctxsStop n) (ctxsStopBody n) s
/-- CTXS_SAVE -/
def execCtxsSave (n : BitVec 4) (p : BitVec 3) (s : State) : Host.Outcome State Fault Refusal :=
  performNow (.ctxsSave n p) (ctxsSaveBody n p) s
/-- CTXS_LOAD -/
def execCtxsLoad (n : BitVec 4) (p : BitVec 3) (s : State) : Host.Outcome State Fault Refusal :=
  performNow (.ctxsLoad n p) (ctxsLoadBody n p) s
/-- CTXS_GO -/
def execCtxsGo (n : BitVec 4) (s : State) : Host.Outcome State Fault Refusal :=
  performNow (.ctxsGo n) (ctxsGoBody n) s

end Sys2Proof.Machine
end

