-- ==== Sys2Proof/Machine/Law.lean ====
section
/-!
DEFINITION. Law.lean: law-table entries (13 R302), law words (R304), their advance and crossings (R306, R307) and the
six forms (R308), computed alike by the law unit and by the hooks.
-/
namespace Sys2Proof.Machine

/-! ## Entries (13 R302) -/

/-- KIND: 0 HOLD, 1 INTEGRATE, 2 LEAK, 3 OSCILLATE -/
def lawKind (e : BitVec 256) : Nat := patBits e 252 4
/-- SHIFT -/
def lawShift (e : BitVec 256) : Nat := patBits e 247 5
/-- STRICT -/
def lawStrict (e : BitVec 256) : Bool := e.getLsbD 246
/-- RST -/
def lawRst (e : BitVec 256) : Bool := e.getLsbD 245
/-- EV -/
def lawEv (e : BitVec 256) : Bool := e.getLsbD 244
/-- RESET as Q32.32 -/
def lawReset (e : BitVec 256) : Int := toSigned 12 (patBits e 232 12) * (2 ^ 32 : Nat)
/-- ROUTE -/
def lawRoute (e : BitVec 256) : W64 := BitVec.ofNat 64 (patBits e 192 40)
/-- The INTEGRATE rate -/
def lawRate (e : BitVec 256) : Int := toSigned 64 (patBits e 128 64)
/-- λ of LEAK, ω of OSCILLATE -/
def lawLambda (e : BitVec 256) : Nat := patBits e 160 32
/-- MARK of OSCILLATE -/
def lawMark (e : BitVec 256) : Nat := patBits e 128 32
/-- θ of INTEGRATE as Q32.32 -/
def lawTheta (e : BitVec 256) : Int := toSigned 64 (patBits e 64 64)
/-- θ of LEAK -/
def lawThetaF (e : BitVec 256) : Num := f64.decode (patBits e 64 64)
/-- HI.0 and LO.0 as Q32.32 -/
def lawHi (e : BitVec 256) : Int := toSigned 32 (patBits e 32 32) * (2 ^ 32 : Nat)
/-- LO.0 -/
def lawLo (e : BitVec 256) : Int := toSigned 32 (patBits e 0 32) * (2 ^ 32 : Nat)

/-- A route word names a supervisor core. -/
def routeSupervisor (r : W64) : Bool := 192 ≤ r.toNat / 2 ^ 12 % 256

/-- An invalid entry of a tenant's table (13 R302). -/
def lawInvalid (s : State) (e : BitVec 256) : Bool :=
  let k := lawKind e
  20 < lawShift e ||
    (if lawEv e then route s true (lawRoute e) == .invalid || routeSupervisor (lawRoute e) else lawRoute e != 0) ||
    match k with
    | 0 => patBits e 0 252 != 0
    | 1 => lawHi e < lawLo e
    | 2 => lawRst e || patBits e 232 12 != 0 || patBits e 128 32 != 0 || patBits e 0 64 != 0
    | 3 => lawRst e || patBits e 232 12 != 0 || patBits e 0 128 != 0
    | _ => true

/-! ## Words (13 R304) -/

/-- A law word. -/
structure LawWord where
  value : Nat
  touched : Nat
  law : Nat
  flags : Nat
  count : Nat
  deriving DecidableEq, Repr

/-- The word of 16 bytes. -/
def lawWord (n : Nat) : LawWord :=
  { value := n % 2 ^ 64, touched := n / 2 ^ 64 % 2 ^ 40, law := n / 2 ^ 104 % 256, flags := n / 2 ^ 112 % 256
    count := n / 2 ^ 120 % 256 }
/-- The 16 bytes of a word. -/
def LawWord.image (w : LawWord) : Nat :=
  w.value % 2 ^ 64 + w.touched % 2 ^ 40 * 2 ^ 64 + w.law % 256 * 2 ^ 104 + w.flags % 256 * 2 ^ 112 + w.count % 256 * 2 ^ 120

/-- A flag bit set. -/
def setFlag (flags i : Nat) (b : Bool) : Nat := if b then flags ||| 2 ^ i else flags

/-- An enclosed real plus a finite one. -/
def Enclosure.plus (x : Enclosure) (n : Bool) (m : Nat) (e : Int) : Enclosure :=
  match x with
  | .exact (.val n2 m2 e2 _) => .exact (addFin false n2 m2 e2 n m e)
  | .exact y => .exact y
  | .between neg lo hi q =>
    let z := min q e
    let l := scaled neg lo q z
    let h := scaled neg hi q z
    let a := min l h + scaled n m e z
    let b := max l h + scaled n m e z
    if 0 ≤ a then .between false a.toNat b.toNat z
    else if b ≤ 0 then .between true (-b).toNat (-a).toNat z
    else .between false 0 1 z

/-- The exact value of a LEAK word: M × 2^(−L/2^24). -/
def leakReal (value p : Nat) : Enclosure :=
  match f32.decode (value % 2 ^ 32) with
  | .fin n m e => (exp2At (-(value / 2 ^ 32 : Nat) : Int) 24 p).times n m e
  | x => .exact x.exact
/-- It rounded to f64, nearest-even. -/
def leakF64 (value : Nat) : Nat := (correctly 16 value f64 .ne (leakReal value)).1
/-- A component of an OSCILLATE word (the cosine, or the sine) rounded to f64; an exact zero is +0. -/
def oscF64 (cosine : Bool) (value : Nat) : Nat :=
  let phi := value / 2 ^ 32
  let zero := phi % 2 ^ 30 == 0 && ((phi / 2 ^ 30 % 2 == 1) == cosine)
  match f32.decode (value % 2 ^ 32) with
  | .nan _ => f64.nan
  | .inf n =>
    if zero then 0
    else
      let q := phi / 2 ^ 30 % 4
      f64.infinity (n != (if cosine then q == 1 || q == 2 else 2 ≤ q))
  | .fin n m e =>
    if zero || m = 0 then 0
    else (correctly (17 + bit cosine) value f64 .ne fun p => (turnAt cosine phi 32 p).times n m e).1

/-- Lane 0 of the report (13 R308). -/
def lawValue (e : BitVec 256) (value : Nat) : Nat :=
  match lawKind e with
  | 0 => value
  | 1 =>
    let v := toSigned 64 value
    ((Exact.val (decide (v < 0)) v.natAbs (-32) false).round f64 .ne).1
  | 2 => leakF64 value
  | _ => oscF64 true value

/-! ## The advance (13 R306, R307) -/

/-- Crossings at the offsets ⌈(first + j × step) / den⌉ from the word's touched tick, j below count; with one more at
the end of the interval where an ADD made it. -/
structure Crossings where
  count : Nat := 0
  first : Nat := 0
  step : Nat := 0
  den : Nat := 1
  added : Bool := false
  deriving DecidableEq, Repr

/-- All crossings. -/
def Crossings.total (c : Crossings) : Nat := c.count + bit c.added
/-- The offset of crossing j in an interval of d ticks. -/
def Crossings.offset (c : Crossings) (d j : Nat) : Nat :=
  if j < c.count then (c.first + j * c.step + c.den - 1) / c.den else d

/-- A value clamped, and whether the clamp acted. -/
def lawClamp (e : BitVec 256) (v : Int) : Int × Bool :=
  if lawHi e < v then (lawHi e, true) else if v < lawLo e then (lawLo e, true) else (v, false)

/-- Value, saturated and crossings of an advance by d ticks. -/
abbrev Advance := Nat × Bool × Crossings

/-- INTEGRATE -/
def advanceIntegrate (e : BitVec 256) (value d : Nat) : Advance :=
  let v := toSigned 64 value
  let rate := lawRate e
  let theta := lawTheta e
  let plain := lawClamp e (v + rate * d)
  let gap := (theta - v).toNat
  let r := rate.toNat
  if 0 < rate ∧ v < theta ∧ theta ≤ lawHi e ∧ gap ≤ r * d then
    let t := (gap + r - 1) / r
    if !lawRst e then (ofInt 64 plain.1, plain.2, { count := 1, first := t })
    else if lawReset e < theta then
      let q := ((theta - lawReset e).toNat + r - 1) / r
      (ofInt 64 (lawReset e + rate * ((d - t) % q : Nat)), false, { count := (d - t) / q + 1, first := t, step := q })
    else
      let after := lawClamp e (lawReset e + rate * (d - t : Nat))
      (ofInt 64 after.1, after.2, { count := 1, first := t })
  else (ofInt 64 plain.1, plain.2, {})

/-- L of LEAK after t ticks, stopped at 2^32 − 1. -/
def leakAfter (e : BitVec 256) (value t : Nat) : Nat :=
  value % 2 ^ 32 + min (value / 2 ^ 32 + lawLambda e * t) (2 ^ 32 - 1) * 2 ^ 32
/-- The rounded value is below θ. -/
def leakBelow (e : BitVec 256) (value : Nat) : Bool := (f64.decode (leakF64 value)).lt (lawThetaF e)
/-- The least t in lo + 1 … hi whose value is below θ, where it is at hi and not at lo: halved n times. -/
def leakSearch (e : BitVec 256) (value : Nat) : Nat → Nat → Nat → Nat
  | 0, _, hi => hi
  | n + 1, lo, hi =>
    if hi ≤ lo + 1 then hi
    else
      let mid := (lo + hi) / 2
      if leakBelow e (leakAfter e value mid) then leakSearch e value n lo mid else leakSearch e value n mid hi

/-- LEAK -/
def advanceLeak (e : BitVec 256) (value d : Nat) : Advance :=
  let new := leakAfter e value d
  let sat := 2 ^ 32 - 1 < value / 2 ^ 32 + lawLambda e * d
  if !leakBelow e value && leakBelow e new then (new, sat, { count := 1, first := leakSearch e value 40 0 d })
  else (new, sat, {})

/-- OSCILLATE -/
def advanceOscillate (e : BitVec 256) (value d : Nat) : Advance :=
  let phi := value / 2 ^ 32
  let w := lawLambda e
  let gap := (lawMark e + 2 ^ 32 - phi) % 2 ^ 32
  let first := if gap = 0 then 2 ^ 32 else gap
  let new := value % 2 ^ 32 + (phi + w * d) % 2 ^ 32 * 2 ^ 32
  if first ≤ w * d then (new, false, { count := (w * d - first) / 2 ^ 32 + 1, first := first, step := 2 ^ 32, den := w })
  else (new, false, {})

/-- The advance of a kind. -/
def advance (e : BitVec 256) (value d : Nat) : Advance :=
  match lawKind e with
  | 0 => (value, false, {})
  | 1 => advanceIntegrate e value d
  | 2 => advanceLeak e value d
  | _ => advanceOscillate e value d

/-! ## Values formed (13 R308) -/

/-- x as Q32.32: a whole number, or beyond every bound; and the flags. -/
def toQ32 (x : Num) : Option Int × Bool × Nat :=
  match x with
  | .nan _ => (some 0, false, Flag.nv)
  | .inf n => (none, n, 0)
  | .fin n m e =>
    let (q, inexact) := roundShift .ne n m (-(e + 32)) false
    (some (if n then -(q : Int) else q), false, if inexact then Flag.nx else 0)

/-- v + x within the bounds: value, clamp, flags. -/
def integrateAdd (e : BitVec 256) (v : Int) (x : Num) : Int × Bool × Nat :=
  match toQ32 x with
  | (none, n, fl) => (if n then lawLo e else lawHi e, true, fl)
  | (some q, _, fl) =>
    let c := lawClamp e (v + q)
    (c.1, c.2, fl)

/-- A value written by SET, SWAP or LAW under an entry: value, clamp, flags. -/
def formValue (e : BitVec 256) (x phi : Nat) : Nat × Bool × Nat :=
  let toF32 := ((f64.decode x).exact.round f32 .ne)
  match lawKind e with
  | 0 => (x, false, 0)
  | 1 =>
    let r := integrateAdd e 0 (f64.decode x)
    (ofInt 64 r.1, r.2.1, r.2.2)
  | 2 => (toF32.1, false, toF32.2)
  | _ => (toF32.1 + phi % 2 ^ 32 * 2 ^ 32, false, toF32.2)

/-- A value after ADD of x: value, clamp, flags, and whether it crosses. -/
def addValue (e : BitVec 256) (value x : Nat) : Nat × Bool × Nat × Bool :=
  let y := f64.decode x
  match lawKind e with
  | 0 =>
    let r := ((f64.decode value).add false y).round f64 .ne
    (r.1, false, r.2, false)
  | 1 =>
    let v := toSigned 64 value
    let r := integrateAdd e v y
    let crosses := v < lawTheta e && lawTheta e ≤ r.1
    (ofInt 64 (if crosses && lawRst e then lawReset e else r.1), r.2.1, r.2.2, crosses)
  | 2 =>
    let r := match y with
      | .fin n m ex =>
        match f32.decode (value % 2 ^ 32) with
        | .fin _ _ _ => correctly 19 (value + x * 2 ^ 64) f32 .ne fun p => (leakReal value p).plus n m ex
        | z => (z.add false y).round f32 .ne
      | _ => ((f32.decode (value % 2 ^ 32)).add false y).round f32 .ne
    (r.1, false, r.2, !leakBelow e value && leakBelow e r.1)
  | _ =>
    let r := ((f32.decode (value % 2 ^ 32)).add false y).round f32 .ne
    (r.1 + value / 2 ^ 32 * 2 ^ 32, false, r.2, false)

/-! ## The forms (13 R308) -/

/-- RD, ADD, SET, SWAP, LAW, CHK -/
inductive LawForm where
  | rd | add | set | swap | law | chk
  deriving DecidableEq, Repr

/-- What an operation leaves: the word, the report (none for SET), IEEE flags, and the packets of its crossings
(timestamp, count, law index, byte 13) to a route. -/
structure LawResult where
  word : LawWord
  report : Option (List W64)
  flags : Nat
  events : List (W64 × Nat × Nat × Nat)
  route : W64
  deriving DecidableEq, Repr

/-- The device tick of an offset in an interval of d law ticks that ends at a time. -/
def crossingTick (e : BitVec 256) (time : W64) (d off : Nat) : W64 :=
  BitVec.ofNat 64 ((time.toNat / 2 ^ lawShift e + 2 ^ 64 - (d - off)) % 2 ^ 64 * 2 ^ lawShift e)

/-- The count a summary carries: the total, which 4 bytes hold below 2^32 (log 8). -/
def summaryTotal (total : Nat) : Nat := if total < 2 ^ 32 then total else (Config.summaryCount total).toNat

/-- The packets of an access's crossings: the first four, and a summary if there are more. -/
def crossingEvents (e : BitVec 256) (index : Nat) (time : W64) (d : Nat) (c : Crossings) : List (W64 × Nat × Nat × Nat) :=
  if !lawEv e then []
  else
    (List.range (min c.total 4)).map (fun j => (crossingTick e time d (c.offset d j), 1, index, 0)) ++
      if 4 < c.total then [(crossingTick e time d (c.offset d (c.total - 1)), summaryTotal c.total, index, 1)] else []

/-- The report of an access. -/
def lawReport (e : BitVec 256) (w : LawWord) (time : W64) (d : Nat) (c : Crossings) : List W64 :=
  [BitVec.ofNat 64 (lawValue e w.value),
   BitVec.ofNat 64 (if lawKind e = 3 then oscF64 false w.value else 0),
   if c.total = 0 then BitVec.allOnes 64 else crossingTick e time d (c.offset d 0),
   BitVec.ofNat 64 (w.count * 2 ^ 16 + min c.total 255 * 2 ^ 8 + w.flags)]

/-- The count and the crossed flag after n more crossings. -/
def LawWord.crossed (w : LawWord) (n : Nat) : LawWord :=
  { w with count := min (w.count + n) 255, flags := setFlag w.flags 0 (n != 0) }

/-- An operation on a word (13 R306–R309): entry gives a valid law entry; x is lane 0, phi lane 1, index lane 3; a
fault's cause, or the result. -/
def lawOp (entry : Nat → Option (BitVec 256)) (form : LawForm) (bytes : Nat) (x phi index : Nat) (time : W64) :
    Except Nat LawResult :=
  let old := lawWord bytes
  if form == .set then
    match entry index with
    | none => .error Cause.lawInvalid
    | some e =>
      let v := formValue e x phi
      let w : LawWord :=
        { value := v.1, touched := time.toNat / 2 ^ lawShift e % 2 ^ 40, law := index
          flags := setFlag 0 2 v.2.1, count := 0 }
      .ok { word := w, report := none, flags := v.2.2, events := [], route := 0 }
  else
    match entry old.law with
    | none => .error Cause.lawInvalid
    | some e =>
      let now := time.toNat / 2 ^ lawShift e % 2 ^ 40
      let ahead := (now + 2 ^ 40 - old.touched) % 2 ^ 40
      let retro := decide (2 ^ 39 ≤ ahead)
      if retro && lawStrict e then .error Cause.lawRetrograde
      else
        let d := if retro then 0 else ahead
        let a := advance e old.value d
        let at_ : LawWord :=
          { old with
            value := a.1
            touched := if retro then old.touched else now
            flags := setFlag (setFlag old.flags 1 retro) 2 a.2.1 }
        let c := a.2.2
        let ev := fun (c : Crossings) => crossingEvents e old.law time d c
        match form with
        | .add =>
          let v := addValue e at_.value x
          let c := { c with added := v.2.2.2 }
          let w := { at_ with value := v.1, flags := setFlag at_.flags 2 v.2.1 }.crossed c.total
          .ok { word := w, report := some (lawReport e w time d c), flags := v.2.2.1, events := ev c, route := lawRoute e }
        | .swap =>
          let w := at_.crossed c.total
          let v := formValue e x phi
          .ok { word := { w with value := v.1, flags := setFlag w.flags 2 v.2.1 }
                report := some (lawReport e w time d c), flags := v.2.2, events := ev c, route := lawRoute e }
        | .law =>
          match entry index with
          | none => .error Cause.lawInvalid
          | some e2 =>
            let w := at_.crossed c.total
            let r := lawReport e w time d c
            let keep := if lawKind e = 3 then w.value / 2 ^ 32 else 0
            let v := formValue e2 (r.headD 0).toNat keep
            .ok { word := { w with
                    value := v.1
                    touched := time.toNat / 2 ^ lawShift e2 % 2 ^ 40
                    law := index
                    flags := setFlag w.flags 2 v.2.1 }
                  report := some r, flags := v.2.2, events := ev c, route := lawRoute e }
        | .chk =>
          let w := at_.crossed c.total
          .ok { word := { w with count := 0, flags := w.flags / 2 * 2 }
                report := some (lawReport e w time d c), flags := 0, events := ev c, route := lawRoute e }
        | _ =>
          let w := at_.crossed c.total
          .ok { word := w, report := some (lawReport e w time d c), flags := 0, events := ev c, route := lawRoute e }

/-! ## Law tables (13 R302, R303) -/

/-- The physical address of an entry. -/
def lawEntryPa (s : State) (tenant index : Nat) : Nat := (s.tenant tenant).lawbase.toNat + 32 * index
/-- The entry as device memory holds it. -/
def lawEntryMem (s : State) (tenant index : Nat) : BitVec 256 :=
  BitVec.ofNat 256 (ofBytes (paBytes s (lawEntryPa s tenant index) 32))
/-- The entries that a form reads for a word of a law: that law's, but for SET; its operand's for SET and LAW (13 R306). -/
def LawForm.reads (form : LawForm) (law index : Nat) : List Nat :=
  match form with
  | .set => [index]
  | .law => [law, index]
  | _ => [law]
/-- A valid entry. -/
def lawValid (s : State) (e : BitVec 256) : Option (BitVec 256) := if lawInvalid s e then none else some e

/-- The entry that a core's law unit uses: its cached copy, or device memory. -/
def unitEntry (s : State) (c : CoreId) (tenant : Option Nat) (index : Nat) : Option (BitVec 256) :=
  match tenant with
  | none => none
  | some t =>
    match (s.core c).lawCache.find? fun e => e.1 == t * 256 + index with
    | some e => lawValid s e.2
    | none => lawValid s (lawEntryMem s t index)
/-- An entry taken into the law unit's cache of 16. -/
def unitCache (c : CoreId) (tenant : Option Nat) (index : Nat) (s : State) : State :=
  match tenant with
  | none => s
  | some t =>
    let x := s.core c
    if x.lawCache.any fun e => e.1 == t * 256 + index then s
    else s.setCore c { x with lawCache := ((t * 256 + index, lawEntryMem s t index) :: x.lawCache).take 16 }

/-- The packets of crossings sent (13 R307). -/
def sendCrossings (r : LawResult) (addr : W64) (source : BitVec 32) (d : BitVec 16) (s : State) : State :=
  r.events.foldl (fun s e => sendPacket s
    { id := 0
      route := r.route
      time := e.1
      source := source
      payload := layout 16 [(0, 8, addr.toNat), (8, 4, e.2.1), (12, 1, e.2.2.1), (13, 1, e.2.2.2)]
      sender := none
      domain := d
      trusted := privileged d }) s

end Sys2Proof.Machine
end

