-- ==== Sys2Proof/Machine/Ship.lean ====
section
/-!
DEFINITION. Ship.lean: shipped operations (13 R292, R293), law operations (R305) and tickets (R297–R300) as their
strands issue them. What a hook or a slice does with them stands in Hooks.lean and Tickets.lean.
-/
namespace Sys2Proof.Machine

/-- Lanes of A replaced from lane i on. -/
def setLanesFrom (a : Strip) (i : Nat) : List W64 → Strip
  | [] => a
  | v :: vs => setLanesFrom (setLane64 a i v) (i + 1) vs

/-- The tenant number a request carries: 255 for firmware. -/
def requestTenant (s : State) (d : BitVec 16) : Nat := (tenantOf s d).getD 255

/-- The place that a request to a hook names: one byte's. -/
def hookPlace (k : StrandId) (acc : Acc) (addr : W64) : Act Place := do
  match ← resolve k acc [(addr.toNat, 1)] with
  | [{ target := .page p, .. }] => pure p
  | _ => trapAt Cause.accessRights addr

/-- An access of n bytes of a line from an offset before a place on: it faults where a sector of device memory holds buffered
words of another strand of the core (08 R199). -/
def bufferCheck (k : StrandId) (va : Nat) (p : Place) (back n : Nat) : Act Unit :=
  match p with
  | .dev key => (sectorStarts (key - back) n).forM fun i => checkSector k (va - back + i) (key - back + i) false
  | _ => pure ()

/-- A strand's request of a hook counted at its panel's translation slice (02 R57, 07 R174); a host's is, where its address is
translated. -/
def countHook (r : HookReq) (s : State) : State :=
  match r.requester with
  | .strand k => countLine k.core.panel r.va.toNat r.place s
  | .append k => countLine k.core.panel r.va.toNat r.place s
  | .host _ => s
/-- A request given to the network: it reaches its hook. -/
def sendHook (r : HookReq) (s : State) : State :=
  ({ s with hookReqs := s.hookReqs ++ [r] } : State) |> countHook r |>.post .hookRequest { id := r.id }

/-! ## SHIP (13 R292, R293) -/

/-- The alignment of a routine's target (13 R294); a reserved routine has none, and its hook answers HOOK_ERROR (R296). -/
def shipAlign (n : Nat) : Nat :=
  if 30 ≤ n then 1
  else if 20 ≤ n ∧ n ≤ 23 then 128
  else if (9 ≤ n ∧ n ≤ 11) ∨ n = 17 ∨ n = 19 then 4 else 8

/-- The bytes of the line that a routine acts on: from how far before the target, and how many (13 R294, 02 R72). -/
def shipExtent (n addr : Nat) : Nat × Nat :=
  if 48 ≤ n ∨ (20 ≤ n ∧ n ≤ 23) then (addr % 128, 128) else (0, shipAlign n)

/-- A release on the ship path waits for the strand's core-path accesses and its ships (08 R188). -/
def awaitShips (k : StrandId) : Act Unit := do
  awaitCore k
  if (← get).hookReqs.any fun h => h.mine k && !lawRoutine h.routine then throw .stall

/-- SHIP: the request goes out, and its reply completes the instruction. -/
def shipBody (ord rm : BitVec 2) (n : BitVec 8) (p : BitVec 3) (x : Strand) : Act Effect := do
  let k := (← get).cur
  let addr := (x.ptr p).base
  if x.isFixed then trapAt Cause.fixedSync addr
  if addr.toNat % shipAlign n.toNat != 0 then trapAt Cause.misaligned addr
  let place ← hookPlace k .ship addr
  let extent := shipExtent n.toNat addr.toNat
  bufferCheck k addr.toNat place extent.1 extent.2
  awaitAcquire k
  if ord.getLsbD 1 then awaitShips k
  let id ← modifyGet State.fresh
  modify fun s => sendHook
    { id := id, routine := n.toNat, place := place, va := addr
      h0 := lane64 x.a 0, h1 := lane64 x.a 1, h3 := lane64 x.a 2, rm := rm
      tenant := requestTenant s x.domain, requester := .strand k
      acquire := ord.getLsbD 0, carrier := ord != 0, stage := 0, domain := x.domain } s
  pure { async := some id }

/-- SHIP -/
def execShip (la : BitVec 4) (ord rm : BitVec 2) (n : BitVec 8) (p : BitVec 3) (s : State) :
    Host.Outcome State Fault Refusal :=
  perform (.ship la ord rm n p) la (shipBody ord rm n p) s

/-! ## LAWO (13 R305) -/

/-- The hook routine of a form. -/
def LawForm.routine : LawForm → Nat
  | .rd => 24 | .add => 25 | .set => 26 | .swap => 27 | .law => 28 | .chk => 29

/-- The results of a law operation in the strand: its report in lanes 0–3, and its flags. -/
def lawWrites (a : Strip) (report : Option (List W64)) (flags : Nat) : List RegWrite :=
  (match report with
   | some r => [.a (setLanesFrom a 0 r)]
   | none => []) ++ flagWrite flags

/-- The entries of a tenant's table that the law unit reads and does not hold, through its panel's region table and their home caches:
a read waits or faults there as any access of the strand does (02 R53, R54, R75; log 58). All are reached before one is read. -/
def lawFetch (k : StrandId) (addr : W64) (t : Option Nat) (indexes : List Nat) : Act Unit := do
  match t with
  | none => pure ()
  | some t =>
    let s ← get
    let missing := indexes.filter fun i => !(s.core k.core).lawCache.any fun e => e.1 == t * 256 + i
    missing.forM fun i => do
      let s ← get
      match regionPlace s .law (lawEntryPa s t i) with
      | .error f => strandFault k .law addr.toNat f
      | .ok p => if placeStays s p then modify (stayQueue p); throw .stall
    modify fun s => missing.foldl (fun s i =>
      let pa := lawEntryPa s t i
      let key := regionKey (paEntry s pa) pa
      homeTouch key false (countRegion k.core.panel (pa / 2 ^ 21) (keyStack key) s)) s
where
  /-- The line's DRAM is in self-refresh. -/
  placeStays (s : State) (p : Place) : Bool := match p with | .dev key => mustWait s key | _ => false
  /-- Its read enters the queue of its slice. -/
  stayQueue (p : Place) (s : State) : State := match p with | .dev key => queueRead key none s | _ => s

/-- LAWO: the law unit serves a word of the own scratchpad at once; the hook of its line serves one in device memory. It
raises the faults of 13 R309 and no other: a word over a horizon area is written, and a sector with another strand's buffered words
is no conflict (log 40). -/
def lawBody (form : LawForm) (inc : Bool) (p : BitVec 3) (x : Strand) : Act Effect := do
  let k := (← get).cur
  let addr := (x.ptr p).base
  let bumps := bump x inc p
  if addr.toNat % 16 != 0 then trapAt Cause.misaligned addr
  match ← resolve k .law [(addr.toNat, 16)] with
  | [{ target := .scratch c off, .. }] =>
    let s ← get
    let y := s.core c
    if overlaps y off 16 then throw (.wait .landing)
    if scratchBad y off 16 then throw (.kill 1)
    let t := tenantOf s x.domain
    let word := y.scratch.nat off 16
    let index := (lane64 x.a 3).toNat % 256
    lawFetch k addr t (form.reads (lawWord word).law index)
    match lawOp (unitEntry s c t) form word (lane64 x.a 0).toNat ((lane64 x.a 1).toNat % 2 ^ 32) index x.stime with
    | .error cause => trapAt cause addr
    | .ok r =>
      modify fun s =>
        let s := unitCache c t (if form == .set then index else (lawWord word).law) s
        let s := scratchStore c ((toBytes 16 r.word.image).zipIdx.map fun b => (off + b.2, b.1)) s
        sendCrossings r addr (sourceId s.package.pkg.toNat c.panel c.index 15) x.domain s
      pure { ws := lawWrites x.a r.report r.flags ++ bumps }
  | [{ target := .page place, .. }] =>
    if x.isFixed then trapAt Cause.fixedPath addr
    let id ← modifyGet State.fresh
    modify fun s => sendHook
      { id := id, routine := form.routine, place := place, va := addr
        h0 := lane64 x.a 0
        h1 := BitVec.ofNat 64 ((lane64 x.a 3).toNat % 256 * 2 ^ 32 + (lane64 x.a 1).toNat % 2 ^ 32)
        h3 := x.stime, rm := 0
        tenant := requestTenant s x.domain, requester := .strand k
        acquire := false, stage := 0, domain := x.domain } s
    pure { ws := bumps, async := some id }
  | _ => trapAt Cause.accessRights addr

/-- LAWO_RD -/
def execLawoRd (la : BitVec 4) (inc : Bool) (p : BitVec 3) (s : State) : Host.Outcome State Fault Refusal :=
  perform (.lawoRd la inc p) la (lawBody .rd inc p) s
/-- LAWO_ADD -/
def execLawoAdd (la : BitVec 4) (inc : Bool) (p : BitVec 3) (s : State) : Host.Outcome State Fault Refusal :=
  perform (.lawoAdd la inc p) la (lawBody .add inc p) s
/-- LAWO_SET -/
def execLawoSet (la : BitVec 4) (inc : Bool) (p : BitVec 3) (s : State) : Host.Outcome State Fault Refusal :=
  perform (.lawoSet la inc p) la (lawBody .set inc p) s
/-- LAWO_SWAP -/
def execLawoSwap (la : BitVec 4) (inc : Bool) (p : BitVec 3) (s : State) : Host.Outcome State Fault Refusal :=
  perform (.lawoSwap la inc p) la (lawBody .swap inc p) s
/-- LAWO_LAW -/
def execLawoLaw (la : BitVec 4) (inc : Bool) (p : BitVec 3) (s : State) : Host.Outcome State Fault Refusal :=
  perform (.lawoLaw la inc p) la (lawBody .law inc p) s
/-- LAWO_CHK -/
def execLawoChk (la : BitVec 4) (inc : Bool) (p : BitVec 3) (s : State) : Host.Outcome State Fault Refusal :=
  perform (.lawoChk la inc p) la (lawBody .chk inc p) s

/-! ## Tickets (13 R297–R301) -/

/-- STACK of a ticket -/
def tkStack (t : W64) : Nat := t.toNat / 2 ^ 52 % 16
/-- The entry within its stack: slice × 2048 + entry. -/
def tkEntry (t : W64) : Nat := t.toNat / 2 ^ 36 % 2 ^ 16
/-- GEN -/
def tkGen (t : W64) : BitVec 20 := t.extractLsb' 16 20
/-- DOMAIN -/
def tkDomain (t : W64) : BitVec 12 := t.extractLsb' 4 12
/-- SIZE -/
def tkSize (t : W64) : Nat := t.toNat % 16
/-- The bytes of a size code. -/
def ticketBytes (size : Nat) : Nat := 32 * 2 ^ size
/-- A ticket's form is good (13 R299). -/
def tkGood (t : W64) : Bool := t.toNat / 2 ^ 60 == 1 && t.toNat / 2 ^ 56 % 16 == 0 && tkStack t < 12 && tkSize t < 3
/-- The ticket of an entry (13 R301). -/
def mkTicket (stack entry : Nat) (e : TicketEntry) : W64 :=
  BitVec.ofNat 64 (2 ^ 60 + stack * 2 ^ 52 + entry * 2 ^ 36 + e.gen.toNat * 2 ^ 16 + e.domain.toNat * 16 + e.size.toNat)
/-- The entry that a ticket names. -/
def ticketEntry (s : State) (t : W64) : TicketEntry := Table.get {} (s.stack (tkStack t)).tickets (tkEntry t)
/-- An entry written. -/
def setTicket (stack entry : Nat) (e : TicketEntry) (s : State) : State :=
  let x := s.stack stack
  s.setStack stack { x with tickets := Table.set {} x.tickets entry e }
/-- The ticket names no live fetch: its entry is free, or of another generation. -/
def tkStale (s : State) (t : W64) : Bool :=
  !tkGood t || !(ticketEntry s t).used || (ticketEntry s t).gen != tkGen t
/-- An entry freed: its generation advances by 1; the redeems that wait for its data look again (13 R299). -/
def freeTicket (t : W64) (s : State) : State :=
  let e := ticketEntry s t
  e.waiters.foldl (fun s w => s.post .ticketRedeem { id := w }) (setTicket (tkStack t) (tkEntry t) { gen := e.gen + 1 } s)

/-- The domain identifier of a strand. -/
def Strand.domainId (x : Strand) : BitVec 12 := x.domain.extractLsb' 4 12

/-- Where a fetch is held: its home slice, or the issuing panel's own stack (13 R298). -/
def ticketHome (s : State) (k : StrandId) (p : Place) : Nat × Nat :=
  match p with
  | .dev key => (keyStack key, keySlice s key)
  | _ =>
    let x := s.stack k.core.panel
    (k.core.panel, physChannel x (k.core.index % liveChannels x))

/-- TICK is not allowed in fixed mode (08 R200). -/
def tickGuard (x : Strand) (addr : W64) : Act Unit := if x.isFixed then trapAt Cause.fixedPath addr else pure ()

/-- LD: the fetch goes out; the ticket's return completes the instruction. -/
def tickLdBody (j : BitVec 4) (sz : BitVec 2) (p : BitVec 3) (x : Strand) : Act Effect := do
  let k := (← get).cur
  let addr := (x.ptr p).base
  let n := ticketBytes sz.toNat
  tickGuard x addr
  if addr.toNat % n != 0 then trapAt Cause.misaligned addr
  match ← resolve k .ticket [(addr.toNat, n)] with
  | [{ target := .page place, .. }] =>
    let places := (List.range n).map (placePlus place)
    bufferCheck k addr.toNat place 0 n
    let s ← get
    if places.any fun q => (ownStore s k q).isSome then throw .stall
    let id ← modifyGet State.fresh
    let home := ticketHome s k place
    let r : TicketReq :=
      { id := id, strand := k, lane := j.toNat, bytes := places, size := sz, stack := home.1, slice := home.2
        ticket := 0, off := 0, redeem := false }
    modify fun s => (countLine k.core.panel addr.toNat place { s with ticketReqs := s.ticketReqs ++ [r] }).post .ticketFetch { id := id }
    pure { async := some id }
  | _ => trapAt Cause.accessRights addr

/-- RD: the landing enters the scoreboard and the redeem goes out; the landing completes the instruction. -/
def tickRdBody (j : BitVec 4) (p : BitVec 3) (x : Strand) : Act Effect := do
  let k := (← get).cur
  let addr := (x.ptr p).base
  let t := lane64 x.a j.toNat
  let n := if tkSize t < 3 then ticketBytes (tkSize t) else 32
  tickGuard x addr
  if !(inScratch addr n && addr.toNat % 32 == 0) then trapAt Cause.accessRights addr
  if !tkGood t then trapHere x Cause.ticketFormat
  let s ← get
  let off := addr.toNat - scratchBase
  let c := s.core k.core
  if hitsHorizon s k.core off n then trapAt Cause.fixedHorizon addr
  if overlaps c off n || !rangeFree c then throw (.wait .landing)
  let id ← modifyGet State.fresh
  let r : TicketReq :=
    { id := id, strand := k, lane := j.toNat, bytes := [], size := BitVec.ofNat 2 (tkSize t), stack := tkStack t
      slice := tkEntry t / 2048, ticket := t, off := off, redeem := true }
  let range : Range := { off := off, len := n, zone := false, id := id, landed := 0, strand := k.num }
  modify fun s =>
    let c := s.core k.core
    let s := s.setCore k.core { c with ranges := c.ranges ++ [range] }
    ({ s with ticketReqs := s.ticketReqs ++ [r] } : State).post .ticketRedeem { id := id }
  pure { async := some id }

/-- DROP: the entry is freed; a stale ticket is left (13 R300). In fixed mode it faults (08 R200; log 40). -/
def tickDropBody (j : BitVec 4) (x : Strand) : Act Effect := do
  let s ← get
  let t := lane64 x.a j.toNat
  if x.isFixed then trapHere x Cause.fixedPath
  else if tkStale s t then pure {}
  else if tkDomain t != x.domainId then trapHere x Cause.ticketDomain
  else
    modify (freeTicket t)
    pure {}

/-- The state of a ticket: 0 FILLING, 1 READY, 2 STALE, 3 FOREIGN. -/
def ticketState (s : State) (x : Strand) (t : W64) : Nat :=
  if tkStale s t then 2
  else if tkDomain t != x.domainId then 3
  else if (ticketEntry s t).filled then 1 else 0

/-- Q: no ticket makes it fault (13 R300); in fixed mode it does, as every TICK (08 R200; log 40). -/
def tickQBody (j : BitVec 4) (x : Strand) : Act Effect := do
  let s ← get
  if x.isFixed then trapHere x Cause.fixedPath
  else pure { ws := [.a (setLane64 x.a 0 (BitVec.ofNat 64 (ticketState s x (lane64 x.a j.toNat))))] }

/-- TICK_LD -/
def execTickLd (la j : BitVec 4) (sz : BitVec 2) (p : BitVec 3) (s : State) : Host.Outcome State Fault Refusal :=
  perform (.tickLd la j sz p) la (tickLdBody j sz p) s
/-- TICK_RD -/
def execTickRd (la j : BitVec 4) (p : BitVec 3) (s : State) : Host.Outcome State Fault Refusal :=
  perform (.tickRd la j p) la (tickRdBody j p) s
/-- TICK_DROP -/
def execTickDrop (la j : BitVec 4) (s : State) : Host.Outcome State Fault Refusal :=
  perform (.tickDrop la j) la (tickDropBody j) s
/-- TICK_Q -/
def execTickQ (la j : BitVec 4) (s : State) : Host.Outcome State Fault Refusal :=
  perform (.tickQ la j) la (tickQBody j) s

end Sys2Proof.Machine
end

