-- ==== Sys2Proof/Machine/Strands.lean ====
section
/-!
DEFINITION. Strands.lean: the start of a strand (06 R140), STRN (14 R317–R320) and MSG (R323–R326).
-/
namespace Sys2Proof.Machine

namespace Cause
/-- STRAND_ROLE -/
def strandRole : Nat := 0x67
/-- BIND_INVALID -/
def bindInvalid : Nat := 0x68
/-- BIND_TAKEN -/
def bindTaken : Nat := 0x69
/-- BIND_FULL -/
def bindFull : Nat := 0x6A
/-- BIND_BUSY -/
def bindBusy : Nat := 0x6B
/-- BIND_ABSENT -/
def bindAbsent : Nat := 0x6C
/-- RING_FULL -/
def ringFull : Nat := 0x6D
/-- LANDING_INVALID -/
def landingInvalid : Nat := 0x6E
/-- MATRIX_CRC -/
def matrixCrc : Nat := 0x6F
/-- MATRIX_FIELD -/
def matrixField : Nat := 0x70
/-- MATRIX_DEST -/
def matrixDest : Nat := 0x71
end Cause

/-! ## The start of a strand (06 R140) -/

/-- What a strand starts with. -/
structure Start where
  pc : W64
  bases : List W64
  a : Strip := 0
  stime : W64
  domain : BitVec 16
  role : Role
  /-- started by START -/
  started : Bool := false
  deriving DecidableEq, Repr

/-- Strand k as it starts: P0–P3 from the start, P7 at the top of its stack, the rest zero. -/
def startStrand (k : StrandId) (i : Start) (s : State) : State :=
  enlist k (s.setStrand k
    { pc := i.pc
      a := i.a
      stime := i.stime
      domain := i.domain
      role := i.role
      started := i.started
      state := .ready
      faultSeq := (s.strand k).faultSeq
      p := Vector.ofFn fun n =>
        if n.val < 4 then { base := i.bases.getD n.val 0 }
        else if n.val = 7 then { base := BitVec.ofNat 64 (0x01F0000000080000 - k.num * 0x1000) }
        else {} })

/-! ## STRN -/

/-- An entry address that cannot be fetched from (10 R223). -/
def badEntry (pc : W64) : Bool := pc.getLsbD 0 || decide (2 ^ 57 ≤ pc.toNat)

/-- A START that waited for a helper has one: packets that its wait held back may start (06 R152, R160). -/
def startTaken (c : CoreId) (s : State) : State :=
  let x := s.core c
  if x.startWaits then (s.setCore c { x with startWaits := false }).post .handlerStart { core := c } else s

/-- A START that cannot take its helper yet waits: no handler starts before it (06 R141, R152). -/
def startWaiting (c : CoreId) (s : State) : State := s.setCore c { s.core c with startWaits := true }

/-- START: it waits for a helper, then releases. -/
def startBody (p : BitVec 3) (x : Strand) : Act Effect := do
  let k := (← get).cur
  if k.num != 0 then trapHere x Cause.strandRole
  if x.isFixed then trapHere x Cause.fixedSync
  if badEntry (x.ptr p).base then trapHere x Cause.fetchAlign
  let s ← get
  match freeHelper s k.core with
  | none =>
    modify (startWaiting k.core)
    throw (.wait .helperSlot)
  | some h =>
    if !corePerformed s k || slotsHeld s k.core h.num then
      modify (startWaiting k.core)
      throw .stall
    modify fun s =>
      acquire k.core (startStrand h
        { pc := (x.ptr p).base
          bases := [(x.ptr 0).base, (x.ptr 1).base, (x.ptr 2).base, (x.ptr 3).base]
          stime := x.stime, domain := x.domain, role := .helper, started := true } (startTaken k.core s))
    pure { ws := [.a (setLane64 x.a 0 (BitVec.ofNat 64 h.num))] }

/-- END: the strand is FREE; a task that has no strand left may be complete. -/
def strandEnd (s : State) : State :=
  let k := s.cur
  let x := s.strand k
  if x.isFixed && holdsWords s k then issue .strnEnd 0 [] (fun x => trapHere x Cause.fixedPending) s
  else if !corePerformed s k then requeue k s
  else
    let s := freeStrand k s
    stopCheck k.core (if x.isHandler then s else taskCheck k.core s)

/-- JOINW: it waits for a helper that START started and that is live. -/
def joinBody (h : BitVec 4) (x : Strand) : Act Effect := do
  let k := (← get).cur
  if k.num != 0 then trapHere x Cause.strandRole
  if x.isFixed then trapHere x Cause.fixedSync
  let y := (← get).strand (mkStrand k.core h.toNat)
  if y.live && y.started then pure { wait := some (.join h.toNat) }
  else
    modify (acquire k.core)
    pure {}

/-- YIELD: the strand is not READY until the others have had their turn (log 13). -/
def yieldBody (_ : Strand) : Act Effect := do
  modify fun s =>
    let k := s.cur
    (s.setStrand k { s.strand k with yielded := true }).post .yieldEnd { strand := k }
  pure {}

/-- The strands of a core that a test picks, as bits. -/
def strandMask (s : State) (c : CoreId) (test : Strand → Bool) : Nat :=
  (List.range 11).foldl (fun m n => m + if test (s.strand (mkStrand c n)) then 2 ^ n else 0) 0

/-- STAT -/
def statBody (x : Strand) : Act Effect := do
  let s ← get
  let c := s.cur.core
  let v := strandMask s c Strand.live + strandMask s c (fun y => y.live && y.isHandler) * 2 ^ 16 + s.cur.num * 2 ^ 32
  pure { ws := [.a (setLane64 x.a 0 (BitVec.ofNat 64 v))] }

/-- A binding made (14 R320), or the first cause that forbids it. -/
def bindTag (b : Binding) (bad : Bool) (x : Strand) : Act Effect := do
  let c := (← get).cur.core
  let y := (← get).core c
  if bad || b.quota = 0 || 64 < b.quota then trapHere x Cause.bindInvalid
  if y.bindings.any fun o => o.tag == b.tag then trapHere x Cause.bindTaken
  if 32 ≤ y.bindings.length then trapHere x Cause.bindFull
  modify fun s => s.setCore c { s.core c with bindings := y.bindings ++ [b] }
  pure {}

/-- BINDH -/
def bindhBody (t : BitVec 8) (p : BitVec 3) (x : Strand) : Act Effect :=
  let e := (x.ptr p).base
  bindTag { tag := t, kind := 1, chan := 0, quota := (x.ptr p).count.toNat, domain := x.domain, entry := e }
    (e == 0 || badEntry e) x

/-- STRN_START -/
def execStrnStart (p : BitVec 3) (s : State) : Host.Outcome State Fault Refusal :=
  performNow (.strnStart p) (startBody p) s
/-- STRN_END -/
def execStrnEnd (s : State) : Host.Outcome State Fault Refusal := .next (strandEnd s)
/-- STRN_JOINW -/
def execStrnJoinw (h : BitVec 4) (s : State) : Host.Outcome State Fault Refusal :=
  performNow (.strnJoinw h) (joinBody h) s
/-- STRN_YIELD -/
def execStrnYield (s : State) : Host.Outcome State Fault Refusal := performNow .strnYield yieldBody s
/-- STRN_STAT -/
def execStrnStat (s : State) : Host.Outcome State Fault Refusal := performNow .strnStat statBody s
/-- STRN_BINDH -/
def execStrnBindh (t : BitVec 8) (p : BitVec 3) (s : State) : Host.Outcome State Fault Refusal :=
  performNow (.strnBindh t p) (bindhBody t p) s

/-! ## MSG -/

/-- SEND: it completes when the network interface takes the packet. -/
def sendBody (n : BitVec 5) (p : BitVec 3) (x : Strand) : Act Effect := do
  let s ← get
  let k := s.cur
  if x.isFixed then trapHere x Cause.fixedSync
  let r := (x.ptr p).base
  match route s (privileged x.domain) r with
  | .invalid => trapHere x Cause.routeInvalid
  | .priv => trapHere x Cause.routePriv
  | _ => pure ()
  if sendFull s k then throw (.wait .sendBuffer)
  awaitCore k
  modify fun s => sendPacket s
    { id := 0, route := r, time := x.stime, source := strandSource s k
      payload := (stripBytes x.a).take (8 * n.toNat), sender := some k
      domain := x.domain, trusted := privileged x.domain }
  pure {}

/-- POP -/
def popBody (c : BitVec 3) (x : Strand) : Act Effect := do
  let k := (← get).cur
  pure { ws := [.a (← popChannel k x c.toNat)] }

/-- PEEK: the head of the channel, which stays. -/
def peekBody (c : BitVec 3) (x : Strand) : Act Effect := do
  if x.isFixed then trapHere x Cause.fixedSync
  let s ← get
  let v := match channelOf (s.core s.cur.core) c.toNat with
    | [] => [0, 0, 0]
    | p :: _ => [p.source.setWidth 64, p.time, BitVec.ofNat 64 (2 ^ 16 + p.payload.length * 256 + p.pair.2.toNat)]
  pure { ws := [.a (setLanesFrom x.a 0 v)] }

/-- BINDC -/
def bindcBody (c : BitVec 3) (t : BitVec 8) (p : BitVec 3) (x : Strand) : Act Effect :=
  bindTag { tag := t, kind := 2, chan := c, quota := (x.ptr p).count.toNat, domain := x.domain, entry := 0 } false x

/-- A handler of the tag is live on the core. -/
def handlerLive (s : State) (c : CoreId) (t : BitVec 8) : Bool :=
  (coreStrands c).any fun k => (s.strand k).live && (s.strand k).role == .handler t

/-- UNBIND -/
def unbindBody (t : BitVec 8) (x : Strand) : Act Effect := do
  let s ← get
  let c := s.cur.core
  let y := s.core c
  if !y.bindings.any fun b => b.tag == t then trapHere x Cause.bindAbsent
  if y.mailbox.any (fun p => p.pair.2 == t) || handlerLive s c t then trapHere x Cause.bindBusy
  modify fun s => s.setCore c { s.core c with bindings := y.bindings.filter fun b => b.tag != t }
  pure {}

/-- QUOTA -/
def quotaBody (t : BitVec 8) (p : BitVec 3) (x : Strand) : Act Effect := do
  let s ← get
  let c := s.cur.core
  let y := s.core c
  let n := (x.ptr p).count.toNat
  if !y.bindings.any fun b => b.tag == t then trapHere x Cause.bindAbsent
  if n = 0 || 64 < n then trapHere x Cause.bindInvalid
  modify fun s => s.setCore c { s.core c with
    bindings := y.bindings.map fun b => if b.tag == t then { b with quota := n } else b }
  pure {}

/-- MSG_SEND -/
def execMsgSend (la : BitVec 4) (n : BitVec 5) (p : BitVec 3) (s : State) : Host.Outcome State Fault Refusal :=
  perform (.msgSend la n p) la (sendBody n p) s
/-- MSG_POP -/
def execMsgPop (la : BitVec 4) (c : BitVec 3) (s : State) : Host.Outcome State Fault Refusal :=
  perform (.msgPop la c) la (popBody c) s
/-- MSG_PEEK -/
def execMsgPeek (la : BitVec 4) (c : BitVec 3) (s : State) : Host.Outcome State Fault Refusal :=
  perform (.msgPeek la c) la (peekBody c) s
/-- MSG_BINDC -/
def execMsgBindc (la : BitVec 4) (c : BitVec 3) (t : BitVec 8) (p : BitVec 3) (s : State) :
    Host.Outcome State Fault Refusal :=
  perform (.msgBindc la c t p) la (bindcBody c t p) s
/-- MSG_UNBIND -/
def execMsgUnbind (la : BitVec 4) (t : BitVec 8) (s : State) : Host.Outcome State Fault Refusal :=
  perform (.msgUnbind la t) la (unbindBody t) s
/-- MSG_QUOTA -/
def execMsgQuota (la : BitVec 4) (t : BitVec 8) (p : BitVec 3) (s : State) : Host.Outcome State Fault Refusal :=
  perform (.msgQuota la t p) la (quotaBody t p) s

end Sys2Proof.Machine
end

