-- ==== Sys2Proof/Machine/Sync.lean ====
section
/-!
DEFINITION. Sync.lean: SYNC (14 R321) and RING (R322), in and out of fixed mode (08 R197–R200).
-/
namespace Sys2Proof.Machine

/-- The object that P⟨p⟩.base names (14 R321). -/
def syncObject (kind : ObjKind) (p : BitVec 3) (x : Strand) : Act Nat := do
  let v := (x.ptr p).base.toNat
  if 65536 ≤ v then trapHere x Cause.syncInvalid
  match objCause (← get) kind v x.domain with
  | some c => trapHere x c
  | none => pure v

/-- In fixed mode the object is in the palette, and its index is given; out of it the object is in no palette (08 R200). -/
def paletteCheck (barrier : Bool) (id : Nat) (x : Strand) : Act (Option Nat) := do
  let s ← get
  if x.isFixed then
    match paletteIndex s x.domain barrier id with
    | some j => pure (some j)
    | none => trapHere x Cause.fixedSync
  else if inPalette s barrier id then trapHere x Cause.fixedSync
  else pure none

/-- The join of a deposit by an acquire in fixed mode (08 R198). -/
def joinNow (x : Strand) : Option Horizon → Act Unit
  | none => pure ()
  | some d => do
    let s ← get
    match joinHorizon (horizon s s.cur) d with
    | none => trapHere x Cause.fixedWrap
    | some h => modify fun s => setHorizon s s.cur h

/-- ARRIVE (06 R156): a release; in fixed mode it publishes and brings its horizon. -/
def arriveAct (q : Bool) (id : Nat) (j : Option Nat) (x : Strand) : Act Unit := do
  let k := (← get).cur
  awaitCore k
  let b := barrierOf (← get) id
  if overruns b q then trapHere x Cause.barrierOverrun
  match j with
  | none => modify (arriveBarrier id q none 0)
  | some j =>
    publish k j (b.gen + if q == b.phase then 1 else 2)
    modify fun s => arriveBarrier id q (some (horizon s k)) j s

/-- WAIT: an acquire once PHASE ≠ q. -/
def waitPhase (q : Bool) (id : Nat) (x : Strand) : Act Effect := do
  let s ← get
  let b := barrierOf s id
  if b.phase != q then
    joinNow x (if x.isFixed then b.deposit else none)
    modify (acquire s.cur.core)
    pure {}
  else pure { wait := some (.barrier id q) }

/-- ARRIVE -/
def syncArriveBody (q : BitVec 1) (p : BitVec 3) (x : Strand) : Act Effect := do
  let id ← syncObject .barrier p x
  arriveAct (q == 1) id (← paletteCheck true id x) x
  pure {}
/-- WAIT -/
def syncWaitBody (q : BitVec 1) (p : BitVec 3) (x : Strand) : Act Effect := do
  let id ← syncObject .barrier p x
  let _ ← paletteCheck true id x
  waitPhase (q == 1) id x
/-- ARRWT -/
def syncArrwtBody (q : BitVec 1) (p : BitVec 3) (x : Strand) : Act Effect := do
  let id ← syncObject .barrier p x
  arriveAct (q == 1) id (← paletteCheck true id x) x
  waitPhase (q == 1) id x

/-- SIGNAL: a release; in fixed mode the counter's one signaller publishes and deposits (08 R198). -/
def syncSignalBody (p : BitVec 3) (x : Strand) : Act Effect := do
  let id ← syncObject .counter p x
  let j ← paletteCheck false id x
  let k := (← get).cur
  let amount := (x.ptr p).count
  match j with
  | none =>
    awaitCore k
    modify (signalCounter id amount)
  | some j =>
    let c := counterOf (← get) id
    if c.signaller.any fun o => o != k then trapHere x Cause.fixedSync
    awaitCore k
    publish k j ((c.value + amount).setWidth 18)
    modify fun s => signalFixed k id j amount (horizon s k) s
  pure {}

/-- CWAIT: an acquire once the value has reached the count. -/
def syncCwaitBody (p : BitVec 3) (x : Strand) : Act Effect := do
  let id ← syncObject .counter p x
  let _ ← paletteCheck false id x
  let s ← get
  let c := counterOf s id
  let w := (x.ptr p).count
  if w.toNat ≤ c.value.toNat then
    if x.isFixed then
      match counterJoin c w with
      | .nothing => pure ()
      | .deposit d => joinNow x (some d)
      | .history => trapHere x Cause.fixedHistory
    modify (acquire s.cur.core)
    pure {}
  else pure { wait := some (.counter id w) }

/-- CREAD and CSET fault in fixed mode, and on a palette counter (08 R200). -/
def plainCounter (p : BitVec 3) (x : Strand) : Act Nat := do
  let id ← syncObject .counter p x
  if x.isFixed || inPalette (← get) false id then trapHere x Cause.fixedSync
  pure id
/-- CREAD -/
def syncCreadBody (p : BitVec 3) (x : Strand) : Act Effect := do
  let id ← plainCounter p x
  pure { ws := [.a (setLane64 x.a 0 ((counterOf (← get) id).value.setWidth 64))] }
/-- CSET: a release. -/
def syncCsetBody (p : BitVec 3) (x : Strand) : Act Effect := do
  let id ← plainCounter p x
  awaitCore (← get).cur
  modify fun s => counterMoved id none (setCounter id { counterOf s id with value := (x.ptr p).count } s)
  pure {}

/-- SYNC_ARRIVE -/
def execSyncArrive (q : BitVec 1) (p : BitVec 3) (s : State) : Host.Outcome State Fault Refusal :=
  performNow (.syncArrive q p) (syncArriveBody q p) s
/-- SYNC_WAIT -/
def execSyncWait (q : BitVec 1) (p : BitVec 3) (s : State) : Host.Outcome State Fault Refusal :=
  performNow (.syncWait q p) (syncWaitBody q p) s
/-- SYNC_ARRWT -/
def execSyncArrwt (q : BitVec 1) (p : BitVec 3) (s : State) : Host.Outcome State Fault Refusal :=
  performNow (.syncArrwt q p) (syncArrwtBody q p) s
/-- SYNC_SIGNAL -/
def execSyncSignal (p : BitVec 3) (s : State) : Host.Outcome State Fault Refusal :=
  performNow (.syncSignal p) (syncSignalBody p) s
/-- SYNC_CWAIT -/
def execSyncCwait (p : BitVec 3) (s : State) : Host.Outcome State Fault Refusal :=
  performNow (.syncCwait p) (syncCwaitBody p) s
/-- SYNC_CREAD -/
def execSyncCread (p : BitVec 3) (s : State) : Host.Outcome State Fault Refusal :=
  performNow (.syncCread p) (syncCreadBody p) s
/-- SYNC_CSET -/
def execSyncCset (p : BitVec 3) (s : State) : Host.Outcome State Fault Refusal :=
  performNow (.syncCset p) (syncCsetBody p) s

/-! ## RING (14 R322) -/

/-- The ring that P⟨p⟩.base names; rings are not used in fixed mode. -/
def ringObject (p : BitVec 3) (x : Strand) : Act Nat := do
  let id ← syncObject .ring p x
  if x.isFixed then trapHere x Cause.fixedSync
  pure id

/-- The address of slot i for a strand's core. -/
def slotAddress (c : CoreId) (r : Ring) (i : BitVec 16) : W64 :=
  BitVec.ofNat 64 (if r.core = c then scratchBase + ringOffset r i
    else 0x01F1000000000000 + r.core.index * 0x100000 + ringOffset r i)

/-- AWAIT: an acquire once a slot is filled. -/
def ringAwaitBody (p : BitVec 3) (x : Strand) : Act Effect := do
  let id ← ringObject p x
  let s ← get
  let r := ringOf s id
  if !ringReady r then throw (.wait (.ring id))
  modify (acquire s.cur.core)
  pure { ws := [.a (setLanesFrom x.a 0 [slotAddress s.cur.core r r.rd, r.rd.setWidth 64])] }
/-- RELEASE -/
def ringReleaseBody (p : BitVec 3) (x : Strand) : Act Effect := do
  let id ← ringObject p x
  let r := ringOf (← get) id
  if !ringReady r then trapHere x Cause.ringEmpty
  awaitCore (← get).cur
  modify (setRing id { r with rd := r.rd + 1 })
  pure {}
/-- POST -/
def ringPostBody (p : BitVec 3) (x : Strand) : Act Effect := do
  let id ← ringObject p x
  if ringFull (ringOf (← get) id) then trapHere x Cause.ringFull
  awaitCore (← get).cur
  modify (postRing id)
  pure {}
/-- SLOT -/
def ringSlotBody (p : BitVec 3) (x : Strand) : Act Effect := do
  let id ← ringObject p x
  let s ← get
  let r := ringOf s id
  pure { ws := [.a (setLanesFrom x.a 0 [slotAddress s.cur.core r r.wr, (r.wr - r.rd).setWidth 64])] }

/-- RING_AWAIT -/
def execRingAwait (p : BitVec 3) (s : State) : Host.Outcome State Fault Refusal :=
  performNow (.ringAwait p) (ringAwaitBody p) s
/-- RING_RELEASE -/
def execRingRelease (p : BitVec 3) (s : State) : Host.Outcome State Fault Refusal :=
  performNow (.ringRelease p) (ringReleaseBody p) s
/-- RING_POST -/
def execRingPost (p : BitVec 3) (s : State) : Host.Outcome State Fault Refusal :=
  performNow (.ringPost p) (ringPostBody p) s
/-- RING_SLOT -/
def execRingSlot (p : BitVec 3) (s : State) : Host.Outcome State Fault Refusal :=
  performNow (.ringSlot p) (ringSlotBody p) s

end Sys2Proof.Machine
end

