-- ==== Sys2Proof/Machine/Engines.lean ====
section
/-!
DEFINITION. Engines.lean: COPY (14 R328–R331) and MTRX (R339–R341) as their strands issue them. What the engines do
stands in CopyEngine.lean and Matrix.lean.
-/
namespace Sys2Proof.Machine

/-! ## COPY -/

/-- The pages of 64 KiB that n bytes from va touch, each by one address. -/
def pagesOf (va n : Nat) : List Nat :=
  (List.range ((va % 65536 + n + 65535) / 65536)).map fun i => if i = 0 then va else va / 65536 * 65536 + i * 65536

/-- Bytes of the queue header, read as a plain load; in fixed mode without its checks (20 R378). -/
def headerBytes (k : StrandId) (x : Strand) (va n : Nat) : Act (List Byte) := do
  if x.isFixed then
    awaitAcquire k
    modify (dropIfGone k.core (va / 128))
    match ← resolve k .read [(va, n)] with
    | [{ target := .page place, .. }] =>
      let l ← readBytes k va place n
      if l.any Prod.snd then throw (.kill 1)
      pure (l.map Prod.fst)
    | [p] => readPiece k p
    | _ => pure []
  else
    let l ← load k .read [(va, n)]
    pure (gathered l va n)

/-- The translations of the pages of a ring: page number, leaf entry and level of each (07 R173). -/
def slotLeaves (k : StrandId) (pages : List Nat) : Act (List (Nat × W64 × Nat)) := do
  let l ← pages.mapM fun a => do
    if a / 2 ^ 52 = 0x1F then pure none
    else
      match ← modifyGet (translate k.core.panel a) with
      | .leaf e level => pure (some (a / 65536, e, level))
      | _ => pure none
  pure (l.filterMap id)

/-- APPEND: after every check the claim goes to the hook; the store of the packet and its publish follow the reply. -/
def appendBody (p : BitVec 3) (x : Strand) : Act Effect := do
  let k := (← get).cur
  let h := (x.ptr p).base
  if h.toNat % 128 != 0 then trapAt Cause.misaligned h
  let place ← hookPlace k .ship h
  if !x.isFixed then bufferCheck k h.toNat place 0 128
  let hdr ← headerBytes k x (h.toNat + 32) 9
  let base := ofBytes (hdr.take 8)
  let logcap := min (ofBytes (hdr.drop 8)) 16
  let pages := pagesOf base (2 ^ logcap * 64)
  let _ ← resolve k .write (pages.map fun a => (a, 1))
  let leaves ← slotLeaves k pages
  if !x.isFixed then
    awaitCore k
    if (← get).copyJobs.any fun j => j.appender == some k then throw .stall
  let id ← modifyGet State.fresh
  let word := BitVec.ofNat 512 (x.a.toNat % 2 ^ 448)
  let now ← get
  let far := if x.isFixed then some (horizon now k) else none
  modify fun s => sendHook
    { id := id, routine := 20, place := place, va := h, h0 := 0, h1 := BitVec.ofNat 64 base, h3 := BitVec.ofNat 64 logcap
      rm := 0, tenant := requestTenant s x.domain, requester := .append k, acquire := false, carrier := true, stage := 0
      domain := x.domain, packet := word, skeinS := skeinSeen s k (recBits word 24 6)
      skeinD := skeinSeen s k (recBits word 32 6), horizon := far, leaves := leaves } s
  pure { async := some id }

/-- EXPECT: a zone of the own scratchpad enters the scoreboard. -/
def expectBody (p : BitVec 3) (x : Strand) : Act Effect := do
  let k := (← get).cur
  let va := (x.ptr p).base
  let n := (x.ptr p).count.toNat
  let off := va.toNat - scratchBase
  let c := (← get).core k.core
  if !inScratch va n || n = 0 || overlaps c off n then trapAt Cause.landingInvalid va
  if !rangeFree c then throw (.wait .landing)
  let id ← modifyGet State.fresh
  modify fun s =>
    let c := s.core k.core
    s.setCore k.core { c with
      ranges := c.ranges ++ [{ off := off, len := n, zone := true, id := id, landed := 0, strand := k.num }] }
  pure { ws := [.zone id] }

/-- WAIT: it is pending until the packets appended before it have completed and the zones armed before it have retired. -/
def copyWaitBody (_ : Strand) : Act Effect := do
  let s ← get
  let k := s.cur
  if copiesBusy s k s.nextId then
    modify (copiesAgain k)
    pure { lasts := some (.copies s.nextId) }
  else pure {}

/-- COPY_APPEND -/
def execCopyAppend (la : BitVec 4) (p : BitVec 3) (s : State) : Host.Outcome State Fault Refusal :=
  perform (.copyAppend la p) la (appendBody p) s
/-- COPY_EXPECT -/
def execCopyExpect (la : BitVec 4) (p : BitVec 3) (s : State) : Host.Outcome State Fault Refusal :=
  perform (.copyExpect la p) la (expectBody p) s
/-- COPY_WAIT -/
def execCopyWait (la : BitVec 4) (s : State) : Host.Outcome State Fault Refusal :=
  perform (.copyWait la) la copyWaitBody s

/-! ## MTRX -/

/-- The claim word of P⟨p⟩: in the own scratchpad, aligned, and read. -/
def claimWord (p : BitVec 3) (x : Strand) : Act (Nat × Nat) := do
  awaitAcquire (← get).cur
  let s ← get
  let c := s.core s.cur.core
  let va := (x.ptr p).base
  let off := va.toNat - scratchBase
  if !inScratch va 4 then trapAt Cause.accessRights va
  if va.toNat % 4 != 0 then trapAt Cause.misaligned va
  if hitsHorizon s s.cur.core off 4 then trapAt Cause.fixedHorizon va
  if overlaps c off 4 then throw (.wait .landing)
  if scratchBad c off 4 then throw (.kill 1)
  pure (off, c.scratch.nat off 4)
/-- The claim word written. -/
def setClaim (off v : Nat) : Act Unit :=
  modify fun s => scratchStore s.cur.core ((toBytes 4 v).zipIdx.map fun b => (off + b.2, b.1)) s

/-- SCLAIM -/
def sclaimBody (p : BitVec 3) (x : Strand) : Act Effect := do
  let (off, w) ← claimWord p x
  match (List.range 32).find? fun i => !w.testBit i with
  | some i =>
    setClaim off (w + 2 ^ i)
    pure { ws := [.a (setLane64 x.a 0 (BitVec.ofNat 64 i))] }
  | none => pure { ws := [.a (setLane64 x.a 0 (-1))] }
/-- SREL -/
def srelBody (b : BitVec 5) (p : BitVec 3) (x : Strand) : Act Effect := do
  let (off, w) ← claimWord p x
  setClaim off (if w.testBit b.toNat then w - 2 ^ b.toNat else w)
  pure {}
/-- WAIT: the strand tries again until the unit is idle; a stopped unit's cause is its fault. -/
def mtrxWaitBody (x : Strand) : Act Effect := do
  let s ← get
  let c := s.core s.cur.core
  if c.stop then trapHere x c.mcause.toNat
  if matrixBusy c then throw .stall
  pure {}
/-- STAT -/
def mtrxStatBody (clear : Bool) (x : Strand) : Act Effect := do
  let s ← get
  let c := s.core s.cur.core
  if clear then modify fun s => s.setCore s.cur.core { s.core s.cur.core with mflags := 0, mbound := false }
  pure { ws := [.a (setLane64 x.a 0 (mstat c))] }
/-- SEAL -/
def sealBody (x : Strand) : Act Effect :=
  let crc := crc32 ((stripBytes x.a).take 60)
  pure { ws := [.a (setBits x.a 480 32 crc.toNat)] }
/-- CONT; a discard may free what commands hold. -/
def contBody (discard : Bool) (_ : Strand) : Act Effect := do
  modify fun s =>
    let c := s.cur.core
    let y := s.core c
    if y.stop then
      let s := s.setCore c { y with stop := false, mcause := 0, cmdq := if discard then [] else y.cmdq }
      matrixNext c (if discard then commandsGone c s else s)
    else s
  pure {}

/-- MTRX_SCLAIM -/
def execMtrxSclaim (p : BitVec 3) (s : State) : Host.Outcome State Fault Refusal :=
  performNow (.mtrxSclaim p) (sclaimBody p) s
/-- MTRX_SREL -/
def execMtrxSrel (b : BitVec 5) (p : BitVec 3) (s : State) : Host.Outcome State Fault Refusal :=
  performNow (.mtrxSrel b p) (srelBody b p) s
/-- MTRX_WAIT -/
def execMtrxWait (s : State) : Host.Outcome State Fault Refusal := performNow .mtrxWait mtrxWaitBody s
/-- MTRX_STAT -/
def execMtrxStat (c : Bool) (s : State) : Host.Outcome State Fault Refusal :=
  performNow (.mtrxStat c) (mtrxStatBody c) s
/-- MTRX_SEAL -/
def execMtrxSeal (s : State) : Host.Outcome State Fault Refusal := performNow .mtrxSeal sealBody s
/-- MTRX_CONT -/
def execMtrxCont (d : Bool) (s : State) : Host.Outcome State Fault Refusal :=
  performNow (.mtrxCont d) (contBody d) s

end Sys2Proof.Machine
end

