-- ==== Sys2Proof/Machine/Hooks.lean ====
section
/-!
DEFINITION. Hooks.lean: the hooks of the home slices (02 R68–R74): how a request is taken, queued, refused and
answered (13 R293), and every routine (R294, R295, R308; 03 R87, R88).
-/
namespace Sys2Proof.Machine

/-! ## Requests (02 R68, R69, R75) -/

/-- The stack and the slice of a place; a line of another package has none here. -/
def placeSlice (s : State) : Place → Option (Nat × Nat)
  | .dev key => some (keyStack key, keySlice s key)
  | _ => none

/-- The routine may be run for a tenant (02 R69). -/
def routineAllowed (s : State) (tenant n : Nat) : Bool :=
  if n < 30 then true
  else if n < 48 then false
  else tenant < 32 && (Table.get (0, []) s.package.routines n).1.getLsbD tenant

/-- The event that runs a routine. -/
def hookEvent (n : Nat) : Instr :=
  match n with
  | 0 => .hookAddI64 | 1 => .hookAndI64 | 2 => .hookOrI64 | 3 => .hookXorI64 | 4 => .hookMinI64 | 5 => .hookMaxI64
  | 6 => .hookMinuI64 | 7 => .hookMaxuI64 | 8 => .hookAddsatI64 | 9 => .hookAddI32 | 10 => .hookMinI32
  | 11 => .hookMaxI32 | 12 => .hookFaddRne | 13 => .hookFaddRm | 14 => .hookFmin | 15 => .hookFmax
  | 16 => .hookSwapI64 | 17 => .hookSwapI32 | 18 => .hookCasI64 | 19 => .hookCasI32 | 20 => .hookQueueClaim
  | 21 => .hookQueuePublish | 22 => .hookHashProbe | 23 => .hookHashFind | 24 => .hookLawRd | 25 => .hookLawAdd
  | 26 => .hookLawSet | 27 => .hookLawSwap | 28 => .hookLawLaw | 29 => .hookLawChk | _ => .hookLoadableRoutine

/-- A request as it stands now. -/
def hookReq (s : State) (id : Nat) : Option HookReq := findId HookReq.id s.hookReqs id
/-- A request changed. -/
def setHook (r : HookReq) (s : State) : State := { s with hookReqs := putId HookReq.id s.hookReqs r }
/-- A request gone. -/
def dropHook (id : Nat) (s : State) : State := { s with hookReqs := dropId HookReq.id s.hookReqs id }

/-- A request refused: a strand's interface retries it; a host learns of it (03 R85, R87). -/
def hookRefuse (r : HookReq) (hint : BitVec 16) (s : State) : State :=
  match r.requester with
  | .host t => (setHook { r with stage := 4, reply := some (.refused hint) } s).post .hostShipReply { tenant := t, id := r.id }
  | _ => (setHook { r with stage := 2 } s).post .requestRetry { id := r.id, a := hint.toNat }

/-- A request put in its slice's queue while the DRAM is in self-refresh, or refused (02 R75). -/
def waitForDram (r : HookReq) (stack slice : Nat) (s : State) : State :=
  let s := setHook { r with stage := 1 } s
  let x := s.stack stack
  if x.queue.any fun e => e.1 == r.id then s
  else if 256 ≤ (x.queue.filter fun e => e.2 == slice).length then hookRefuse r 16384 s
  else s.setStack stack { x with queue := x.queue ++ [(r.id, slice)] }

/-- The oldest request that waits for a line starts, if none runs there: its owners are recalled first (02 R68). -/
def hookNext (line : Place) (s : State) : State :=
  let at_ := s.hookReqs.filter fun r => lineStart r.place == line
  if at_.any fun r => r.stage == 3 then s
  else
    let oldest := (at_.filter fun r => r.stage == 1).foldl (fun (b : Option HookReq) r =>
      match b with
      | none => some r
      | some o => if r.arrival < o.arrival then some r else b) none
    match oldest with
    | none => s
    | some r =>
      match line with
      | .dev key =>
        if mustWait s key then waitForDram r (keyStack key) (keySlice s key) s
        else
          let s := homeTouch key false (setHook { r with stage := 3 } s)
          if lineOwned s (key / 128) then (recallLine (key / 128) s).post .ownerRecallAck { id := r.id }
          else s.post (hookEvent r.routine) { id := r.id }
      | _ => (setHook { r with stage := 3 } s).post (hookEvent r.routine) { id := r.id }

/-- What a routine leaves: its reply, the bytes it writes (offset in the line), the packets it posts, and the law
entry it used. -/
structure HookOut where
  reply : HookReply
  writes : List (Nat × Byte) := []
  /-- the STOREs of a loadable routine, in order, each a write of its own (02 R67, R74) -/
  stores : List (List (Nat × Byte)) := []
  packets : List (W64 × W64 × List Byte) := []
  entry : Option (Nat × BitVec 256) := none
  /-- PUB advanced -/
  published : Bool := false
  deriving DecidableEq, Repr

/-- The source of a hook's packets (06 R148). The hook of a line of another package sends them with that package's PKG;
its panel and slice depend on that package's region table, which is not in this one: free values (log 12). -/
def hookSource (s : State) (p : Place) : BitVec 32 :=
  match p with
  | .remote m pa =>
    let home := Config.remoteHome m pa
    sourceId (s.package.pkg.toNat / 128 * 128 + m % 128) home.1.val (204 + home.2.val) 0
  | _ =>
    match placeSlice s p with
    | some (stack, slice) => sourceId s.package.pkg.toNat stack (204 + slice) 0
    | none => sourceId s.package.pkg.toNat 0 204 0

/-- The bytes of the line of a place. -/
def hookLine (s : State) (p : Place) : List Byte := stripBytes (lineBytes s (lineStart p))
/-- A sector among n bytes at an offset of the line is poisoned. -/
def hookBad (s : State) (p : Place) (off n : Nat) : Bool :=
  (sectorStarts off n).any fun i => sectorBad s (placePlus (lineStart p) (off + i))
/-- Bytes written in the line of a place. -/
def hookWrite (p : Place) (bs : List (Nat × Byte)) (s : State) : State :=
  if bs.isEmpty then s
  else
    match lineStart p with
    | .dev key => devWrite (bs.map fun b => (key + b.1, b.2)) s
    | .remote m pa => remoteWrite (bs.map fun b => (m * 2 ^ 40 + pa + b.1, b.2)) s
    | _ => s
/-- A law entry taken into the cache of a hook (02 R69: 16 entries). -/
def hookCache (p : Place) (tenant : Nat) (e : Nat × BitVec 256) (s : State) : State :=
  match placeSlice s p with
  | none => s
  | some (stack, slice) =>
    let x := s.stack stack
    let key := tenant * 256 + e.1
    if x.lawCache.any fun f => f.1 == slice && f.2.1 == key then s
    else
      let mine := (slice, key, e.2) :: x.lawCache.filter fun f => f.1 == slice
      s.setStack stack { x with lawCache := mine.take 16 ++ x.lawCache.filter fun f => f.1 != slice }

/-- The queue of a tenant whose header this is. -/
def queueOf (s : State) (tenant : Nat) (header : W64) : Option (Nat × Queue) :=
  (s.tenant tenant).queues.find? fun q => q.2.header == header.toNat
/-- The consumer of a queue learns that PUB has advanced (03 R88, 14 R327). -/
def notifyConsumer (r : HookReq) (s : State) : State :=
  match queueOf s r.tenant r.va with
  | none => s
  | some (n, q) => s.post (if q.consumer = 0 then .swiftReadSlot else .copySlotRead)
      { panel := q.panel, tenant := r.tenant, a := n }

/-! ## Replies (13 R293, R308; 14 R329) -/

/-- The results of a reply for a strand. -/
def replyWrites (r : HookReq) (a : Strip) (vals : List W64) (status flags : Nat) : List RegWrite :=
  if lawRoutine r.routine then lawWrites a (if r.routine = 26 then none else some vals) flags
  else
    .a (setLanesFrom a 0 [vals.getD 0 0, vals.getD 1 0, BitVec.ofNat 64 (status % 256 + flags % 32 * 256)]) ::
      flagWrite (flags ||| if r.routine = 8 && status = 6 then Flag.sat else 0)

/-- The strand still waits for item id. -/
def awaitsReply (s : State) (k : StrandId) (id : Nat) : Bool :=
  (s.strand k).pending.any fun p => match p.state with | .waiting i _ => i == id | _ => false

/-- Where a slot of an APPEND lies now, by the translation that its check obtained (14 R329). -/
def slotPlace (s : State) (r : HookReq) (k : StrandId) (va : Nat) : Except PageFault Place × State :=
  if va / 2 ^ 48 = 0x1F0 then (.ok (.scratch k.core (va % 2 ^ 48)), s)
  else
    match r.leaves.find? fun l => l.1 == va / 65536 with
    | some l =>
      let region := if pteState l.2.1 = 2 || pteState l.2.1 = 5 then
          some ((pteTarget l.2.1 * 65536 + va % 2 ^ levelShift l.2.2) / 2 ^ 21)
        else none
      inOrder (leafPlace s .write l.2.1 l.2.2 va) region s
    | none => (.error (.pager 0), s)
/-- The slot store cannot be performed yet: its region is held, its stack is in self-refresh, or a routine runs on the line. -/
def slotWaits (s : State) (p : Place) (bs : List Byte) : Bool :=
  lineBusy s p ||
    match p with
    | .dev key => writeMustWait s (bs.zipIdx.map fun b => (key + b.2, b.1))
    | _ => false

/-- Such a store enters its slice's queue where it waits for the DRAM (02 R75). -/
def slotQueue (p : Place) (bs : List Byte) (s : State) : State :=
  match p with
  | .dev key => if writeMustWait s (bs.zipIdx.map fun b => (key + b.2, b.1)) then queueParty key s else s
  | _ => s

/-- Bytes stored at a place by a core's strand, performed at once: outside fixed mode the core owns the words; in fixed mode the
home slice recalls their owners (20 R378). The core's own copies of the line follow. -/
def storeAt (k : StrandId) (fixed : Bool) (va : Nat) (p : Place) (bs : List Byte) (s : State) : State :=
  let copies := fun (keep : Nat) => patchCopies k.core keep (bs.zipIdx.map fun b => (placePlus p b.2, b.1))
  match p with
  | .scratch c off => scratchStore c (bs.zipIdx.map fun b => (off + b.2, b.1)) s
  | .dev key =>
    let s := devWrite (bs.zipIdx.map fun b => (key + b.2, b.1)) s
    if fixed then copies (2 ^ 57) ((sectorStarts key bs.length).foldl (fun s i => recallSector ((key + i) / 32) s) s)
    else copies (va / 128) (registerStore k.core va ((List.range bs.length).map fun i => key + i) s)
  | .host a => copies (2 ^ 57) (hostWrite (bs.zipIdx.map fun b => (a + b.2, b.1)) s)
  | .remote m pa => copies (2 ^ 57) (remoteWrite (bs.zipIdx.map fun b => (m * 2 ^ 40 + pa + b.2, b.1)) s)
  | .zero => s

/-- The publish that follows an APPEND's claim goes to the hook: h0 is the slot, h3 the cause for which its store was not
performed. -/
def appendPublish (r : HookReq) (cause : Nat) (s : State) : State :=
  (countHook r (setHook { r with routine := 21, h3 := BitVec.ofNat 64 cause, stage := 0 } s)).post .hookRequest { id := r.id }

/-- The slot store of an APPEND (14 R329): it is performed, or its cause goes into A lane 9, or it waits; the publish follows
it. A sector that holds buffered words of another strand of the core is not stored to (08 R199), but by a strand in fixed mode,
whose store that check does not concern (20 R378). -/
def appendStore (r : HookReq) (k : StrandId) (s : State) : State :=
  let slot := r.h0.toNat
  let bs := recBytes (sealRecord (BitVec.ofNat 512 (r.packet.toNat + slot % 2 ^ 32 * 2 ^ 448)))
  let va := r.h1.toNat + slot % 2 ^ r.h3.toNat * 64
  let wait := fun (s : State) => (setHook { r with stage := 5 } s).post .requestRetry { id := r.id }
  match slotPlace s r k va with
  | (.error (.hold _), s) => wait s
  | (.error (.pager _), s) => appendPublish r Cause.pageAbsent s
  | (.error (.cause c event), s) =>
    appendPublish r c (match event with
      | some e => postAccessFault r.domain (srcStrand k) (BitVec.ofNat 64 va) e c (strandSource s k) s
      | none => s)
  | (.ok p, s) =>
    let taken := match p with
      | .dev key => (s.core k.core).buffered.any fun b => b.strand != k.num && (b.key / 32 == key / 32 || b.key / 32 == key / 32 + 1)
      | _ => false
    if taken && r.horizon.isNone then appendPublish r Cause.fixedConflict s
    else if slotWaits s p bs then wait (slotQueue p bs s)
    else appendPublish r 0 (countLine k.core.panel va p (storeAt k r.horizon.isSome va p bs s))

/-- The claim of an APPEND has a slot: its packet is stored there. -/
def appendClaimed (r : HookReq) (k : StrandId) (slot : W64) (s : State) : State :=
  let word := sealRecord (BitVec.ofNat 512 (r.packet.toNat + slot.toNat % 2 ^ 32 * 2 ^ 448))
  let s := match queueOf s r.tenant r.va with
    | some (n, q) =>
      if q.consumer = 0 then s
      else
        let j : CopyJob :=
          { id := r.id, panel := q.panel, engine := q.consumer - 1, tenant := r.tenant, queue := n
            slotAddr := slot.toNat, word := word, appender := some k, skeinS := r.skeinS, skeinD := r.skeinD
            horizon := r.horizon, domain := r.domain
            stage := 4, reason := 0, flags := 0, parked := none, parkedSeq := 0 }
        { s with copyJobs := s.copyJobs ++ [j] }
    | none => s
  appendStore { r with h0 := slot } k s

/-- The reply of a routine reaches its requester. A claim whose strand is gone leaves no gap: its slot keeps its earlier bytes
and is published (14 R329; log 42). -/
def hookAnswer (r : HookReq) (reply : HookReply) (s : State) : State :=
  match r.requester, reply with
  | _, .refused hint => hookRefuse r hint s
  | .host t, _ => (setHook { r with stage := 4, reply := some reply } s).post .hostShipReply { tenant := t, id := r.id }
  | .strand k, .done vals status flags =>
    let s := if r.acquire then acquire k.core s else s
    complete k r.id (replyWrites r (s.strand k).a vals status flags) none (dropHook r.id s)
  | .strand k, .error c => complete k r.id [] (some { cause := c, addr := r.va }) (dropHook r.id s)
  | .append k, .done vals _ _ =>
    if r.routine = 20 then
      if awaitsReply s k r.id then appendClaimed r k (vals.getD 0 0) s else appendPublish { r with h0 := vals.getD 0 0 } 0 s
    else complete k r.id [.a (setLane64 (setLane64 (s.strand k).a 8 r.h0) 9 r.h3)] none (dropHook r.id s)
  | .append k, .error c =>
    if r.routine = 20 then complete k r.id [] (some { cause := c, addr := r.va }) (dropHook r.id s)
    else
      let s := { s with copyJobs := dropId CopyJob.id s.copyJobs r.id }
      complete k r.id [.a (setLane64 (setLane64 (s.strand k).a 8 r.h0) 9 r.h3)] none (dropHook r.id s)

/-- A routine has ended: what it leaves happens, and the next request of its line may start. -/
def hookFinish (r : HookReq) (o : HookOut) (s : State) : State :=
  let s := match lineStart r.place with
    | .dev key => if lineOwned s (key / 128) then recallLine (key / 128) s else s
    | _ => s
  let s := o.stores.foldl (fun s w => hookWrite r.place w s) (hookWrite r.place o.writes s)
  let s := match o.entry with | some e => hookCache r.place r.tenant e s | none => s
  let d := r.domain
  let src := hookSource s r.place
  let s := o.packets.foldl (fun s e => sendPacket s
    { id := 0, route := e.1, time := e.2.1, source := src, payload := e.2.2, sender := none, domain := d
      trusted := privileged d }) s
  let s := if o.published then notifyConsumer r s else s
  hookNext (lineStart r.place) (hookAnswer r o.reply (setHook { r with stage := 4 } s))

/-- A request of one strand keeps its place behind its earlier ones of the same kind to the same line that have not reached the
hook yet (08 R187): its network interface holds it back. -/
def hookBehind (s : State) (r : HookReq) : Bool :=
  s.hookReqs.any fun q => q.id < r.id && q.requester == r.requester && (q.stage == 0 || q.stage == 2) &&
    lineStart q.place == lineStart r.place && lawRoutine q.routine == lawRoutine r.routine

/-- A claim of an APPEND whose strand is gone before it is queued is not made. -/
def claimGone (s : State) (r : HookReq) : Bool :=
  match r.requester with
  | .append k => r.routine == 20 && !awaitsReply s k r.id
  | _ => false

/-- A request reaches its hook (02 R68, R69). DESIGN CHOICE (log 35): a request that waits for the DRAM in its slice's queue of 256 (R75)
holds its place in the hook's queue of 32 as well. -/
def hookArrive (id : Nat) (s : State) : State :=
  match hookReq s id with
  | none => s
  | some r =>
    if r.stage != 0 then s
    else if claimGone s r then dropHook id s
    else if !routineAllowed s r.tenant r.routine then hookAnswer r (.error (BitVec.ofNat 8 Cause.hookError)) s
    else if hookBehind s r then hookRefuse r 0 s
    else
      let home := placeSlice s r.place
      let held := s.hookReqs.filter fun q => (q.stage == 1 || q.stage == 3) && home.isSome && placeSlice s q.place == home
      if 32 ≤ held.length then hookRefuse r 256 s
      else
        let (n, s) := s.fresh
        hookNext (lineStart r.place) (setHook { r with stage := 1, arrival := n } s)

/-- HOOK_REQUEST: request id reaches its hook. -/
def execHookRequest (s : State) : Host.Outcome State Fault Refusal := event (fun e s => hookArrive e.id s) s

/-- The owners of the line of request id have answered: its routine runs (02 R64, R68). -/
def recallAnswered (id : Nat) (s : State) : State :=
  match hookReq s id with
  | some r => if r.stage == 3 then s.post (hookEvent r.routine) { id := id } else s
  | none => s
/-- OWNER_RECALL_ACK: id is the request whose routine waits. -/
def execOwnerRecallAck (s : State) : Host.Outcome State Fault Refusal := event (fun e s => recallAnswered e.id s) s

/-- What a routine would write needs DRAM that is in self-refresh (02 R75). -/
def outMustWait (s : State) (r : HookReq) (o : HookOut) : Option (Nat × Nat) :=
  match lineStart r.place with
  | .dev key =>
    if writeMustWait s ((o.writes ++ o.stores.flatten).map fun b => (key + b.1, b.2)) then some (keyStack key, keySlice s key) else none
  | _ => none
/-- An error reply. -/
def hookError (cause : Nat) : HookOut := { reply := .error (BitVec.ofNat 8 cause) }

/-- The cached copy that a hook holds of an entry of a request's tenant. -/
def hookCached (s : State) (r : HookReq) (index : Nat) : Option (Nat × Nat × BitVec 256) :=
  match placeSlice s r.place with
  | some (stack, slice) => (s.stack stack).lawCache.find? fun e => e.1 == slice && e.2.1 == r.tenant * 256 + index
  | none => none
/-- The form of a law routine (13 R305). -/
def lawFormOf (routine : Nat) : Option LawForm :=
  match routine with
  | 24 => some .rd | 25 => some .add | 26 => some .set | 27 => some .swap | 28 => some .law | 29 => some .chk
  | _ => none
/-- The 16 bytes of a law word of a request, and the index that it carries (13 R305). -/
def hookWord (s : State) (r : HookReq) : Nat × Nat :=
  (ofBytes (((hookLine s r.place).drop (lineOffset r.place)).take 16), r.h1.toNat / 2 ^ 32 % 256)
/-- The entries of its tenant's table that a request's routine reads, and its hook does not hold. -/
def hookReads (s : State) (r : HookReq) : List Nat :=
  let off := lineOffset r.place
  match lawFormOf r.routine with
  | none => []
  | some form =>
    if 32 ≤ r.tenant || off % 16 != 0 || hookBad s r.place off 16 then []
    else
      let w := hookWord s r
      (form.reads (lawWord w.1).law w.2).filter fun i => (hookCached s r i).isNone

/-- What the read of law entries by a hook meets. -/
inductive LawReach where
  /-- all can be read, at these keys -/
  | ready (keys : List Nat)
  /-- the DRAM of one is in self-refresh: stack and slice (02 R75) -/
  | dram (stack slice : Nat)
  /-- the region of one is held (02 R54) -/
  | later
  /-- one cannot be read: a cause, and the code of its ACCESS_FAULT (02 R53) -/
  | failed (cause : Nat) (event : Option Nat)
  deriving DecidableEq, Repr
/-- A region swap waits for this request, which was accepted before it (02 R58). -/
def swapAwaits (s : State) (r : HookReq) : Bool :=
  s.agenda.any fun t =>
    match t with
    | .event .regionSwapDrain e => placeIn (entryMedia (regionEntry s e.a)) (entryMedia (regionEntry s e.b)) r.place
    | _ => false
/-- The keys of entries for a hook. DESIGN CHOICE (log 58): an entry is held, and faults, as its region is; one of a region that is being
released fails with PAGE_ABSENT, since a hook has no pager; a request that a region swap waits for reads its entry as it stands. -/
def lawReach (s : State) (r : HookReq) : List Nat → LawReach
  | [] => .ready []
  | i :: is =>
    let pa := lawEntryPa s r.tenant i
    let reach := fun (key : Nat) =>
      if mustWait s key then .dram (keyStack key) (keySlice s key)
      else
        match lawReach s r is with
        | .ready keys => .ready (key :: keys)
        | stop => stop
    match regionPlace s .law pa with
    | .ok (.dev key) => reach key
    | .ok _ => lawReach s r is
    | .error (.hold _) => if swapAwaits s r then reach (regionKey (paEntry s pa) pa) else .later
    | .error (.pager _) => .failed Cause.pageAbsent none
    | .error (.cause c event) => .failed c event
/-- ACCESS_FAULT of a law entry that a hook cannot read, for the requester's tenant (02 R53). -/
def lawUnreached (r : HookReq) (cause : Nat) (event : Option Nat) (s : State) : State :=
  match event, r.requester with
  | some code, .strand k => postAccessFault r.domain (srcStrand k) r.va code cause (strandSource s k) s
  | some code, .host t => postEvent s (some t) srcFirmware 4 [(24, 8, r.va.toNat), (32, 1, code), (33, 1, cause)]
  | _, _ => s
/-- The home caches of law entries are asked for them. -/
def lawTouch (keys : List Nat) (s : State) : State := keys.foldl (fun s key => homeTouch key false s) s

/-- A routine runs for a request at its turn, once the law entries that it reads can be had; it waits in a slice's queue where their
lines or its own writes need DRAM in self-refresh (02 R75). -/
def hookPerform (f : State → HookReq → HookOut) (r : HookReq) (s : State) : State :=
  match lawReach s r (hookReads s r) with
  | .dram stack slice => waitForDram r stack slice s
  | .later => s.post (hookEvent r.routine) { id := r.id }
  | .failed c event => hookFinish r (hookError c) (lawUnreached r c event s)
  | .ready keys =>
    let out := f s r
    let s := lawTouch keys s
    match outMustWait s r out with
    | some (stack, slice) => waitForDram r stack slice s
    | none => hookFinish r out s
/-- The event of a routine: it runs for request id if that request is at its turn. -/
def hookRun (ok : Nat → Bool) (f : State → HookReq → HookOut) (s : State) : Host.Outcome State Fault Refusal :=
  event (fun e s =>
    match hookReq s e.id with
    | some r => if r.stage == 3 && ok r.routine then hookPerform f r s else s
    | none => s) s

/-! ## Atomics (13 R294) -/

/-- An atomic on the target of n bytes: f gives the new value (none: unchanged), the status and the flags. -/
def atomic (n : Nat) (f : HookReq → Nat → Option Nat × Nat × Nat) (s : State) (r : HookReq) : HookOut :=
  let off := lineOffset r.place
  if hookBad s r.place off n then hookError Cause.hookPoison
  else
    let old := ofBytes (((hookLine s r.place).drop off).take n)
    let (new, status, flags) := f r old
    { reply := .done [BitVec.ofNat 64 (ofInt 64 (toSigned (8 * n) old)), 0] status flags
      writes := match new with
        | some v => (toBytes n v).zipIdx.map fun b => (off + b.2, b.1)
        | none => [] }

/-- An integer atomic of a lane function at 8 or 4 bytes: formats i64 and i32. -/
def laneAtomic (n : Nat) (f : LaneFn) (rm : HookReq → Rm) (fmt : BitVec 3) : State → HookReq → HookOut :=
  atomic n fun r old =>
    let v := f fmt false (rm r) old 0 (r.h0.toNat % 2 ^ (8 * n))
    (some v.1, 0, v.2)

/-- HOOK_ADD_I64 -/
def execHookAddI64 (s : State) : Host.Outcome State Fault Refusal := hookRun (· == 0) (laneAtomic 8 laneAdd (fun _ => .ne) 0) s
/-- HOOK_AND_I64 -/
def execHookAndI64 (s : State) : Host.Outcome State Fault Refusal := hookRun (· == 1) (laneAtomic 8 laneAnd (fun _ => .ne) 0) s
/-- HOOK_OR_I64 -/
def execHookOrI64 (s : State) : Host.Outcome State Fault Refusal := hookRun (· == 2) (laneAtomic 8 laneOr (fun _ => .ne) 0) s
/-- HOOK_XOR_I64 -/
def execHookXorI64 (s : State) : Host.Outcome State Fault Refusal := hookRun (· == 3) (laneAtomic 8 laneXor (fun _ => .ne) 0) s
/-- HOOK_MIN_I64 -/
def execHookMinI64 (s : State) : Host.Outcome State Fault Refusal := hookRun (· == 4) (laneAtomic 8 laneMin (fun _ => .ne) 0) s
/-- HOOK_MAX_I64 -/
def execHookMaxI64 (s : State) : Host.Outcome State Fault Refusal := hookRun (· == 5) (laneAtomic 8 laneMax (fun _ => .ne) 0) s
/-- HOOK_MINU_I64 -/
def execHookMinuI64 (s : State) : Host.Outcome State Fault Refusal :=
  hookRun (· == 6) (atomic 8 fun r old => (some (min old r.h0.toNat), 0, 0)) s
/-- HOOK_MAXU_I64 -/
def execHookMaxuI64 (s : State) : Host.Outcome State Fault Refusal :=
  hookRun (· == 7) (atomic 8 fun r old => (some (max old r.h0.toNat), 0, 0)) s
/-- HOOK_ADDSAT_I64 -/
def execHookAddsatI64 (s : State) : Host.Outcome State Fault Refusal :=
  hookRun (· == 8) (atomic 8 fun r old =>
    let v := laneAdd 0 true .ne old 0 r.h0.toNat
    (some v.1, if v.2 = 0 then 0 else 6, 0)) s
/-- HOOK_ADD_I32 -/
def execHookAddI32 (s : State) : Host.Outcome State Fault Refusal := hookRun (· == 9) (laneAtomic 4 laneAdd (fun _ => .ne) 1) s
/-- HOOK_MIN_I32 -/
def execHookMinI32 (s : State) : Host.Outcome State Fault Refusal := hookRun (· == 10) (laneAtomic 4 laneMin (fun _ => .ne) 1) s
/-- HOOK_MAX_I32 -/
def execHookMaxI32 (s : State) : Host.Outcome State Fault Refusal := hookRun (· == 11) (laneAtomic 4 laneMax (fun _ => .ne) 1) s
/-- HOOK_FADD_RNE -/
def execHookFaddRne (s : State) : Host.Outcome State Fault Refusal := hookRun (· == 12) (laneAtomic 8 laneAdd (fun _ => .ne) 4) s
/-- HOOK_FADD_RM -/
def execHookFaddRm (s : State) : Host.Outcome State Fault Refusal :=
  hookRun (· == 13) (laneAtomic 8 laneAdd (fun r => modeOf r.rm.toNat 64 0 0) 4) s
/-- HOOK_FMIN -/
def execHookFmin (s : State) : Host.Outcome State Fault Refusal := hookRun (· == 14) (laneAtomic 8 laneMin (fun _ => .ne) 4) s
/-- HOOK_FMAX -/
def execHookFmax (s : State) : Host.Outcome State Fault Refusal := hookRun (· == 15) (laneAtomic 8 laneMax (fun _ => .ne) 4) s
/-- HOOK_SWAP_I64 -/
def execHookSwapI64 (s : State) : Host.Outcome State Fault Refusal := hookRun (· == 16) (laneAtomic 8 laneMov (fun _ => .ne) 0) s
/-- HOOK_SWAP_I32 -/
def execHookSwapI32 (s : State) : Host.Outcome State Fault Refusal := hookRun (· == 17) (laneAtomic 4 laneMov (fun _ => .ne) 1) s

/-- A compare-and-swap of n bytes. -/
def casAtomic (n : Nat) : State → HookReq → HookOut :=
  atomic n fun r old =>
    if old = r.h0.toNat % 2 ^ (8 * n) then (some (r.h1.toNat % 2 ^ (8 * n)), 0, 0) else (none, 5, 0)
/-- HOOK_CAS_I64 -/
def execHookCasI64 (s : State) : Host.Outcome State Fault Refusal := hookRun (· == 18) (casAtomic 8) s
/-- HOOK_CAS_I32 -/
def execHookCasI32 (s : State) : Host.Outcome State Fault Refusal := hookRun (· == 19) (casAtomic 4) s

/-! ## Queues (03 R86–R88) -/

/-- A queue header. -/
structure Header where
  claim : Nat
  pub : Nat
  read : Nat
  pend : Nat
  base : Nat
  logcap : Nat
  state : Nat
  tenant : Nat
  deriving DecidableEq, Repr

/-- The header of a line. -/
def headerOf (l : List Byte) : Header :=
  let f := fun (at_ n : Nat) => ofBytes ((l.drop at_).take n)
  { claim := f 0 8, pub := f 8 8, read := f 16 8, pend := f 24 8, base := f 32 8, logcap := f 40 1, state := f 41 1
    tenant := f 42 2 }

/-- The capacity of a queue. -/
def Header.cap (h : Header) : Nat := 2 ^ h.logcap

/-- Publish: the bits shifted out and PUB after them; n bounds the loop. -/
def pubLoop : Nat → Nat → Nat → Nat × Nat
  | 0, pend, pub => (pend, pub)
  | n + 1, pend, pub => if pend % 2 = 1 then pubLoop n (pend / 2) (pub + 1) else (pend, pub)

/-- Cases 1 and 2 of R87. -/
def headerError (h : Header) (tenant : Nat) : Option Nat :=
  if h.state != 1 then some Cause.queueOff else if h.tenant != tenant then some Cause.queueTenant else none

/-- The claim of R87. -/
def queueClaim (s : State) (r : HookReq) : HookOut :=
  if hookBad s r.place 0 44 then hookError Cause.hookPoison
  else
    let h := headerOf (hookLine s r.place)
    match headerError h r.tenant with
    | some c => hookError c
    | none =>
      if h.cap ≤ h.claim - h.read || 64 ≤ h.claim - h.pub then { reply := .refused 1024 }
      else
        { reply := .done [BitVec.ofNat 64 h.claim, 0] 0 0
          writes := (toBytes 8 (h.claim + 1)).zipIdx.map fun b => (b.2, b.1) }
/-- The publish of R88. -/
def queuePublish (s : State) (r : HookReq) : HookOut :=
  if hookBad s r.place 0 44 then hookError Cause.hookPoison
  else
    let h := headerOf (hookLine s r.place)
    let slot := r.h0.toNat
    match headerError h r.tenant with
    | some c => hookError c
    | none =>
      if slot < h.pub || h.claim ≤ slot || h.pend.testBit (slot - h.pub) then hookError Cause.queuePublish
      else
        let (pend, pub) := pubLoop 64 (h.pend + 2 ^ (slot - h.pub)) h.pub
        { reply := .done [BitVec.ofNat 64 pub, 0] 0 0
          writes := ((toBytes 8 pub).zipIdx.map fun b => (8 + b.2, b.1)) ++
            (toBytes 8 pend).zipIdx.map fun b => (24 + b.2, b.1)
          published := pub != h.pub }

/-- HOOK_QUEUE_CLAIM -/
def execHookQueueClaim (s : State) : Host.Outcome State Fault Refusal := hookRun (· == 20) queueClaim s
/-- HOOK_QUEUE_PUBLISH -/
def execHookQueuePublish (s : State) : Host.Outcome State Fault Refusal := hookRun (· == 21) queuePublish s

/-! ## Hash entries (13 R295) -/

/-- The search from entry i on. -/
def hashFrom (s : State) (r : HookReq) (insert : Bool) (l : List Byte) : List Nat → HookOut
  | [] => { reply := .done [0, 8] 4 0 }
  | i :: is =>
    if hookBad s r.place (16 * i) 16 then hookError Cause.hookPoison
    else
      let key := ofBytes ((l.drop (16 * i)).take 8)
      if key = r.h0.toNat then
        { reply := .done [BitVec.ofNat 64 (ofBytes ((l.drop (16 * i + 8)).take 8)), BitVec.ofNat 64 i] 1 0 }
      else if key = 0 then
        if insert then
          { reply := .done [r.h1, BitVec.ofNat 64 i] 2 0
            writes := (toBytes 8 r.h0.toNat ++ toBytes 8 r.h1.toNat).zipIdx.map fun b => (16 * i + b.2, b.1) }
        else { reply := .done [0, BitVec.ofNat 64 i] 3 0 }
      else hashFrom s r insert l is
/-- The search of a line. -/
def hashRoutine (insert : Bool) (s : State) (r : HookReq) : HookOut :=
  if r.h0 == 0 then hookError Cause.hookError else hashFrom s r insert (hookLine s r.place) (List.range 8)

/-- HOOK_HASH_PROBE -/
def execHookHashProbe (s : State) : Host.Outcome State Fault Refusal := hookRun (· == 22) (hashRoutine true) s
/-- HOOK_HASH_FIND -/
def execHookHashFind (s : State) : Host.Outcome State Fault Refusal := hookRun (· == 23) (hashRoutine false) s

/-! ## Law operations (13 R305–R309) -/

/-- The entry that a hook uses for a tenant: its cached copy, or device memory; firmware has no law table. -/
def hookLawEntry (s : State) (r : HookReq) (index : Nat) : Option (BitVec 256) :=
  if 32 ≤ r.tenant then none
  else
    match hookCached s r index with
    | some e => lawValid s e.2.2
    | none => lawValid s (lawEntryMem s r.tenant index)

/-- A law operation on the word of a request. -/
def lawRoutineRun (form : LawForm) (s : State) (r : HookReq) : HookOut :=
  let off := lineOffset r.place
  if off % 16 != 0 then hookError Cause.hookAlign
  else if hookBad s r.place off 16 then hookError Cause.hookPoison
  else
    let (word, index) := hookWord s r
    match lawOp (hookLawEntry s r) form word r.h0.toNat (r.h1.toNat % 2 ^ 32) index r.h3 with
    | .error c => hookError c
    | .ok o =>
      let used := if form == .set then index else (lawWord word).law
      { reply := .done (o.report.getD []) 0 o.flags
        writes := (toBytes 16 o.word.image).zipIdx.map fun b => (off + b.2, b.1)
        packets := o.events.map fun (e : W64 × Nat × Nat × Nat) =>
          (o.route, e.1, layout 16 [(0, 8, r.va.toNat), (8, 4, e.2.1), (12, 1, e.2.2.1), (13, 1, e.2.2.2)])
        entry := (hookLawEntry s r used).map fun e => (used, e) }

/-- HOOK_LAW_RD -/
def execHookLawRd (s : State) : Host.Outcome State Fault Refusal := hookRun (· == 24) (lawRoutineRun .rd) s
/-- HOOK_LAW_ADD -/
def execHookLawAdd (s : State) : Host.Outcome State Fault Refusal := hookRun (· == 25) (lawRoutineRun .add) s
/-- HOOK_LAW_SET -/
def execHookLawSet (s : State) : Host.Outcome State Fault Refusal := hookRun (· == 26) (lawRoutineRun .set) s
/-- HOOK_LAW_SWAP -/
def execHookLawSwap (s : State) : Host.Outcome State Fault Refusal := hookRun (· == 27) (lawRoutineRun .swap) s
/-- HOOK_LAW_LAW -/
def execHookLawLaw (s : State) : Host.Outcome State Fault Refusal := hookRun (· == 28) (lawRoutineRun .law) s
/-- HOOK_LAW_CHK -/
def execHookLawChk (s : State) : Host.Outcome State Fault Refusal := hookRun (· == 29) (lawRoutineRun .chk) s

/-! ## Loadable routines (02 R70–R74) -/

/-- Where a loadable routine stands: its registers, the line with its own stores, what it posts, its flags. -/
structure Micro where
  h : List W64
  line : List Byte
  stores : List (List (Nat × Byte)) := []
  packets : List (W64 × W64 × List Byte) := []
  flags : Nat := 0
  deriving DecidableEq, Repr

/-- Fields of a micro-op. -/
def opField (u : BitVec 32) (lo n : Nat) : Nat := u.toNat / 2 ^ lo % 2 ^ n
/-- A hook register. -/
def Micro.reg (m : Micro) (n : Nat) : W64 := m.h.getD n 0
/-- A hook register written. -/
def Micro.setReg (m : Micro) (n : Nat) (v : W64) : Micro := { m with h := m.h.set n v }
/-- y of ALU and COMPARE. -/
def opY (m : Micro) (u : BitVec 32) : W64 :=
  if opField u 17 1 = 1 then (BitVec.ofNat 17 (opField u 0 17)).signExtend 64 else m.reg (opField u 22 2)

/-- ALU -/
def opAlu (fn : Nat) (a y : W64) : W64 :=
  let f := fun (g : LaneFn) => BitVec.ofNat 64 (g 0 false .ne a.toNat 0 y.toNat).1
  match fn with
  | 0 => a + y | 1 => a - y | 2 => a &&& y | 3 => a ||| y | 4 => a ^^^ y | 5 => f laneShl | 6 => f laneShr
  | 7 => f laneShra | 8 => f laneMin | 9 => f laneMax | 10 => if a.toNat ≤ y.toNat then a else y
  | 11 => if y.toNat ≤ a.toNat then a else y | 12 => y
  | _ => BitVec.ofNat 64 (laneAdd 0 true .ne a.toNat 0 y.toNat).1

/-- COMPARE, with its flags. -/
def opCompare (cc : Nat) (a y : W64) : Bool × Nat :=
  let f := fun (g : CmpFn) (fmt : BitVec 3) => g fmt a.toNat y.toNat
  match cc with
  | 0 => (a == y, 0) | 1 => (a != y, 0) | 2 => f cmpLt 0 | 3 => f cmpGe 0 | 4 => f cmpLtu 0 | 5 => f cmpGeu 0
  | 6 => f cmpEq 4 | 7 => f cmpLt 4 | 8 => f cmpLe 4 | _ => f cmpUn 4

/-- One micro-op: an abort's cause, or what it leaves. -/
inductive OpEnd where
  | next (m : Micro) (skip : Nat)
  | reply (m : Micro) (vals : List W64) (status : Nat)
  | refuse (hint : BitVec 16)
  | abort (cause : Nat)
  deriving DecidableEq, Repr

/-- LOAD and STORE: the effective offset and the size. -/
def opPlace (m : Micro) (u : BitVec 32) : W64 × Nat :=
  (BitVec.ofNat 64 (opField u 12 7) + (if opField u 19 1 = 1 then m.reg (opField u 24 2) else 0),
    if opField u 20 2 = 1 then 8 else 4)

/-- The effect of a micro-op for a request. DESIGN CHOICE (log 35): e is taken modulo 2^64, and a LOAD or STORE that is both
misaligned and past the line aborts with HOOK_ALIGN. -/
def microOp (s : State) (r : HookReq) (m : Micro) (u : BitVec 32) : OpEnd :=
  let d := opField u 26 2
  let a := m.reg (opField u 24 2)
  let b := m.reg (opField u 22 2)
  let to_ := fun (v : W64) => OpEnd.next (m.setReg d v) 0
  let withFlags := fun (v : Nat × Nat) => OpEnd.next { m.setReg d (BitVec.ofNat 64 v.1) with flags := m.flags ||| v.2 } 0
  match opField u 28 4 with
  | 0 =>
    let (e, n) := opPlace m u
    if e.toNat % n != 0 then .abort Cause.hookAlign
    else if 128 < e.toNat + n then .abort Cause.hookBound
    else if hookBad s r.place e.toNat n then .abort Cause.hookPoison
    else
      let v := ofBytes ((m.line.drop e.toNat).take n)
      to_ (BitVec.ofNat 64 (if opField u 20 2 = 2 then ofInt 64 (toSigned 32 v) else v))
  | 1 =>
    let (e, n) := opPlace m u
    if e.toNat % n != 0 then .abort Cause.hookAlign
    else if 128 < e.toNat + n then .abort Cause.hookBound
    else
      let bs := toBytes n b.toNat
      .next { m with
        line := overlay m.line e.toNat bs
        stores := m.stores ++ [bs.zipIdx.map fun x => (e.toNat + x.2, x.1)] } 0
  | 2 => to_ (opAlu (opField u 18 4) a (opY m u))
  | 3 => withFlags (laneAdd 4 false (modeOf (opField u 20 2) 64 0 0) a.toNat 0 b.toNat)
  | 4 => withFlags (if opField u 21 1 = 1 then minMaxNan f64 false a.toNat b.toNat else minMaxNumber f64 false a.toNat b.toNat)
  | 5 => withFlags (if opField u 21 1 = 1 then minMaxNan f64 true a.toNat b.toNat else minMaxNumber f64 true a.toNat b.toNat)
  | 6 =>
    let c := opCompare (opField u 18 4) a (opY m u)
    withFlags (bit c.1, c.2)
  | 7 => to_ (if m.reg (opField u 20 2) != 0 then a else b)
  | 8 =>
    let go := match opField u 20 2 with
      | 0 => true
      | 1 => a == 0
      | _ => a != 0
    .next m (if go then opField u 16 4 else 0)
  | 9 => .reply m [a, if opField u 21 1 = 1 then b else 0] (opField u 13 8)
  | 10 => .refuse (BitVec.ofNat 16 (max 64 (opField u 0 16)))
  | _ =>
    match route s (privileged r.domain) a with
    | .invalid => .abort Cause.hookError
    | .priv => .abort Cause.hookError
    | _ => .next { m with packets := m.packets ++ [(a, m.reg d, toBytes 8 b.toNat)] } 0

/-- The micro-ops from one on; n bounds how many run. -/
def microRun (s : State) (r : HookReq) (ops : List (BitVec 32)) : Nat → Nat → Micro → HookOut
  | 0, _, _ => hookError Cause.hookError
  | n + 1, pc, m =>
    match ops[pc]? with
    | none => hookError Cause.hookError
    | some u =>
      match microOp s r m u with
      | .abort c => hookError c
      | .refuse hint => { reply := .refused hint }
      | .reply m vals status => { reply := .done vals status m.flags, stores := m.stores, packets := m.packets }
      | .next m skip => microRun s r ops n (pc + 1 + skip) m

/-- A loadable routine. -/
def loadable (s : State) (r : HookReq) : HookOut :=
  microRun s r (Table.get (0, []) s.package.routines r.routine).2 17 0
    { h := [r.h0, r.h1, BitVec.ofNat 64 (lineOffset r.place), r.h3], line := hookLine s r.place }
/-- HOOK_LOADABLE_ROUTINE -/
def execHookLoadableRoutine (s : State) : Host.Outcome State Fault Refusal := hookRun (fun n => 48 ≤ n) loadable s

end Sys2Proof.Machine
end

