-- ==== Sys2Proof/Machine/Items.lean ====
section
/-!
DEFINITION. Items.lean: what happens to the items a strand has sent: stores at their homes (08 R183), loads and stores
at other cores (07 R163; 05 R133, R134), landings and zones (14 R330, 08 R191), tickets (13 R298–R301), notifications
of prefetches (R313) and the retry of what was refused (06 R150).
-/
namespace Sys2Proof.Machine

/-! ## Stores at their homes -/

/-- The bytes of device memory among those of a store. -/
def devBytes (bytes : List (Place × Byte)) : List (Nat × Byte) :=
  bytes.filterMap fun b => match b.1 with | .dev key => some (key, b.2) | _ => none
/-- The stack and slice whose DRAM the store waits for (02 R75). -/
def storeWaits (s : State) (r : StoreReq) : Option (Nat × Nat) :=
  match devBytes r.bytes with
  | [] => none
  | (key, v) :: bs => if writeMustWait s ((key, v) :: bs) then some (keyStack key, keySlice s key) else none
/-- A store stays behind an earlier one of its strand on its path to the same line (08 R187), and off a line on which a
routine runs (02 R68). -/
def storeBehind (s : State) (r : StoreReq) : Bool :=
  (r.bytes.any fun b => lineBusy s b.1) ||
    s.stores.any fun q => q.id < r.id && q.strand == r.strand && q.path == r.path &&
      q.bytes.any fun a => r.bytes.any fun b => lineStart a.1 == lineStart b.1

/-- Bytes written at their places; owner: the core that stores them, at this virtual address, which registers the words of
device memory. -/
def writePlaces (owner : Option (CoreId × Nat)) (bytes : List (Place × Byte)) (poison : List Place) (s : State) : State :=
  let dev := devBytes bytes
  let s := if dev.isEmpty then s
    else
      let s := devWrite dev s
      let s := devPoison (poison.filterMap fun p => match p with | .dev key => some key | _ => none) s
      match owner with
      | some (c, va) => registerStore c va (dev.map Prod.fst) s
      | none => ((dev.map fun b => b.1 / 32).dedup).foldl (fun s q => recallSector q s) s
  let host := bytes.filterMap fun b => match b.1 with | .host a => some (a, b.2) | _ => none
  let away := bytes.filterMap fun b => match b.1 with | .remote m pa => some (m * 2 ^ 40 + pa, b.2) | _ => none
  let s := if host.isEmpty then s else hostWrite host s
  let s := if away.isEmpty then s else remoteWrite away s
  let s := awayPoison poison s
  match owner with
  | some (c, va) => patchCopies c (if dev.isEmpty then 2 ^ 57 else va / 128) bytes s
  | none => s

/-- Writes of a copy packet are outstanding. -/
def packetBusy (s : State) (id : Nat) : Bool :=
  (s.landings.any fun l => l.sender == .packet id) || s.stores.any fun r => r.path == 5 && r.strand == id
/-- A copy packet whose writes are all done is to complete (14 R336). -/
def packetMoved (id : Nat) (s : State) : State :=
  if packetBusy s id then s else s.post .copyPacketComplete { id := id }

/-- A part of what an instruction has sent is performed: the last one completes the instruction (08 R183). -/
def replyDone (k : StrandId) (id : Nat) (s : State) : State :=
  if id = 0 || (s.landings.any fun l => l.id == id) || s.stores.any (fun r => r.reply == id) then s else complete k id [] none s

/-- The bytes of a store are written at their home: a core that is gone keeps none of them in its L1, and what a publish sends stamps
its sectors (08 R197). -/
def storeLands (r : StoreReq) (s : State) : State :=
  let s := writePlaces (if r.path = 0 && !(s.core r.core).gone then some (r.core, r.va) else none) r.bytes r.poison s
  match r.stamp with
  | some (obj, gen) => stampSectors obj gen ((((devBytes r.bytes).map Prod.fst).map fun q => q / 32).dedup) s
  | none => s

/-- A store reaches its home: it is performed, or waits for the DRAM (02 R75). -/
def storeArrive (id : Nat) (s : State) : State :=
  match findId StoreReq.id s.stores id with
  | none => s
  | some r =>
    if storeBehind s r then s.post .homeAccess { id := id }
    else
    match storeWaits s r with
    | some (stack, slice) =>
      let x := s.stack stack
      if x.queue.any fun e => e.1 == id then s
      else if 256 ≤ (x.queue.filter fun e => e.2 == slice).length then s.post .requestRetry { id := id, a := 16384 }
      else s.setStack stack { x with queue := x.queue ++ [(id, slice)] }
    | none =>
      let s := storeLands r s
      let s := { s with stores := dropId StoreReq.id s.stores id }
      if r.path = 5 then packetMoved r.strand s else replyDone r.strand r.reply s
/-- HOME_ACCESS: store id reaches its home. -/
def execHomeAccess (s : State) : Host.Outcome State Fault Refusal := event (fun e s => storeArrive e.id s) s

/-! ## Loads through the panel window (07 R163) -/

/-- Bytes of a core's scratchpad lie in an armed zone whose count has not landed: a read of them waits (08 R191). -/
def inZone (x : Core) (off n : Nat) : Bool :=
  x.ranges.any fun r => r.zone && r.armed && r.off < off + n && off < r.off + r.len

/-- A store of the strand through the panel window to bytes that load r reads is on its way: the load follows it (08 R187). -/
def readBehind (s : State) (r : PanelRead) : Bool :=
  s.landings.any fun l => l.sender == .strand r.strand && l.target == r.target &&
    l.bytes.any fun b => r.off ≤ b.1 && b.1 < r.off + r.size

/-- Load id is answered by its target, after the count of an armed zone that it reads. -/
def panelAnswer (id : Nat) (s : State) : State :=
  match findId PanelRead.id s.panelReads id with
  | none => s
  | some r =>
    if r.reply.isSome then s
    else
      let x := s.core r.target
      if (windowCause x (s.strand r.strand).domain).isNone && (inZone x r.off r.size || readBehind s r) then s.post .panelWindowRead { id := id }
      else
      let new := match windowCause x (s.strand r.strand).domain with
        | some c => { r with reply := some (.error (BitVec.ofNat 8 c)) }
        | none => { r with
            reply := some (.ok (x.scratch.bytes r.off r.size))
            poison := x.scratchPoison.filter fun q => q * 32 < r.off + r.size && r.off < q * 32 + 32 }
      { s with panelReads := putId PanelRead.id s.panelReads new }
/-- PANEL_WINDOW_READ: load id reaches its target core. -/
def execPanelWindowRead (s : State) : Host.Outcome State Fault Refusal := event (fun e s => panelAnswer e.id s) s

/-! ## Landings (14 R330, 08 R191, 04 R120) -/

/-- Zones after bytes at these offsets have landed: each armed one counts its own, and one that has its length retires. -/
def countZones (offs : List Nat) (l : List Range) : List Range :=
  let count := fun (r : Range) => (offs.filter fun o => r.off ≤ o && o < r.off + r.len).length
  (l.map fun r => { r with landed := r.landed + (if r.zone && r.armed then count r else 0) }).filter fun r => !r.zone || r.landed < r.len

/-- Waiters for landings of a core are looked at again, and a command that waits for its landings goes on. -/
def landingsMoved (c : CoreId) (s : State) : State := stopCheck c (wakeAll 4 c (fun _ => true) none s)

/-- Bytes land in a core's scratchpad. -/
def landBytes (c : CoreId) (bytes : List (Nat × Byte)) (poison : List Nat) (s : State) : State :=
  let s := scratchSpoil c poison (scratchStore c bytes s)
  let x := s.core c
  landingsMoved c (s.setCore c { x with ranges := countZones (bytes.map Prod.fst) x.ranges })

/-- A copy packet has a failure of this reason. -/
def packetFails (id reason : Nat) (s : State) : State :=
  { s with copyJobs := s.copyJobs.map fun j => if j.id == id && j.reason == 0 then { j with reason := reason } else j }

/-- A landing is done: a cause, or none. -/
def landingDone (l : Landing) (cause : Option Nat) (s : State) : State :=
  let s := { s with landings := s.landings.erase l }
  match l.sender with
  | .strand k =>
    match cause with
    | some c =>
      let addr := BitVec.ofNat 64 (0x01F1000000000000 + l.target.index * 0x100000 + l.off)
      complete k l.id [] (some { cause := BitVec.ofNat 8 c, addr := addr }) s
    | none => replyDone k l.id s
  | .packet id =>
    packetMoved id (match cause with
      | some c => packetFails id (if c = Cause.fixedPath then 5 else 6) s
      | none => s)
  | .ticket k =>
    let x := s.core l.target
    let s := s.setCore l.target { x with ranges := x.ranges.filter fun r => r.zone || r.id != l.id }
    let fault := cause.map fun c =>
      ({ cause := BitVec.ofNat 8 c, addr := BitVec.ofNat 64 (scratchBase + l.off) } : FaultInfo)
    landingsMoved l.target (complete k l.id [] fault s)
  | .mrot _ => s

/-- The range of a copy's write leaves the scoreboard. -/
def dropRange (l : Landing) (s : State) : State :=
  let x := s.core l.target
  s.setCore l.target { x with ranges := x.ranges.filter fun r => r.zone || !(r.id == l.id && r.off == l.off) }

/-- A landing has an earlier one of its strand before it that writes a common byte (08 R187). -/
def landingBehind (s : State) (l : Landing) : Bool :=
  match l.sender with
  | .strand _ =>
    (s.landings.takeWhile fun o => o != l).any fun o =>
      o.sender == l.sender && o.target == l.target && o.bytes.any fun a => l.bytes.any fun b => a.1 == b.1
  | _ => false

/-- A landing arrives at its core: refused while its range is parked or the core is QUIET, answered with an error, or
performed; what finds no armed zone where one is needed is not (20 R379). It stays behind an earlier store of its strand to a common
byte, and of the landings of one store the one sent first comes first (13 R290). -/
def landingArrive (id : Nat) (c : CoreId) (off : Nat) (s : State) : State :=
  match s.landings.find? fun l => l.id == id && l.target == c && l.off == off with
  | none => s
  | some l =>
    let x := s.core c
    let isTicket := match l.sender with | .ticket _ => true | _ => false
    let parked := x.parkedZones.any fun z =>
      z.1 == l.domain && l.bytes.any fun b => z.2.2.off ≤ b.1 && b.1 < z.2.2.off + z.2.2.len
    if !x.gone && (parked || x.status == .quiet || landingBehind s l) then s.post .requestRetry { id := id, a := off }
    else
      let cause := if isTicket then (if x.gone then some Cause.remoteDead else none) else windowCause x l.domain
      match cause with
      | some e => landingDone l (some e) (dropRange l s)
      | none =>
        let armed := fun (o : Nat) => x.ranges.any fun r => r.zone && r.armed && r.off ≤ o && o < r.off + r.len
        let good := if l.zonesOnly then l.bytes.filter fun b => armed b.1 else l.bytes
        let s := landBytes c good (l.poison.filter fun o => good.any fun b => b.1 == o) (dropRange l s)
        landingDone l (if good.length < l.bytes.length then some Cause.fixedPath else none) s
/-- LANDING_ARRIVE: the landing of item id at offset a of core. -/
def execLandingArrive (s : State) : Host.Outcome State Fault Refusal := event (fun e s => landingArrive e.id e.core e.a s) s

/-! ## Tickets (13 R298–R301) -/

/-- A request for a slice's tickets, as it stands now. -/
def ticketReq (s : State) (id : Nat) : Option TicketReq := findId TicketReq.id s.ticketReqs id
/-- A ticket request gone. -/
def dropTicketReq (id : Nat) (s : State) : State := { s with ticketReqs := dropId TicketReq.id s.ticketReqs id }

/-- The tenant of a domain, or firmware's number. -/
def ticketTenant (s : State) (d : BitVec 16) : Nat := (tenantOf s d).getD 255

/-- A fetch takes a free entry of its slice and its ticket returns; a full slice refuses it. DESIGN CHOICE (log 53): of the free
entries it is the lowest-numbered. -/
def ticketTake (id : Nat) (s : State) : State :=
  match ticketReq s id with
  | none => s
  | some r =>
    if r.redeem || r.ticket != 0 then s
    else
      let x := s.stack r.stack
      match (List.range 2048).find? fun i => !(Table.get {} x.tickets (r.slice * 2048 + i)).used with
      | none => s.post .requestRetry { id := id, a := 256 }
      | some i =>
        let n := r.slice * 2048 + i
        let y := s.strand r.strand
        let e : TicketEntry :=
          { used := true, gen := (Table.get {} x.tickets n).gen, domain := y.domainId, size := r.size
            tenant := ticketTenant s y.domain, since := (s.tenant (ticketTenant s y.domain)).activeFor }
        let t := mkTicket r.stack n e
        let s := setTicket r.stack n e s
        let s := { s with ticketReqs := putId TicketReq.id s.ticketReqs { r with ticket := t } }
        (complete r.strand id [.a (setLane64 y.a r.lane t)] none s).post .ticketFillDone { id := id }
/-- TICKET_FETCH: fetch id reaches its slice. -/
def execTicketFetch (s : State) : Host.Outcome State Fault Refusal := event (fun e s => ticketTake e.id s) s

/-- One byte of a place as a load of its home gives it. -/
def placeByte (s : State) : Place → Byte
  | .dev key => s.dmem.byte key
  | .remote m pa => s.package.remoteMem.byte (m * 2 ^ 40 + pa)
  | .host a => s.package.hostMem.byte a
  | .scratch c off => (s.core c).scratch.byte off
  | .zero => 0
/-- The sector of a place is poisoned. -/
def placeBad (s : State) (p : Place) : Bool := sectorBad s p

/-- A fetch has an earlier one of its strand to its line before it (08 R187). -/
def fetchBehind (s : State) (r : TicketReq) : Bool :=
  s.ticketReqs.any fun q => !q.redeem && q.id < r.id && q.strand == r.strand &&
    q.bytes.any fun a => r.bytes.any fun b => lineStart a == lineStart b

/-- The data of a fetch arrives and is bound, in the order of the fetches to its line, unless its DRAM is in self-refresh
(02 R75) or the entry was dropped. -/
def ticketFill (id : Nat) (s : State) : State :=
  match ticketReq s id with
  | none => s
  | some r =>
    if r.bytes.any (lineBusy s) || fetchBehind s r then s.post .ticketFillDone { id := id }
    else
    match r.bytes.findSome? fun p => match p with | .dev key => (if mustWait s key then some (keyStack key, keySlice s key) else none) | _ => none with
    | some (stack, slice) =>
      let x := s.stack stack
      if x.queue.any fun e => e.1 == id then s
      else if 256 ≤ (x.queue.filter fun e => e.2 == slice).length then s.post .requestRetry { id := id, a := 16384 }
      else s.setStack stack { x with queue := x.queue ++ [(id, slice)] }
    | none =>
      let s := dropTicketReq id s
      if tkStale s r.ticket then s
      else
        let s := (r.bytes.head?.toList).foldl (fun s p => match p with | .dev key => homeTouch key false s | _ => s) s
        let e := ticketEntry s r.ticket
        let bad := ((List.range r.bytes.length).filter fun i => placeBad s (r.bytes.getD i .zero)).map (fun i => i / 32)
        let s := setTicket (tkStack r.ticket) (tkEntry r.ticket)
          { e with filled := true, bytes := r.bytes.map (placeByte s), poison := bad.dedup, waiters := [] } s
        let s := e.waiters.foldl (fun s w => s.post .ticketRedeem { id := w }) s
        if e.tenant < 32 then s.post .ticketOrphan { v := r.ticket } else s
/-- TICKET_FILL_DONE: the data of fetch id arrives. -/
def execTicketFillDone (s : State) : Host.Outcome State Fault Refusal := event (fun e s => ticketFill e.id s) s

/-- A redeem fails: its landing leaves the scoreboard, and the instruction faults. -/
def redeemFails (r : TicketReq) (cause : Nat) (s : State) : State :=
  let c := r.strand.core
  let x := s.core c
  let s := dropTicketReq r.id (s.setCore c { x with ranges := x.ranges.filter fun q => q.zone || q.id != r.id })
  landingsMoved c (complete r.strand r.id []
    (some { cause := BitVec.ofNat 8 cause, addr := BitVec.ofNat 64 (scratchBase + r.off) }) s)

/-- A redeem at its slice (13 R299). -/
def ticketServe (id : Nat) (s : State) : State :=
  match ticketReq s id with
  | none => s
  | some r =>
    if !r.redeem then s
    else if tkStale s r.ticket then redeemFails r Cause.ticketStale s
    else if tkDomain r.ticket != (s.strand r.strand).domainId then redeemFails r Cause.ticketDomain s
    else
      let e := ticketEntry s r.ticket
      if !e.filled then
        setTicket (tkStack r.ticket) (tkEntry r.ticket) { e with waiters := e.waiters ++ [id] } s
      else
        let d := (s.strand r.strand).domain
        let l : Landing :=
          { id := id, target := r.strand.core, off := r.off
            bytes := e.bytes.zipIdx.map fun b => (r.off + b.2, b.1)
            poison := ((List.range e.bytes.length).filter fun i => e.poison.contains (i / 32)).map fun i => r.off + i
            sender := .ticket r.strand, domain := d, supervisor := supervisory d, zonesOnly := false }
        let s := dropTicketReq id (freeTicket r.ticket s)
        ({ s with landings := s.landings ++ [l] } : State).post .landingArrive { id := id, core := l.target, a := l.off }
/-- TICKET_REDEEM: redeem id reaches its slice. -/
def execTicketRedeem (s : State) : Host.Outcome State Fault Refusal := event (fun e s => ticketServe e.id s) s

/-- The age of a filled ticket: it is freed once its age exceeds its tenant's lifetime. -/
def orphanCheck (t : W64) (s : State) : State :=
  let e := ticketEntry s t
  if tkStale s t || !e.filled then s
  else
    let now := (s.tenant e.tenant).activeFor
    let age := e.age + (now - e.since)
    if (s.tenant e.tenant).tlife.toNat * 1000 < age then freeTicket t s
    else (setTicket (tkStack t) (tkEntry t) { e with age := age, since := now } s).post .ticketOrphan { v := t }
/-- TICKET_ORPHAN: the age of ticket v is looked at. -/
def execTicketOrphan (s : State) : Host.Outcome State Fault Refusal := event (fun e s => orphanCheck e.v s) s

/-! ## Notifications of prefetches (13 R313) -/

/-- The notification of a prefetch by its strand: a signal, or an arrival. -/
def prefetchDone (id : Nat) (k : StrandId) (s : State) : State :=
  match findId Prefetch.id s.prefetches id with
  | none => s
  | some r =>
    let s := { s with prefetches := dropId Prefetch.id s.prefetches id }
    match r.notify with
    | none => complete k id [] none s
    | some v =>
      let obj := v.toNat % 65536
      if v.getLsbD 17 then
        let q := v.getLsbD 16
        if overruns (barrierOf s obj) q then
          complete k id [] (some { cause := BitVec.ofNat 8 Cause.barrierOverrun, addr := faultPc s k id }) s
        else complete k id [] none (arriveBarrier obj q none 0 s)
      else complete k id [] none (signalCounter obj 1 s)
where
  /-- The address of the instruction that waits for item id. -/
  faultPc (s : State) (k : StrandId) (id : Nat) : W64 :=
    match (s.strand k).pending.find? fun p => match p.state with | .waiting i _ => i == id | _ => false with
    | some p => p.pc
    | none => 0
/-- PF2_NOTIFY: prefetch id of strand has fetched its last line. -/
def execPf2Notify (s : State) : Host.Outcome State Fault Refusal := event (fun e s => prefetchDone e.id e.strand s) s

/-! ## Retries (06 R150; 03 R87; 04 R120) -/

/-- A refused item is sent again. -/
def retryItem (id off : Nat) (s : State) : State :=
  match hookReq s id with
  | some r =>
    if r.stage == 2 then hookArrive id (setHook { r with stage := 0 } s)
    else
      match r.requester with
      | .append k => if r.stage == 5 then (if awaitsReply s k id then appendStore r k s else appendPublish r 0 s) else s
      | _ => s
  | none =>
    match ticketReq s id with
    | some r => s.post (if r.redeem then .ticketRedeem else if r.ticket == 0 then .ticketFetch else .ticketFillDone) { id := id }
    | none =>
      if s.stores.any fun r => r.id == id then s.post .homeAccess { id := id }
      else if s.rotations.any fun r => r.id == id then s.post .mrotLanding { id := id }
      else (s.landings.filter fun l => l.id == id && l.off == off).foldl (fun s l =>
        s.post .landingArrive { id := id, core := l.target, a := l.off }) s
/-- REQUEST_RETRY: item id is sent again (a landing: the part at offset a). -/
def execRequestRetry (s : State) : Host.Outcome State Fault Refusal := event (fun e s => retryItem e.id e.a s) s

/-! ## Promotion slots (02 R45–R48) -/

/-- A copy in a FILLING slot ends: a copy-back leaves it free, or to receive its next row; a promotion leaves it CLEAN,
or DIRTY where a write waited. -/
def fillDone (stack n : Nat) (s : State) : State :=
  let v := Table.get {} (s.stack stack).slots n
  if v.state != .filling then s
  else
    match v.next with
    | some f => (setSlot stack n { v with row := f, tenant := v.heir, next := none, emptying := false, wrote := false } s).post
        .promotionFillDone { stack := stack, a := n }
    | none =>
      if v.emptying then setSlot stack n {} s
      else setSlot stack n { v with state := if v.wrote then .dirty else .clean, wrote := false } s
/-- PROMOTION_FILL_DONE: the copy in slot a of a stack ends. -/
def execPromotionFillDone (s : State) : Host.Outcome State Fault Refusal := event (fun e s => fillDone e.stack e.a s) s

end Sys2Proof.Machine
end

