-- ==== Sys2Proof/Machine/Swift.lean ====
section
/-!
DEFINITION. Swift.lean: the swift of a panel: the windows of its queues (04 R102), readiness (R103), the choice of a
record and a core (R104–R106), the start and the end of a task (R107–R109), withholding (R110), token buckets (R111),
the ramp limiter (R112) and traces (R113, R114).
-/
namespace Sys2Proof.Machine

/-! ## Accesses of engines -/

/-- A place moved by n bytes. -/
def Place.plus (p : Place) (n : Nat) : Place :=
  match p with
  | .scratch c o => .scratch c (o + n)
  | .dev key => .dev (key + n)
  | .remote m pa => .remote m (pa + n)
  | .host a => .host (a + n)
  | .zero => .zero
/-- n bytes at a place. -/
def placeRead (s : State) (p : Place) (n : Nat) : List Byte := (List.range n).map fun i => placeByte s (p.plus i)
/-- The DRAM behind a place is in self-refresh (02 R75). -/
def placeHeld (s : State) (p : Place) : Bool :=
  match p with
  | .dev key => mustWait s key
  | _ => false

/-- The read of a line whose DRAM is in self-refresh enters its slice's queue for the event in hand (02 R75). -/
def queueHeld (p : Place) (s : State) : State :=
  match p with
  | .dev key => if mustWait s key then queueParty key s else s
  | _ => s

/-- What a party that never waits for the pager finds at an address (04 R102, 07 R164 PAGE_ABSENT). -/
inductive Found where
  | place (p : Place)
  /-- a cause; and the access code of the ACCESS_FAULT that it posts by itself (02 R53, 07 R171, 01 R38), if it posts one -/
  | failed (cause : Nat) (event : Option Nat)
  /-- held at the translation slice, by self-refresh, or by a routine on the line -/
  | later
  deriving DecidableEq, Repr

/-- The cause that a strand of a domain takes at a core-local address that a party outside the cores names: a window without
the right, and supervisor scratchpad named from a user domain (01 R41, 07 R162, R164). DESIGN CHOICE (log 44): such a party has no
scratchpad, no panel of its own and no pattern slots, so what a strand could read or write there is a hole to it. -/
def localCause (d : BitVec 16) (acc : Acc) (va : Nat) : Nat :=
  let b := va % 2 ^ 48
  let rw := acc == .read || acc == .write
  match va / 2 ^ 48 with
  | 0x1F0 => if b < scratchSize && !(rw || acc == .law) then Cause.accessRights else Cause.addrHole
  | 0x1F1 =>
    if 195 < b / 2 ^ 20 || scratchSize ≤ b % 2 ^ 20 then Cause.addrHole
    else if 192 ≤ b / 2 ^ 20 && !supervisory d then (if privileged d then Cause.accessRights else Cause.scratchPriv)
    else if rw then Cause.addrHole
    else Cause.accessRights
  | 0x1F2 => if b < 2 ^ 34 && !rw then Cause.accessRights else Cause.addrHole
  | 0x1F3 => if b < 0x400 then Cause.accessRights else Cause.addrHole
  | 0x1F8 => if b < 2 ^ 32 && !(privileged d && rw) then Cause.accessRights else Cause.addrHole
  | _ => Cause.addrHole
/-- An access of a party of a panel, in a domain, at an address of a page. What it writes is sent as a request of its own, which
waits for the DRAM at its home slice. -/
def find (panel : Nat) (d : BitVec 16) (acc : Acc) (va : Nat) (s : State) : Found × State :=
  if 2 ^ 57 ≤ va then (.failed Cause.addrNoncanon none, s)
  else if va / 2 ^ 52 = 0x1F then (.failed (localCause d acc va) none, s)
  else
    match pageFor panel d acc va s with
    | (.ok p, s) =>
      if acc == .read && placeHeld s p then (.later, queueHeld p s)
      else if lineBusy s p then (.later, s)
      else (.place p, countLine panel va p s)
    | (.error (.cause c e), s) => (.failed c e, s)
    | (.error (.pager _), s) => (.failed Cause.pageAbsent none, s)
    | (.error (.hold _), s) => (.later, s)

/-- The domain of the service tenant (03 R81). -/
def serviceDomain : BitVec 16 := 0
/-- The source identifier of a swift (06 R148). -/
def swiftSource (s : State) (panel : Nat) : Nat := (sourceId s.package.pkg.toNat panel 240 0).toNat

/-- ACCESS_FAULT of a swift's access. -/
def swiftFault (panel : Nat) (tenant : Option Nat) (src va acc cause : Nat) (s : State) : State :=
  postEvent s tenant src 4 [(24, 8, va), (32, 1, acc), (33, 1, cause), (36, 4, swiftSource s panel)]
/-- ACCESS_FAULT of a swift's access where its cause posts one by itself. -/
def foundFault (panel : Nat) (tenant : Option Nat) (va cause : Nat) (event : Option Nat) (s : State) : State :=
  match event with
  | some code => swiftFault panel tenant srcFirmware va code cause s
  | none => s

/-! ## Traces (04 R113, R114) -/

/-- An entry of a trace. -/
def traceWord (kind tenant queue tag source index : Nat) : BitVec 128 :=
  BitVec.ofNat 128 (kind * 2 ^ 124 + tenant % 32 * 2 ^ 119 + queue % 16 * 2 ^ 115 + tag % 256 * 2 ^ 107 +
    source % 2 ^ 32 * 2 ^ 64 + index % 2 ^ 64)
/-- KIND -/
def traceKind (e : BitVec 128) : Nat := e.toNat / 2 ^ 124
/-- TENANT -/
def traceTenant (e : BitVec 128) : Nat := e.toNat / 2 ^ 119 % 32
/-- The entry of a task. -/
def taskEntry (r : TaskRec) : BitVec 128 := traceWord 1 r.tenant r.queue 0 0 r.slot

/-- A trace entry's place for the swift: device memory of the service tenant. -/
def tracePlace (acc : Acc) (c : CoreId) (s : State) : Found × State :=
  match find c.panel serviceDomain acc (s.core c).trpos.toNat s with
  | (.place (.dev key), s) => (.place (.dev key), s)
  | (.place .zero, s) => (.failed Cause.pageAbsent (some acc.code), s)
  | (.place _, s) => (.failed Cause.pathUnsupported (some acc.code), s)
  | r => r
/-- The entry at TRPOS, where it can be read. -/
def traceNext (s : State) (c : CoreId) : Option (BitVec 128) :=
  match (tracePlace .read c s).1 with
  | .place p => some (BitVec.ofNat 128 (ofBytes (placeRead s p 16)))
  | _ => none

/-- The core diverges: it is held until firmware writes TRMODE. -/
def diverge (c : CoreId) (tenant : Option Nat) (e : BitVec 128) (s : State) : State :=
  let s := s.setCore c { s.core c with diverged := true }
  postEvent s tenant srcFirmware 9 [(24, 1, c.panel), (25, 1, c.index), (32, 16, e.toNat)]

/-- The entry at TRPOS cannot be read, for this cause: the core diverges at once, and the service tenant learns of it (04 R114). -/
def traceUnread (c : CoreId) (cause : Nat) (event : Option Nat) (s : State) : State :=
  swiftFault c.panel none srcFirmware (s.core c).trpos.toNat (event.getD 0) cause (diverge c none 0 s)
/-- TRPOS has come to a new entry under replay: the trace ends, diverges, or is timed. A read of the entry that has to wait is that of the
TRACE_DIVERGE that times it. -/
def traceSettle (c : CoreId) (s : State) : State :=
  let x := s.core c
  if x.trmode != 2 || x.diverged then s
  else if x.trlim.toNat ≤ x.trpos.toNat then s.setCore c { x with trmode := 0 }
  else
    let due : EventArg := { core := c, a := s.deviceTime }
    let f := tracePlace .read c { s with arg := due }
    let s := { f.2 with arg := s.arg }
    let timed := (s.setCore c { s.core c with trSince := s.deviceTime }).post .traceDiverge due
    match f.1 with
    | .later => timed
    | .failed cause event => traceUnread c cause event s
    | .place p =>
      let e := BitVec.ofNat 128 (ofBytes (placeRead s p 16))
      if traceKind e = 0 then s.setCore c { s.core c with trmode := 0 }
      else if 3 ≤ traceKind e then diverge c (some (traceTenant e)) e s
      else timed

/-- The entry of a start would be written now and cannot be: its line is held. DESIGN CHOICE (log 45): the start waits. -/
def traceHeld (s : State) (c : CoreId) (e : BitVec 128) : Bool :=
  let x := s.core c
  x.trmode == 1 && decide (x.trpos.toNat < x.trlim.toNat) &&
    match tracePlace .write c s with
    | (.later, _) => true
    | (.place p, s) => slotWaits s p (toBytes 16 e.toNat)
    | _ => false

/-- A start that waits for the DRAM of its entry enters the slice's queue (02 R75). -/
def traceQueue (c : CoreId) (e : BitVec 128) (s : State) : State :=
  let x := s.core c
  if x.trmode == 1 && decide (x.trpos.toNat < x.trlim.toNat) then
    match tracePlace .write c s with
    | (.place p, s) => slotQueue p (toBytes 16 e.toNat) s
    | (_, s) => s
  else s

/-- A start on the core traced: written under record, passed under replay. -/
def traced (c : CoreId) (e : BitVec 128) (s : State) : State :=
  let x := s.core c
  match x.trmode.toNat with
  | 1 =>
    if x.trlim.toNat ≤ x.trpos.toNat then
      postEvent (s.setCore c { x with trmode := 0 }) (some (traceTenant e)) srcFirmware 12
        [(24, 4, 1), (32, 1, c.panel), (33, 1, c.index)]
    else
      match tracePlace .write c s with
      | (.place (.dev key), s) =>
        let s := writePlaces none ((toBytes 16 e.toNat).zipIdx.map fun b => (.dev (key + b.2), b.1)) [] s
        s.setCore c { s.core c with trpos := x.trpos + 16 }
      | (.failed cause event, s) =>
        swiftFault c.panel none srcFirmware x.trpos.toNat (event.getD 1) cause (s.setCore c { s.core c with trmode := 0 })
      | (_, s) =>
        swiftFault c.panel none srcFirmware x.trpos.toNat 1 Cause.pageAbsent (s.setCore c { s.core c with trmode := 0 })
  | 2 =>
    let s := traceSettle c (s.setCore c { x with trpos := x.trpos + 16, trSince := s.deviceTime })
    (s.post .dispatch { panel := c.panel }).post .handlerStart { core := c }
  | _ => s

/-- Under replay the core's next start must be this entry; a diverged core takes none. -/
def traceAllows (s : State) (c : CoreId) (e : BitVec 128) : Bool :=
  let x := s.core c
  !x.diverged && (x.trmode != 2 || traceNext s c == some e)
/-- Some core of the panel under replay has this entry next. -/
def traceOwner (s : State) (panel : Nat) (e : BitVec 128) : Option CoreId :=
  ((List.range 196).map (mkCore panel)).find? fun c =>
    (s.core c).trmode == 2 && !(s.core c).diverged && traceNext s c == some e

/-- TRACE_DIVERGE: the entry at TRPOS has not been matched in time; a is the time it was timed from. One that is held is looked
at again: its tenant, whose TDIVTO counts, is not known yet. One that has become readable ends the trace, diverges at once, or
may match a start that it held. -/
def traceLate (c : CoreId) (since : Nat) (s : State) : State :=
  let x := s.core c
  if x.trmode != 2 || x.diverged || x.trSince != since then s
  else
    match tracePlace .read c s with
    | (.later, s) => s.post .traceDiverge { core := c, a := since }
    | (.failed cause event, s) => traceUnread c cause event s
    | (.place p, s) =>
      let e := BitVec.ofNat 128 (ofBytes (placeRead s p 16))
      if traceKind e = 0 then
        ((s.setCore c { s.core c with trmode := 0 }).post .dispatch { panel := c.panel }).post .handlerStart { core := c }
      else if 3 ≤ traceKind e ∨
          since + (Table.get 1000 (s.panel c.panel).tdivto (traceTenant e)).toNat * 1000 ≤ s.deviceTime then
        diverge c (some (traceTenant e)) e s
      else
        ((s.post .traceDiverge { core := c, a := since }).post .dispatch { panel := c.panel }).post .handlerStart { core := c }
/-- TRACE_DIVERGE -/
def execTraceDiverge (s : State) : Host.Outcome State Fault Refusal := event (fun e s => traceLate e.core e.a s) s

/-- TRMODE written (R113, R114): DIVERGED is cleared and the counts begin again; a reserved code sets ERR. -/
def trmodeStore (c : CoreId) (v : W64) (s : State) : State :=
  if (s.core c).status == .retired then s
  else if 3 ≤ v.toNat then s.setCore c { s.core c with err := true }
  else
    let s := s.setCore c { s.core c with
      trmode := v.setWidth 2, diverged := false, trCounts := [], trSince := s.deviceTime }
    ((traceSettle c s).post .dispatch { panel := c.panel }).post .handlerStart { core := c }
/-- TRMODE_WRITE: TRMODE of core is written with v. -/
def execTrmodeWrite (s : State) : Host.Outcome State Fault Refusal :=
  event (fun e s => trmodeStore e.core e.v (storeDone e.id s)) s

/-- SWERR_READ: SWERR of panel is read, and cleared (R101). -/
def execSwerrRead (s : State) : Host.Outcome State Fault Refusal := event (fun e s => swerrTake e.panel s) s

/-! ## The window of a queue (04 R102) -/

/-- FLAGS -/
def recFlags (r : BitVec 512) : Nat := recBits r 440 8
/-- NODEP -/
def recNodep (r : BitVec 512) : Bool := recFlags r % 2 == 1
/-- DONEV -/
def recDonev (r : BitVec 512) : Bool := recFlags r / 2 % 2 == 1
/-- PRIO -/
def recPrio (r : BitVec 512) : Nat := recBits r 432 8
/-- WAIT -/
def recWait (r : BitVec 512) : Nat := recBits r 400 32
/-- CTR -/
def recCtr (r : BitVec 512) : Nat := recBits r 384 16
/-- TIME -/
def recTime (r : BitVec 512) : Nat := recBits r 64 64
/-- ENTRY -/
def recEntry (r : BitVec 512) : W64 := BitVec.ofNat 64 (recBits r 0 64)

/-- The lowest bit of the first field of a task record that breaks its rule, from the highest bits down (03 R91, R93;
04 R103). -/
def recBad (s : State) (tenant : Nat) (r : BitVec 512) : Option Nat :=
  let ctr := recCtr r
  if recBits r 448 32 != 0 then some 448
  else if 4 ≤ recFlags r || (recNodep r && (ctr != 0 || recWait r != 0)) then some 440
  else if 4 ≤ recPrio r then some 432
  else if !objNamed .counter ctr then some 384
  else if !recNodep r && objOwner s .counter ctr != some (BitVec.ofNat 12 (domId (tenantDomain s tenant))) then some 384
  else if (recEntry r).getLsbD 0 then some 0
  else none

/-- The header of a queue bound to the panel's swift. -/
def boundHeader (s : State) (panel tenant queue : Nat) : Option Nat :=
  ((s.panel panel).qbind.find? fun e =>
    e.2.getLsbD 54 && e.2.toNat / 2 ^ 59 == tenant && e.2.toNat / 2 ^ 55 % 16 == queue).map
    fun e => e.2.toNat % 2 ^ 50 * 128

/-- The line of a queue's header, and its place; or why it cannot be had, with the event that a failure posts. -/
def headerAt (panel tenant header : Nat) (s : State) : Except Found (Place × Header) × State :=
  match find panel (tenantDomain s tenant) .read header s with
  | (.place p, s) => (.ok (p, headerOf (placeRead s p 128)), s)
  | (.failed c event, s) =>
    (.error (.failed c event), foundFault panel (some tenant) header c event s)
  | (.later, s) => (.error .later, s)

/-- Bytes of a queue's header written: one access of its panel's more (02 R57, 07 R174). -/
def headerWrite (panel header : Nat) (p : Place) (bs : List (Nat × Byte)) (s : State) : State :=
  hookWrite p bs (countLine panel header p s)

/-- READ of a queue passes the longest run of consumed slots; n bounds the run. -/
def readPast : Nat → Nat → List Nat → Nat
  | 0, r, _ => r
  | n + 1, r, l => if l.contains r then readPast n (r + 1) l else r

/-- READ as the consumed slots of a queue would leave it. -/
def nextReadOf (s : State) (panel tenant queue read : Nat) : Nat :=
  let mine := ((s.panel panel).consumed.filter fun e => e.1 == tenant && e.2.1 == queue).map fun e => e.2.2
  readPast mine.length read mine
/-- READ of a queue advances over the consumed slots, once its header can be had; the swift then looks at the queue. -/
def advanceRead (panel tenant queue : Nat) (s : State) : State :=
  match boundHeader s panel tenant queue with
  | none => s
  | some header =>
    let again := fun (s : State) => s.post .swiftReadSlot { panel := panel, tenant := tenant, a := queue }
    match headerAt panel tenant header s with
    | (.error .later, s) => again s
    | (.error _, s) => s
    | (.ok (place, h), s) =>
      let r := nextReadOf s panel tenant queue h.read
      let bs := toBytes 8 r
      if r == h.read then again s
      else if slotWaits s place bs then again (slotQueue place bs s)
      else
        let p := s.panel panel
        let s := s.setPanel panel { p with
          consumed := p.consumed.filter fun e => !(e.1 == tenant && e.2.1 == queue && e.2.2 < r) }
        again (headerWrite panel header place (bs.zipIdx.map fun b => (16 + b.2, b.1)) s)

/-- A slot of a queue is consumed (04 R102). -/
def consumeSlot (panel tenant queue slot : Nat) (s : State) : State :=
  let p := s.panel panel
  advanceRead panel tenant queue (s.setPanel panel { p with consumed := p.consumed ++ [(tenant, queue, slot)] })

/-- The swift looks at a queue: READ is brought up to date, and it reads the next slot of its window, once. -/
def readSlot (panel tenant queue : Nat) (s : State) : State :=
  match boundHeader s panel tenant queue with
  | none => s
  | some header =>
    let again := fun (s : State) => s.post .swiftReadSlot { panel := panel, tenant := tenant, a := queue }
    match headerAt panel tenant header s with
    | (.error .later, s) => again s
    | (.error _, s) => s
    | (.ok (_, h), s) =>
      let key := tenant * 16 + queue
      let n := max (Table.get 0 (s.panel panel).nextRead key) h.read
      if nextReadOf s panel tenant queue h.read != h.read then advanceRead panel tenant queue s
      else if min h.pub (h.read + 64) ≤ n then s
      else
        let va := (h.base + n % h.cap * 64) % 2 ^ 64
        match find panel (tenantDomain s tenant) .read va s with
        | (.later, s) => again s
        | (f, s) =>
          let p := s.panel panel
          let s := s.setPanel panel { p with nextRead := Table.set 0 p.nextRead key (n + 1) }
          let src := srcQueue tenant queue
          match f with
          | .place pl =>
            let w := ofRecBytes (placeRead s pl 64)
            if !recordOk w then
              consumeSlot panel tenant queue n
                (postEvent s (some tenant) src 2 [(24, 8, va), (32, 1, 0), (33, 1, panel)])
            else
              match recBad s tenant w with
              | some b =>
                consumeSlot panel tenant queue n
                  (postEvent s (some tenant) src 3 [(24, 8, va), (32, 1, 0), (33, 1, panel), (34, 2, b)])
              | none =>
                let (id, s) := s.fresh
                let p := s.panel panel
                let r : TaskRec := { id := id, tenant := tenant, queue := queue, slot := n, word := w
                                     ready := false, passedAt := none, agedAt := none }
                again ((s.setPanel panel { p with records := p.records ++ [r] }).post .recordReady
                  { panel := panel, id := id })
          | .failed cause event =>
            consumeSlot panel tenant queue n (swiftFault panel (some tenant) src va (event.getD 0) cause s)
          | .later => s
/-- SWIFT_READ_SLOT: queue a of tenant at the swift of panel. -/
def execSwiftReadSlot (s : State) : Host.Outcome State Fault Refusal := event (fun e s => readSlot e.panel e.tenant e.a s) s

/-! ## Readiness and age (04 R103, R105) -/

/-- A pending record is ready: NODEP, or its counter holds WAIT, or held it when it was signalled to v. -/
def recReady (s : State) (signalled : Option (Nat × Nat)) (r : TaskRec) : Bool :=
  r.ready || recNodep r.word || recWait r.word ≤ (counterOf s (recCtr r.word)).value.toNat ||
    match signalled with
    | some (ctr, v) => recCtr r.word == ctr && recWait r.word ≤ v
    | none => false

/-- The pending records of every panel looked at; readiness is latched. -/
def latchReady (signalled : Option (Nat × Nat)) (s : State) : State :=
  s.panels.foldl (fun s e =>
    let l := e.2.records.map fun r => { r with ready := recReady s signalled r }
    if l == e.2.records then s
    else (s.setPanel e.1 { e.2 with records := l }).post .dispatch { panel := e.1 }) s
/-- RECORD_READY: record id has entered a window, or (id 0) counter a has been signalled to v. -/
def execRecordReady (s : State) : Host.Outcome State Fault Refusal :=
  event (fun e s => latchReady (if e.id = 0 then some (e.a, e.v.toNat) else none) s) s

/-- A record passed over first at t ages 100 µs later. -/
def ageRecord (panel id : Nat) (s : State) : State :=
  let p := s.panel panel
  match p.records.find? fun r => r.id == id with
  | none => s
  | some r =>
    match r.passedAt with
    | none => s
    | some t =>
      if r.agedAt.isSome then s
      else if t + 100000 ≤ s.deviceTime then
        (s.setPanel panel { p with
          records := p.records.map fun q => if q.id == id then { q with agedAt := some (t + 100000) } else q }).post
          .dispatch { panel := panel }
      else s.post .recordAge { panel := panel, id := id }
/-- RECORD_AGE: record id of panel. -/
def execRecordAge (s : State) : Host.Outcome State Fault Refusal := event (fun e s => ageRecord e.panel e.id s) s

/-! ## Choosing (04 R104–R106) -/

/-- The tenant of a core: that of its current domain (04 R109). -/
def coreTenant (s : State) (c : CoreId) : Option Nat := tenantOf s (s.core c).domain

/-- A record's task may start on the core now (04 R106, R110, R114, R121): it is IDLE, its TMASK holds the tenant, its patch does not
withhold it, no handler of another tenant is live on it, and under trace replay the start matches. -/
def mayLaunch (s : State) (c : CoreId) (r : TaskRec) : Bool :=
  let x := s.core c
  x.status == .idle && x.tmask.getLsbD r.tenant && !x.withheld && traceAllows s c (taskEntry r) &&
    (match traceOwner s c.panel (taskEntry r) with | some o => o == c | none => true) &&
    (!((coreStrands c).any fun k => (s.strand k).live && (s.strand k).isHandler) || coreTenant s c == some r.tenant)
/-- A core is eligible for a record (04 R106): no other record is chosen for it. -/
def eligible (s : State) (r : TaskRec) (c : CoreId) : Bool :=
  decide (c.index < 192) && !((s.panel c.panel).chosen.any fun e => e.1 == c) && mayLaunch s c r

/-- The eligible cores for a record. -/
def eligibleCores (s : State) (panel : Nat) (r : TaskRec) : List CoreId :=
  ((List.range 192).map (mkCore panel)).filter fun c =>
    eligible s r c && !((s.panel panel).redispense.any fun e => e.1 == c && e.2.id != r.id)

/-- The first of cores at or after the rotating pointer. -/
def rotated (ptr : Nat) (l : List CoreId) : Option CoreId := (l.find? fun c => ptr ≤ c.index).or l.head?

/-- The record that stands first by an order: an earlier one stays where neither comes before the other. -/
def firstBy (lt : TaskRec → TaskRec → Bool) : List TaskRec → Option TaskRec
  | [] => none
  | r :: rs =>
    match firstBy lt rs with
    | none => some r
    | some q => if lt q r then some q else some r

/-- Rules 4 and 5 of R104. -/
def earlier (a b : TaskRec) : Bool :=
  let x := [recTime a.word, a.queue, a.slot]
  let y := [recTime b.word, b.queue, b.slot]
  x < y
/-- The tenant at a class's pointer (rule 3), the pointer and its count after the dispatch. -/
def roundRobin (p : Panel) (cls : Nat) (ts : List Nat) : Nat × Nat :=
  let at_ := Table.get 0 p.rrTenant cls
  let n := Table.get 0 p.rrCount cls
  if ts.contains at_ && n < (Table.get 1 p.tweight at_).toNat then (at_, n + 1)
  else
    let next := ((List.range 32).map fun i => (at_ + 1 + i) % 32).find? fun t => ts.contains t
    (next.getD at_, 1)

/-- Rule 1: the aged records that aged first, if there are any; else all. -/
def agedFirst (l : List TaskRec) : List TaskRec :=
  match l.filterMap TaskRec.agedAt with
  | [] => l
  | t :: ts =>
    let first := ts.foldl min t
    l.filter fun r => r.agedAt == some first
/-- The pointer of a record's class after its dispatch (R104 rule 3). -/
def countDispatch (p : Panel) (r : TaskRec) : Panel :=
  if r.counts then
    let cls := recPrio r.word
    let (t, n) := roundRobin p cls [r.tenant]
    { p with rrTenant := Table.set 0 p.rrTenant cls t, rrCount := Table.set 0 p.rrCount cls n }
  else p
/-- The pointers as they will stand once the records chosen and not started yet have started: a dispatch is the start (R107),
and a choice that R121 overrides counts for nothing. -/
def pointersAhead (p : Panel) : Panel := (p.chosen.map Prod.snd).foldl countDispatch p

/-- The record chosen among candidates by the first rule that separates them (R104). DESIGN CHOICE (log 35): a dispatch that
rule 1 alone decides leaves the pointer of rule 3. -/
def chooseRecord (p : Panel) (l : List TaskRec) : Option TaskRec :=
  match agedFirst l with
  | [] => none
  | r :: rs =>
    if rs.isEmpty && r.agedAt.isSome then some { r with counts := false }
    else
      let cls := (rs.map fun q => recPrio q.word).foldl min (recPrio r.word)
      let inClass := (r :: rs).filter fun q => recPrio q.word == cls
      let t := (roundRobin (pointersAhead p) cls (inClass.map TaskRec.tenant)).1
      (firstBy earlier (inClass.filter fun q => q.tenant == t)).map fun q => { q with counts := true }

/-- A record is chosen for a core. -/
def choose (panel : Nat) (r : TaskRec) (c : CoreId) (s : State) : State :=
  let p := s.panel panel
  let s := s.setPanel panel { p with chosen := p.chosen ++ [(c, r)], corePtr := (c.index + 1) % 192 }
  (s.post .taskStart { core := c }).post .dispatch { panel := panel }

/-- The dispatch of a record to a core passes over the ready records that the core was eligible for (R105), those chosen for
another core and not dispatched yet among them. -/
def passOver (r : TaskRec) (c : CoreId) (s : State) : State :=
  let panel := c.panel
  let p := s.panel panel
  let passed := p.records.filter fun q =>
    q.ready && q.id != r.id && q.passedAt.isNone && eligible s q c
  let s := s.setPanel panel { p with
    records := p.records.map fun q => if passed.any fun o => o.id == q.id then { q with passedAt := some s.deviceTime } else q }
  passed.foldl (fun s q => s.post .recordAge { panel := panel, id := q.id }) s

/-- The swift chooses one record and a core for it (R104–R106); a task to be re-dispensed goes first (05 R135). DESIGN CHOICE (log
35): the dispatch of a re-dispensed task leaves rule 3's pointer and its count as they are. -/
def dispense (panel : Nat) (s : State) : State :=
  let p := s.panel panel
  if !p.supervised then s
  else
    let waits := fun (r : TaskRec) => !(p.chosen.any fun e => e.2.id == r.id)
    let again := p.redispense.findSome? fun e =>
      let cs := if (s.core e.1).status == .retired then eligibleCores s panel e.2
        else if eligible s e.2 e.1 then [e.1] else []
      if waits e.2 then (rotated p.corePtr cs).map fun c => (e.2, c) else none
    match again with
    | some (r, c) => choose panel { r with counts := false } c s
    | none =>
      let cands := p.records.filter fun r => r.ready && waits r && !(eligibleCores s panel r).isEmpty
      match chooseRecord p cands with
      | none => s
      | some r =>
        match rotated p.corePtr (eligibleCores s panel r) with
        | none => s
        | some c => choose panel r c s
/-- DISPATCH: the swift of panel. -/
def execDispatch (s : State) : Host.Outcome State Fault Refusal := event (fun e s => dispense e.panel s) s

/-! ## Starting and completing (04 R107–R109, R121) -/

/-- A core cleansed (04 R109). -/
def cleanse (c : CoreId) (s : State) : State :=
  s.setCore c { s.core c with
    scratch := [], scratchPoison := [], operand := [], operandPoison := [], tiles := [], tileBad := [], skeins := []
    cmdq := [], markv := 0, mcause := 0, mstrand := 0, stop := false, mbound := false, mflags := 0, mparked := none
    ranges := [] }

/-- The core enters a domain: another tenant's work finds it cleansed (04 R107, R109). -/
def enterDomain (c : CoreId) (d : BitVec 16) (s : State) : State :=
  let s := if tenantOf s d != coreTenant s c then commandsGone c (cleanse c s) else s
  s.setCore c { s.core c with domain := d }

/-- The lead strand of a record's task starts on a core; other records are passed over (04 R105, R107). -/
def launch (c : CoreId) (r : TaskRec) (again : Bool) (s : State) : State :=
  let s := passOver r c s
  let p := countDispatch (s.panel c.panel) r
  let s := s.setPanel c.panel { p with
    records := p.records.filter fun q => q.id != r.id
    redispense := p.redispense.filter fun e => e.2.id != r.id
    runningTable := (p.runningTable.filter fun e => e.2.id != r.id) ++ [(c, r)] }
  let s := s.setCore c { s.core c with status := .running, tenant := r.tenant, domain := tenantDomain s r.tenant }
  let s := startStrand (mkStrand c 0)
    { pc := recEntry r.word
      bases := (List.range 4).map fun j => BitVec.ofNat 64 (recBits r.word (128 + 64 * j) 64)
      stime := BitVec.ofNat 64 (recTime r.word)
      domain := (s.core c).domain
      role := .lead } (acquire c s)
  let s := traced c (taskEntry r) s
  if again then
    postEvent s (some r.tenant) srcFirmware 8
      [(24, 1, c.panel), (25, 1, c.index), (26, 1, r.queue), (32, 8, r.slot)]
  else consumeSlot c.panel r.tenant r.queue r.slot s

/-- The record chosen for a core starts as its task, unless a command, a kill or a handler came first, or a trace does not let it:
it then stays pending. A core of another tenant is cleansed first, once its matrix command has ended, and is then in the record's domain, whatever comes before the
start (04 R107, R121). The lead does not start while a matrix command may use its pattern slots (14 R338). -/
def startTask (c : CoreId) (s : State) : State :=
  let p := s.panel c.panel
  match p.chosen.find? fun e => e.1 == c with
  | none => s
  | some (_, r) =>
    let free := s.setPanel c.panel { p with chosen := p.chosen.filter fun e => e.1 != c }
    let again := p.redispense.any fun e => e.2.id == r.id
    let d := tenantDomain s r.tenant
    if !mayLaunch s c r || !(again || p.records.any fun q => q.id == r.id) then
      free.post .dispatch { panel := c.panel }
    else if tenantOf s d != coreTenant s c then
      (if (s.core c).active.isSome then s else enterDomain c d s).post .taskStart { core := c }
    else if slotsHeld s c 0 || traceHeld s c (taskEntry r) then
      (traceQueue c (taskEntry r) s).post .taskStart { core := c }
    else launch c r again free
/-- TASK_START: the record chosen for core. -/
def execTaskStart (s : State) : Host.Outcome State Fault Refusal := event (fun e s => startTask e.core s) s

/-- The task of a core has completed (04 R108). -/
def completeTask (c : CoreId) (s : State) : State :=
  let x := s.core c
  match runningRec s c with
  | none => s
  | some r =>
    let atWork := x.status == .running ||
      (x.before == .running && (x.status == .stopping || x.status == .halted || x.status == .quiet))
    if (coreStrands c).any (taskStrand s) || (matrixBusy x && !x.stop) || !atWork then s
    else
      let s := freeEntry c (clearStopped c s)
      let s := if recDonev r.word then
          postEvent s (some r.tenant) (srcQueue r.tenant r.queue) 1
            [(24, 1, c.panel), (25, 1, r.queue), (26, 1, c.index), (32, 8, r.slot)]
        else s
      let y := s.core c
      let s := s.setCore c { y with
        status := if y.status == .running then .idle else y.status
        before := if y.before == .running then .idle else y.before }
      let s := s.post .dispatch { panel := c.panel }
      if y.mailbox.isEmpty then s else s.post .handlerStart { core := c }
/-- TASK_COMPLETE: the task of core. -/
def execTaskComplete (s : State) : Host.Outcome State Fault Refusal := event (fun e s => completeTask e.core s) s

/-! ## Withholding by patch (04 R110) -/

/-- The physical index of a logical core (01 R13, R25). -/
def physOf (s : State) (c : CoreId) : Option Nat :=
  match Table.get 0 (s.panel c.panel).coreMap c.index with
  | 0 => none
  | n + 1 => some n
/-- The patch of a physical core. -/
def patchOf (phys : Nat) : Nat :=
  let row := phys / 16
  (if row < 5 then 0 else if row < 9 then 1 else 2) * 4 + phys % 16 / 4
/-- CORESTAT.WITHHELD of a panel's cores follows PATCHST. -/
def withhold (panel : Nat) (s : State) : State :=
  ((List.range 196).map (mkCore panel)).foldl (fun s c =>
    let held := match physOf s c with
      | some n => Table.get 0 (s.panel panel).patchst (patchOf n) != 0
      | none => false
    if (s.core c).withheld == held then s else s.setCore c { s.core c with withheld := held }) s

/-- A patch's sensors read this temperature, and its cores this power in units of 0.25 W. -/
def patchReads (panel patch celsius quarters : Nat) (s : State) : State :=
  let p := s.panel panel
  let ctl := (Table.get 0 p.patchctl patch).toNat
  let thr := ctl / 2 % 128
  let budget := ctl / 256
  let on := ctl % 2 == 1
  let wasHot := (Table.get 0 p.patchst patch).getLsbD 1
  let hot := on && thr != 0 && (decide (thr ≤ celsius) || (wasHot && decide (thr < celsius + 3)))
  let spent := on && budget != 0 && decide (budget < quarters)
  let s := s.setPanel panel { p with
    patchst := Table.set 0 p.patchst patch (BitVec.ofNat 2 (bit hot * 2 + bit spent)) }
  (withhold panel s).post .dispatch { panel := panel }
/-- PATCH_STATUS_CHANGE: patch a of panel reads b °C and c units of 0.25 W. -/
def execPatchStatusChange (s : State) : Host.Outcome State Fault Refusal :=
  event (fun e s => patchReads e.panel e.a e.b e.c s) s

/-! ## Token buckets (04 R111, 14 R337) -/

/-- The number of a bucket. -/
def bucketKey (panel engine tenant : Nat) : Nat := (panel * 8 + engine) * 64 + tenant
/-- One router cycle of a bucket: the balance after its refill, and after an operation of cost n that waits. -/
def bucketCycle (b : Int × Nat × Nat) (cost : Option Nat) : (Int × Nat × Nat) × Bool :=
  let r := min (b.1 + b.2.2) (b.2.1 * 256)
  match cost with
  | some n => if 256 ≤ r then ((r - n * 256, b.2), true) else ((r, b.2), false)
  | none => ((r, b.2), false)
/-- The event that performs a copy packet. -/
def packetEvent (op : Nat) : Instr :=
  match op with
  | 1 => .copyPacketCopy | 2 => .copyPacketCopy2d | 3 => .copyPacketFill | 4 => .copyPacketReduce | 5 => .copyPacketPut
  | _ => .copyPacketGet
/-- The first packet of a tenant at an engine with bursts to issue. -/
def waitingJob (s : State) (panel engine tenant : Nat) : Option CopyJob :=
  s.copyJobs.find? fun j => j.panel == panel && j.engine == engine && j.tenant == tenant && j.stage == 0 && j.bursts != 0
/-- A router cycle of a tenant's bucket at an engine: one burst issues, and a packet's last lets it be performed. -/
def bucketTick (panel engine tenant : Nat) (s : State) : State :=
  let key := bucketKey panel engine tenant
  let job := waitingJob s panel engine tenant
  let (b, go) := bucketCycle (Table.get (0, 0, 0) s.buckets key) (job.map fun _ => 1)
  let s := { s with buckets := Table.set (0, 0, 0) s.buckets key b }
  match job with
  | none => s
  | some j =>
    let s := if go then { s with copyJobs := putId CopyJob.id s.copyJobs { j with bursts := j.bursts - 1 } } else s
    let s := if go && j.bursts == 1 then s.post (packetEvent (recBits j.word 0 8)) { id := j.id } else s
    if (waitingJob s panel engine tenant).isSome then
      s.post .tokenBucketCycle { panel := panel, a := engine, tenant := tenant }
    else s
/-- TOKEN_BUCKET_CYCLE: the bucket of tenant at engine a of panel. -/
def execTokenBucketCycle (s : State) : Host.Outcome State Fault Refusal :=
  event (fun e s => bucketTick e.panel e.a e.tenant s) s

/-! ## The ramp limiter (04 R112) -/

/-- The core's clock in cycles a microsecond (05 R122: MHz); 0.6 GHz while the package or the die is clamped (01 R18). -/
def coreRate (s : State) (c : CoreId) : Nat :=
  let f := sourceFreq (s.panel c.panel) (s.core c).srcnow
  if s.package.powerClamp || (s.panel c.panel).clamped then min f 600 else f
/-- The matrix unit of the core is idle, in a patch that is not hot: it may run dummy slots. -/
def idleUnit (s : State) (c : CoreId) : Bool :=
  let x := s.core c
  x.active.isNone && x.arrayLeft == 0 && x.status != .killed && x.status != .retired &&
    match physOf s c with
    | some n => !(Table.get 0 (s.panel c.panel).patchst (patchOf n)).getLsbD 1
    | none => false
/-- The dummy slots that the idle units of a panel can run in a microsecond: the cycles in which their arrays ran no command. -/
def idleSlots (s : State) (panel : Nat) : Nat :=
  ((((List.range 196).map (mkCore panel)).filter (idleUnit s)).map fun c => coreRate s c - (s.core c).arrayNow).sum
/-- The array cycles of a core that fall in the next microsecond. -/
def arrayNext (s : State) (c : CoreId) : Nat := min (s.core c).arrayLeft (coreRate s c)
/-- A microsecond ends: dummy slots meet the floor as far as idle units can, under a clamp too, the next one's balance is set,
and the commands that still run have their cycles in it. -/
def rampTick (panel : Nat) (s : State) : State :=
  let p := s.panel panel
  let cores := (List.range 196).map (mkCore panel)
  let floor := p.rampPrev - p.rampdn.toNat
  let dummy := min (floor - p.rampNow) (idleSlots s panel)
  let total := p.rampNow + dummy
  let s := s.setPanel panel { p with
    rampPrev := total
    rampNow := (cores.map (arrayNext s)).sum
    rampDummy := dummy
    rampBalance := min p.rampBalance 0 + total + p.rampup.toNat }
  cores.foldl (fun s c => if (s.core c).arrayLeft == 0 && (s.core c).arrayNow == 0 then s
    else s.setCore c { s.core c with arrayLeft := (s.core c).arrayLeft - arrayNext s c, arrayNow := arrayNext s c }) s
/-- RAMP_MICROSECOND: a microsecond of panel ends. -/
def execRampMicrosecond (s : State) : Host.Outcome State Fault Refusal := event (fun e s => rampTick e.panel s) s

end Sys2Proof.Machine
end

