-- ==== Sys2Proof/Machine/Registers.lean ====
section
/-!
DEFINITION. Registers.lean: writes of registers (01 R40–R42; 03 R79, R84, R97), page shootdowns (07 R173), flush epochs
(R168) and law-table shootdowns (13 R303).
-/
namespace Sys2Proof.Machine

/-! ## Reads by the host (01 R40; 03 R79, R84, R97) -/

/-- A register of a tenant page. -/
def tenantReg (x : Tenant) (o : Nat) : Nat :=
  match o with
  | 0x000 => x.shipAddr.toNat
  | 0x008 => x.shipOp0.toNat
  | 0x010 => x.shipOp1.toNat
  | 0x020 => x.shipRep.toNat
  | 0x028 => (Table.get 0 x.shipVals 0).toNat
  | 0x030 => x.shipOp2.toNat
  | 0x038 => (Table.get 0 x.shipVals 1).toNat
  | 0x040 => x.evBase.toNat
  | 0x048 => x.evCtl.toNat
  | 0x050 => x.evProd.toNat
  | 0x058 => x.evCons.toNat
  | 0x060 => x.evLost.toNat
  | 0x068 => (Table.get 0 x.shipVals 2).toNat
  | 0x070 => (Table.get 0 x.shipVals 3).toNat
  | _ =>
    if 0x100 ≤ o ∧ o < 0x180 then
      let w := Table.get (0, 0) x.windows ((o - 0x100) / 16)
      if o % 16 = 0 then w.1.toNat else w.2.toNat
    else 0

/-- The 8 bytes of BAR2 at an aligned offset: tenant pages and the management mailbox; a page of no tenant reads zero. While
boot is stopped the port offers no BAR2 (01 R20; log 47). -/
def pageRead (s : State) (o : Nat) : Nat :=
  if bootStopped s then 0
  else if o < 0x20000 then
    let x := s.tenant (o / 4096)
    if x.present then tenantReg x (o % 4096) else 0
  else if o < 0x20040 then recBits s.package.mailReq (8 * (o - 0x20000)) 64
  else if o < 0x20080 then recBits s.package.mailRep (8 * (o - 0x20040)) 64
  else if o = 0x20080 then bit s.package.doorbell
  else 0

/-- The register that a host access of BAR0 (space 0) or BAR2 (space 1) finds at an aligned offset. -/
def hostReg (s : State) (space o : Nat) : Nat := if space = 0 then hostcbRead s o else pageRead s o
/-- A host access of a register space is of a good size and alignment (01 R40, 03 R79). -/
def hostSizeOk (o size : Nat) : Bool := (size == 4 || size == 8) && o % size == 0
/-- The value of a host read of 4 or 8 bytes of a register. -/
def hostRegRead (s : State) (space o size : Nat) : W64 :=
  let w := hostReg s space (o / 8 * 8)
  BitVec.ofNat 64 (if size = 8 then w else w / 2 ^ (8 * (o % 8)) % 2 ^ 32)

/-! ## Writes -/

/-- A write of 4 bytes leaves the other half of its register. -/
def mergeHalf (old o size : Nat) (v : W64) : W64 :=
  if size = 8 then v
  else if o % 8 = 0 then BitVec.ofNat 64 (old / 2 ^ 32 * 2 ^ 32 + v.toNat % 2 ^ 32)
  else BitVec.ofNat 64 (v.toNat % 2 ^ 32 * 2 ^ 32 + old % 2 ^ 32)

/-- Events that waited for a tenant's ring are written, if it now takes them (03 R95). -/
def ringResume (t : Nat) (s : State) : State := postLost (ringDrain 64 s t) t
/-- Every tenant's ring looked at. -/
def ringsResume (s : State) : State := (List.range 32).foldl (fun s t => ringResume t s) s

/-- A recovery operation is in progress: RSTAT reads busy, or error 4 for a command that came meanwhile (log 47). -/
def recoveryBusy (s : State) : Bool := s.package.boot.rstat == 1 || s.package.boot.rcmd != 0
/-- The event of a recovery command (01 R40). -/
def recoveryEvent (s : State) (v : W64) : Instr :=
  if recoveryBusy s then .rcmdInvalid
  else
    match v.toNat with
    | 1 => .rcmdErase
    | 2 => .rcmdWrite
    | 3 => .rcmdRead
    | 4 => .rcmdReboot
    | _ => .rcmdInvalid

/-- The event of a management request (03 R97). -/
def mailEvent (r : BitVec 512) : Instr :=
  match recBits r 0 16 with
  | 1 => .tenantCreate
  | 2 => .tenantDestroy
  | 3 => .queueCreate
  | 4 => .queueDestroy
  | 5 => .routineLoad
  | 6 => .attest
  | _ => .mailboxInvalid

/-- A host write of BAR0 (01 R40). While boot is stopped only the recovery registers take writes (R20; log 47). -/
def hostcbWrite (o size : Nat) (v : W64) (s : State) : State :=
  let w := mergeHalf (hostcbRead s (o / 8 * 8)) o size v
  if bootStopped s && o < 0x1000 then s
  else if o / 8 * 8 = 0 then s.post .linkenWrite { v := w }
  else if o / 8 * 8 = 0x1000 then (if bootStopped s then s.post (recoveryEvent s w) { v := w } else s)
  else if 0x2000 ≤ o then hostcbStore o size v s
  else ringsResume (hostcbStore (o / 8 * 8) 8 w s)

/-- SHIPREP.busy -/
def shipBusy (x : Tenant) : Bool := x.shipRep.getLsbD 61
/-- SHIPGO written: discarded while busy; else the page is busy at once, and the ship uses SHIPADDR and the operands as they
stand (03 R85). -/
def shipgoTake (t : Nat) (v : W64) (s : State) : State :=
  let x := s.tenant t
  if shipBusy x then s
  else (s.setTenant t { x with
    shipRep := BitVec.ofNat 64 (2 ^ 61), shipArgs := [x.shipAddr, x.shipOp0, x.shipOp1, x.shipOp2] }).post .shipgo
      { tenant := t, v := v, b := 1 }
/-- A host write of BAR2 (03 R79, R84, R97). -/
def pageWrite (o size : Nat) (v : W64) (s : State) : State :=
  let r := o / 8 * 8
  let w := mergeHalf (pageRead s r) o size v
  if 0x20000 ≤ o ∧ o < 0x20080 then pageStore o size v s
  else if r = 0x20080 then
    if w == 1 && !s.package.doorbell then
      let s := s.withPackage fun p => { p with doorbell := true }
      if recordOk s.package.mailReq then s.post (mailEvent s.package.mailReq) {} else s.post .mailboxInvalid {}
    else s
  else if 0x20000 ≤ o then s
  else
    let t := o / 4096
    if !(s.tenant t).present then s
    else if r % 4096 = 0x018 then shipgoTake t w s
    else if r % 4096 = 0x058 then s.post .evconsWrite { tenant := t, v := w }
    else if r % 4096 = 0x040 ∨ r % 4096 = 0x048 then ringResume t (pageStore r 8 w s)
    else pageStore r 8 w s

/-- What follows a write of a control-space register. -/
def ctlFollow (r : CtlReg) (s : State) : State :=
  match r with
  | .patchctl p n => s.post .patchStatusChange
      { panel := p, a := n, b := Config.measured (2 * s.steps), c := Config.measured (2 * s.steps + 1) }
  | .tmask c => s.post .dispatch { panel := c.panel }
  | .tweight p _ => s.post .dispatch { panel := p }
  | .trbase c => traceSettle c s
  | .trlim c => traceSettle c s
  | .trpos c => traceSettle c s
  | .qbind p i =>
    let e := (Table.get 0 (s.panel p).qbind i)
    if e.getLsbD 54 then s.post .swiftReadSlot { panel := p, tenant := e.toNat / 2 ^ 59, a := e.toNat / 2 ^ 55 % 16 } else s
  | _ => s

/-- A register written: space 0 BAR0, 1 BAR2, 2 the control space, 3 the MSI-X table of function 0 (03 R82; log 36). -/
def writeRegister (space o size : Nat) (v : W64) (s : State) : State :=
  if space = 2 then
    match ctlReg o with
    | some r => ctlFollow r (ctlStore r v s)
    | none => s
  else if space = 3 then (if bootStopped s then s else msixWrite o size v s)
  else if !hostSizeOk o size then s.withPackage fun p => { p with hostErrors := p.hostErrors + 1 }
  else if space = 0 then hostcbWrite o size v s
  else if bootStopped s then s
  else pageWrite o size v s
/-- REGISTER_WRITE: c bytes v at offset b of space a. -/
def execRegisterWrite (s : State) : Host.Outcome State Fault Refusal :=
  event (fun e s => writeRegister e.a e.b e.c e.v (storeDone e.id s)) s

/-! ## Page shootdowns (07 R173) -/

/-- The first address and the length of the range of a PGINV value. -/
def shootRange (s : State) (v : W64) : Nat × Nat :=
  let size := 2 ^ pageShift (v.toNat % 4)
  (v.toNat / 2 ^ 16 % 2 ^ 41 * 2 ^ 16 / size * size, s.package.pgcnt.toNat * size)
/-- n bytes at a meet a range. -/
def meets (r : Nat × Nat) (a n : Nat) : Bool := decide (a < r.1 + r.2 ∧ r.1 < a + n)

/-- The lines that the cores hold of a range are dropped, of pages of every kind; owned words are written back first. -/
def shootLines (r : Nat × Nat) (s : State) : State :=
  s.cores.foldl (fun s e =>
    let test := fun (line : Nat) => meets r (line * 128) 128
    let s := flushLines e.1 test s
    let x := s.core e.1
    s.setCore e.1 (x.withL1 (x.l1.filter fun l => !test l.line))) s
/-- What the slices and the cores hold of a range is dropped. -/
def shootDown (r : Nat × Nat) (s : State) : State :=
  let s := { s with panels := Table.mapValues {} (fun (p : Panel) => { p with
    tlb := p.tlb.filter fun t => !meets r t.1 (2 ^ levelShift t.2.1)
    walkCache := p.walkCache.filter fun w => !meets r (w.2.1 * 2 ^ levelShift w.1) (2 ^ levelShift w.1) }) s.panels }
  shootLines r { s with cores := Table.mapValues {} (fun (x : Core) => { x with
    plb := x.plb.filter fun q => !(plbValid q.2 && meets r (plbBase q.2) (2 ^ pageShift (plbSize q.2))) }) s.cores }

/-- PGINV written: a reserved size or a bit that must be zero leaves it; a busy one discards the write. -/
def pageShootStart (v : W64) (s : State) : State :=
  let n := v.toNat % 2 ^ 63
  if s.package.pgBusy || n % 4 = 3 || n / 4 % 2 ^ 14 != 0 || n / 2 ^ 57 != 0 then s
  else
    let s := shootDown (shootRange s v) s
    let s := s.withPackage fun p => { p with pginv := BitVec.ofNat 64 (2 ^ 63 + n), pgBusy := true }
    let r := shootRange s v
    s.post .pageShootdownDone { a := r.1, b := r.2, id := s.nextId }
/-- PAGE_SHOOTDOWN: PGINV is written with v. -/
def execPageShootdown (s : State) : Host.Outcome State Fault Refusal :=
  event (fun e s => pageShootStart e.v (storeDone e.id s)) s

/-- An access of a range issued before item number mark has not completed at its home: a store, a read of a line that waits for its
DRAM, a request to a hook, an APPEND with a translation of its slot's page, the fetch of a ticket, or a copy packet with the
translation of its status word. -/
def oldAccess (s : State) (r : Nat × Nat) (mark : Nat) : Bool :=
  s.stores.any (fun x => x.id < mark && meets r x.va x.bytes.length) ||
    s.homeReads.any (fun x => x.id < mark && x.fill.any fun f => meets r f.2 1) ||
    s.hookReqs.any (fun x => x.id < mark && x.stage != 4 &&
      (meets r x.va.toNat 1 || x.leaves.any fun l => meets r (l.1 * 65536) 65536)) ||
    s.ticketReqs.any (fun x => x.id < mark && !x.redeem) ||
    s.copyJobs.any fun j => j.id < mark && j.statPlace.isSome && meets r (recBits j.word 384 64) 8
/-- The accesses that used the old translation of a range are looked at. Once they are done, the lines that they have brought into a
core leave it again, and PGINV is no longer busy: only the new translation is seen from then on. -/
def pageShootEnd (r : Nat × Nat) (mark : Nat) (s : State) : State :=
  if !s.package.pgBusy then s
  else if oldAccess s r mark then s.post .pageShootdownDone { a := r.1, b := r.2, id := mark }
  else (shootLines r s).withPackage fun p => { p with pginv := BitVec.ofNat 64 (p.pginv.toNat % 2 ^ 63), pgBusy := false }
/-- PAGE_SHOOTDOWN_DONE: the range (first address a, length b) and the item number id are those of its start. -/
def execPageShootdownDone (s : State) : Host.Outcome State Fault Refusal := event (fun e s => pageShootEnd (e.a, e.b) e.id s) s

/-! ## Flush epochs (07 R168) -/

/-- FLUSHEP written: 1 starts an epoch, if none is in progress. -/
def epochStart (v : W64) (s : State) : State :=
  if v.toNat % 2 ^ 63 != 1 || s.package.flushBusy then s
  else
    let s := s.withPackage fun p => { p with
      flushBusy := true
      epoch := p.gens.foldl (fun t e => Table.set 0 t e.1 e.2.1) [] }
    checkEpoch { s with cores := Table.mapValues {} (fun (x : Core) => { x with flushed := false }) s.cores }
/-- FLUSH_EPOCH_START: FLUSHEP is written with v. -/
def execFlushEpochStart (s : State) : Host.Outcome State Fault Refusal :=
  event (fun e s => epochStart e.v (storeDone e.id s)) s

/-! ## Law-table shootdowns (13 R303) -/

/-- A cached entry is of tenant t, with an index from a to b. -/
def lawNamed (t a b key : Nat) : Bool := decide (key / 256 = t ∧ a ≤ key % 256 ∧ key % 256 ≤ b)

/-- Every law unit and hook drops its copies of a tenant's entries from a to b. -/
def dropLaws (t a b : Nat) (s : State) : State :=
  { s with
    cores := Table.mapValues {} (fun (x : Core) => { x with lawCache := x.lawCache.filter fun l => !lawNamed t a b l.1 }) s.cores
    gstacks := Table.mapValues {} (fun (x : Stack) => { x with
      lawCache := x.lawCache.filter fun l => !lawNamed t a b l.2.1 }) s.gstacks }

/-- LAWINV written: every law unit and hook drops its copies of the named entries. -/
def lawShootStart (v : W64) (s : State) : State :=
  let n := v.toNat % 2 ^ 63
  let t := n / 2 ^ 32 % 32
  let a := n % 256
  let b := n / 256 % 256
  if s.package.lawBusy || b < a || n / 2 ^ 16 % 2 ^ 16 != 0 || n / 2 ^ 37 != 0 then s
  else
    ((dropLaws t a b s).withPackage fun p => { p with lawinv := BitVec.ofNat 64 (2 ^ 63 + n), lawBusy := true }).post .lawShootdownDone
      { v := BitVec.ofNat 64 n }
/-- LAW_TABLE_SHOOTDOWN: LAWINV is written with v. -/
def execLawTableShootdown (s : State) : Host.Outcome State Fault Refusal :=
  event (fun e s => lawShootStart e.v (storeDone e.id s)) s

/-- The law operations that used the old entries are done: a law operation takes its entry and ends in one step. -/
def lawShootEnd (s : State) : State :=
  s.withPackage fun p => { p with lawinv := BitVec.ofNat 64 (p.lawinv.toNat % 2 ^ 63), lawBusy := false }
/-- LAW_SHOOTDOWN_DONE -/
def execLawShootdownDone (s : State) : Host.Outcome State Fault Refusal := event (fun _ s => lawShootEnd s) s

end Sys2Proof.Machine
end

