-- ==== Sys2Proof/Machine/Boot.lean ====
section
/-!
DEFINITION. Boot.lean: the boot ROM (01 R19–R24), discovery and the logical map (R25), the delivery of the supervisor image
(R26), and the recovery mailbox (R40).
-/
namespace Sys2Proof.Machine

/-! ## Images (01 R19, R21, R22) -/

/-- The flash as a byte string. -/
def flashBytes (s : State) : List Byte := s.package.boot.flash.bytes 0 Config.flashSize
/-- Image k of the flash: 0 the configuration record, 1 the service firmware, 2 the supervisor image, 3 the helper data. -/
def imageBytes (s : State) (k : Nat) : Option (List Byte) :=
  (Config.imagePlace (flashBytes s) k).map fun e => ((flashBytes s).drop e.1).take e.2

/-- A key is the root key. -/
def rootKey (key : List Byte) : Bool := Config.sha384 key == Config.rootKeyDigest
/-- A signer key is the root key, or one that the root key endorses by a certificate of the same flash. -/
def signerOk (s : State) (key : List Byte) : Bool :=
  rootKey key ||
    match Config.certificate (flashBytes s) key with
    | some (root, sig) => rootKey root && Config.ecdsaValid root (Config.sha384 key) sig
    | none => false

/-- What verification says of an image: its bytes, or the reason of R24. -/
def verifyImage (s : State) (k : Nat) : Except Nat (List Byte) :=
  match imageBytes s k with
  | none => .error 8
  | some bs =>
    match Config.imageHeader bs with
    | none => .error 8
    | some (_, _, key, sig, _) =>
      if signerOk s key && Config.ecdsaValid key (Config.sha384 bs) sig then .ok bs else .error 1
/-- The version in an image's header. -/
def imageVersion (bs : List Byte) : BitVec 32 := match Config.imageHeader bs with | some (_, v, _) => v | none => 0
/-- The type in an image's header. -/
def imageType (bs : List Byte) : BitVec 32 := match Config.imageHeader bs with | some (t, _) => t | none => 0

/-! ## Stages 1–4 (01 R20) -/

/-- Boot state changed. -/
def withBoot (f : Boot → Boot) (s : State) : State := s.withPackage fun p => { p with boot := f p.boot }
/-- BOOTST with its STAGE, REASON, PANEL and READY; VER and PANELS stay. DESIGN CHOICE (log 35): no version of the boot ROM is
given, so VER stays 0, its reset value (01 R24). -/
def bootWord (w : BitVec 32) (stage reason panel ready : Nat) : BitVec 32 :=
  BitVec.ofNat 32 (w.toNat / 2 ^ 16 * 2 ^ 16 + panel * 2 ^ 12 + reason * 2 ^ 8 + stage * 2 ^ 4 + ready)
/-- A stage begins. -/
def stageEnter (stage : Nat) (s : State) : State := withBoot (fun b => { b with bootst := bootWord b.bootst stage 0 0 0 }) s
/-- Boot stops at a stage: only the recovery mailbox is left. -/
def bootStop (stage reason panel : Nat) (s : State) : State :=
  withBoot (fun b => { b with
    phase := .stopped, bootst := bootWord b.bootst stage reason panel 0, rstat := 0, rerr := 0, rcmd := 0 }) s

/-- Stages 1–3: the identity key, or the stage and the reason of the failure. -/
def earlyStages (s : State) : Except (Nat × Nat) (BitVec 384) :=
  if !Config.serviceSelfTest s.steps then .error (1, 9)
  else if !Config.flashReadable s.steps 1 then .error (1, 8)
  else
    match verifyImage s 3 with
    | .error r => .error (1, if r = 8 then 8 else 2)
    | .ok _ =>
      match Config.identityKey s.steps (Config.helperData (flashBytes s)) with
      | none => .error (1, 2)
      | some key =>
        if !Config.flashReadable s.steps 2 then .error (2, 8)
        else
          match verifyImage s 0 with
          | .error r => .error (2, r)
          | .ok conf =>
            if !Config.flashReadable s.steps 3 then .error (3, 8)
            else
              match verifyImage s 1, verifyImage s 2 with
              | .error r, _ => .error (3, r)
              | _, .error r => .error (3, r)
              | .ok fw, .ok sup =>
                let least := (Config.minVersion conf).toNat
                if (imageVersion fw).toNat < least || (imageVersion sup).toNat < least then .error (3, 3) else .ok key
/-- What a later stage does, unless the flash cannot be read in it (01 R24). -/
def inStage (stage : Nat) (f : State → State) (s : State) : State :=
  if Config.flashReadable s.steps stage then f s else bootStop stage 8 0 s

/-- The configuration record in use. -/
def configRecord (s : State) : List Byte := (imageBytes s 0).getD []

/-- Discovery is flooded on a panel: every core that replies does so, and two times run. -/
def flood (panel : Nat) (s : State) : State :=
  let replies := (List.range 208).filter fun n => Config.selfTest s.steps panel n != 0
  let s := replies.foldl (fun t n => t.post .selftestReply
    { panel := panel, a := n, ok := Config.selfTest s.steps panel n == 1 }) s
  (s.post .selftestReplyTimeout { panel := panel }).post .discoveryTimeout { panel := panel }

/-- The boot ROM starts: device time begins at 0 (01 R16), and stages 1–4 run up to the flood; the default region tables are
those of the configuration record (R14). -/
def bootRom (s : State) : State :=
  if s.package.boot.phase != .notStarted then s
  else
    let s := { s with deviceTime := 0, package := { s.package with clockSkew := 0 } }
    match earlyStages s with
    | .error (stage, reason) => bootStop stage reason 0 s
    | .ok key =>
      let s := s.withPackage fun p => { p with regions := [], regionRecord := some (configRecord s) }
      let s := withBoot (fun b => { b with
        phase := .discovery, identity := some key, results := [], mapped := [], delivered := [], since := s.deviceTime })
        (stageEnter 4 s)
      inStage 4 (fun s => (List.range 12).foldl (fun s p => flood p s) s) s
/-- BOOT_START -/
def execBootStart (s : State) : Host.Outcome State Fault Refusal := event (fun _ s => bootRom s) s

/-! ## Discovery and the logical map (01 R25) -/

/-- The result of a physical core: 0 none yet, 1 passed, 2 failed. -/
def testResult (s : State) (panel n : Nat) : Nat := Table.get 0 s.package.boot.results (panel * 256 + n)
/-- Every physical core of the panel has a result. -/
def allResults (s : State) (panel : Nat) : Bool := (List.range 208).all fun n => testResult s panel n != 0

/-- The panel's results are looked at. -/
def resultsCheck (panel : Nat) (s : State) : State :=
  if allResults s panel then s.post .logicalMapBuild { panel := panel } else s

/-- A core's reply reaches the corner core; one that comes 2 ms after the flood or later does not count. -/
def selftestResult (panel n : Nat) (ok : Bool) (s : State) : State :=
  let b := s.package.boot
  if b.phase != .discovery || 208 ≤ n || testResult s panel n != 0 || b.since + 2000000 ≤ s.deviceTime then s
  else resultsCheck panel (withBoot (fun b => { b with
    results := Table.set 0 b.results (panel * 256 + n) (if ok then 1 else 2) }) s)
/-- SELFTEST_REPLY: physical core a of panel has passed, or not. -/
def execSelftestReply (s : State) : Host.Outcome State Fault Refusal :=
  event (fun e s => selftestResult e.panel e.a e.ok s) s

/-- Two milliseconds after the flood: a core without a reply has failed. From a die without any reply no result reaches the boot
ROM (DISCOVERY_TIMEOUT). -/
def selftestLate (panel : Nat) (s : State) : State :=
  let b := s.package.boot
  if b.phase != .discovery || b.mapped.contains panel then s
  else if s.deviceTime < b.since + 2000000 then s.post .selftestReplyTimeout { panel := panel }
  else if (List.range 208).all fun n => testResult s panel n == 0 then s
  else resultsCheck panel ((List.range 208).foldl (fun s n =>
    if testResult s panel n = 0 then
      withBoot (fun b => { b with results := Table.set 0 b.results (panel * 256 + n) 2 }) s
    else s) s)
/-- SELFTEST_REPLY_TIMEOUT: panel. -/
def execSelftestReplyTimeout (s : State) : Host.Outcome State Fault Refusal := event (fun e s => selftestLate e.panel s) s

/-- The usable cores of a panel, in ascending physical index. -/
def usableCores (s : State) (panel : Nat) : List Nat :=
  let out := Config.retiredCores (configRecord s) panel
  (List.range 208).filter fun n => testResult s panel n == 1 && !out.contains n

/-- Stage 5 begins: the image goes to every supervisor core. -/
def deliver (s : State) : State :=
  let start := s.steps
  let s := withBoot (fun b => { b with phase := .delivery, since := s.deviceTime }) (stageEnter 5 s)
  inStage 5 (fun s => (List.range 12).foldl (fun s p =>
    let s := (List.range 4).foldl (fun s i =>
      let c := mkCore p (192 + i)
      if Config.imageArrives start c then s.post .supervisorImageDelivered { core := c } else s) s
    s.post .deliveryTimeout { panel := p }) s) s

/-- The corner core assigns the logical identities of its panel; the last panel's map ends stage 4. -/
def buildMap (panel : Nat) (s : State) : State :=
  let b := s.package.boot
  if b.phase != .discovery || b.mapped.contains panel || !allResults s panel then s
  else
    let l := usableCores s panel
    if l.length < 196 then bootStop 4 4 panel s
    else
      let p := s.panel panel
      let s := s.setPanel panel { p with
        coreMap := (l.take 196).zipIdx.foldl (fun t e => Table.set 0 t e.2 (e.1 + 1)) []
        spares := l.drop 196
        lost := [] }
      let s := withBoot (fun b => { b with mapped := b.mapped ++ [panel] }) s
      if (List.range 12).all fun p => s.package.boot.mapped.contains p then deliver s else s
/-- LOGICAL_MAP_BUILD: panel. -/
def execLogicalMapBuild (s : State) : Host.Outcome State Fault Refusal := event (fun e s => buildMap e.panel s) s

/-- Ten milliseconds have passed without any result of a die. -/
def discoveryLate (panel : Nat) (s : State) : State :=
  let b := s.package.boot
  if b.phase != .discovery || (List.range 208).any fun n => testResult s panel n != 0 then s
  else if s.deviceTime < b.since + 10000000 then s.post .discoveryTimeout { panel := panel }
  else bootStop 4 5 panel s
/-- DISCOVERY_TIMEOUT: panel. -/
def execDiscoveryTimeout (s : State) : Host.Outcome State Fault Refusal := event (fun e s => discoveryLate e.panel s) s

/-! ## Stages 5 and 6 (01 R20, R24, R26) -/

/-- Every supervisor core of a panel has its image. -/
def panelDelivered (s : State) (panel : Nat) : Bool :=
  (List.range 4).all fun i => s.package.boot.delivered.contains (mkCore panel (192 + i))

/-- Stage 6 begins: the service firmware starts. -/
def startFirmware (s : State) : State :=
  let start := s.steps
  let s := withBoot (fun b => { b with phase := .firmware, since := s.deviceTime }) (stageEnter 6 s)
  inStage 6 (fun s =>
    let s := if Config.firmwareReports start then s.post .fwReady {} else s
    s.post .fwStartTimeout {}) s

/-- A supervisor core's copy of the image is complete, where it is placed (log 16), and the core starts, at an even address
(10 R221); PANELS shows the pairs that are done. A copy that is complete 10 ms after the start of delivery, or later, comes too late
(01 R24). -/
def imageDelivered (c : CoreId) (s : State) : State :=
  let b := s.package.boot
  if b.phase != .delivery || b.since + 10000000 ≤ s.deviceTime || b.delivered.contains c || c.index < 192 || 196 ≤ c.index || 12 ≤ c.panel then s
  else
    let s := withBoot (fun b => { b with delivered := b.delivered ++ [c] }) s
    let s := setPaBytes s (Config.imageAddress c) ((imageBytes s 2).getD [])
    let d := BitVec.ofNat 16 (16 * ((Config.supervisorDomain c).val + 1))
    let s := s.setCore c { s.core c with status := .running, domain := d }
    let s := startStrand (mkStrand c 0)
      { pc := Config.supervisorEntry c &&& ~~~1, bases := [], stime := 0, domain := d, role := .lead } s
    let pair := c.panel / 2
    let s := if panelDelivered s (2 * pair) && panelDelivered s (2 * pair + 1) then
        withBoot (fun b => { b with bootst := b.bootst ||| BitVec.ofNat 32 (2 ^ (16 + pair)) }) s
      else s
    if (List.range 12).all (panelDelivered s) then startFirmware s else s
/-- SUPERVISOR_IMAGE_DELIVERED: core. -/
def execSupervisorImageDelivered (s : State) : Host.Outcome State Fault Refusal :=
  event (fun e s => imageDelivered e.core s) s

/-- Ten milliseconds of delivery have passed. -/
def deliveryLate (panel : Nat) (s : State) : State :=
  let b := s.package.boot
  if b.phase != .delivery || panelDelivered s panel then s
  else if s.deviceTime < b.since + 10000000 then s.post .deliveryTimeout { panel := panel }
  else bootStop 5 6 panel s
/-- DELIVERY_TIMEOUT: panel. -/
def execDeliveryTimeout (s : State) : Host.Outcome State Fault Refusal := event (fun e s => deliveryLate e.panel s) s

/-- The service firmware reports ready: stage 6 completes; a report 100 ms after its start, or later, comes too late (01 R24). -/
def firmwareReady (s : State) : State :=
  if s.package.boot.phase != .firmware || s.package.boot.since + 100000000 ≤ s.deviceTime then s
  else withBoot (fun b => { b with phase := .ready, bootst := b.bootst ||| 1 }) s
/-- FW_READY -/
def execFwReady (s : State) : Host.Outcome State Fault Refusal := event (fun _ s => firmwareReady s) s

/-- A hundred milliseconds have passed since the firmware started. -/
def firmwareLate (s : State) : State :=
  let b := s.package.boot
  if b.phase != .firmware then s
  else if s.deviceTime < b.since + 100000000 then s.post .fwStartTimeout {}
  else bootStop 6 7 0 s
/-- FW_START_TIMEOUT -/
def execFwStartTimeout (s : State) : Host.Outcome State Fault Refusal := event (fun _ s => firmwareLate s) s

/-! ## Recovery (01 R40) -/

/-- RSTAT error; nothing else changes: an operation in progress goes on. -/
def recoveryError (code : Nat) (s : State) : State := withBoot (fun b => { b with rstat := 3, rerr := BitVec.ofNat 8 code }) s
/-- A flash operation starts, over n bytes at RADDR: out of range is an error at once. DESIGN CHOICE (log 35): a WRITE or a READ while RLEN
is 0, its reset value, is in range and moves nothing. -/
def recoveryStart (cmd n : Nat) (s : State) : State :=
  if !bootStopped s then s
  else if recoveryBusy s then recoveryError 4 s
  else if Config.flashSize < s.package.boot.raddr.toNat + n then recoveryError 1 s
  else (withBoot (fun b => { b with rstat := 1, rerr := 0, rcmd := cmd }) s).post .recoveryCommandDone
    { ok := !Config.flashFails s.steps }
/-- RCMD_ERASE -/
def execRcmdErase (s : State) : Host.Outcome State Fault Refusal := event (fun _ s => recoveryStart 1 4096 s) s
/-- RCMD_WRITE -/
def execRcmdWrite (s : State) : Host.Outcome State Fault Refusal :=
  event (fun _ s => recoveryStart 2 s.package.boot.rlen.toNat s) s
/-- RCMD_READ -/
def execRcmdRead (s : State) : Host.Outcome State Fault Refusal :=
  event (fun _ s => recoveryStart 3 s.package.boot.rlen.toNat s) s

/-- The boot ROM restarts at stage 1; the flash stays. -/
def reboot (s : State) : State :=
  if !bootStopped s then s
  else if recoveryBusy s then recoveryError 4 s
  else (s.withPackage fun p => { p with boot := { flash := p.boot.flash } }).post .bootStart {}
/-- RCMD_REBOOT -/
def execRcmdReboot (s : State) : Host.Outcome State Fault Refusal := event (fun _ s => reboot s) s
/-- RCMD_INVALID -/
def execRcmdInvalid (s : State) : Host.Outcome State Fault Refusal :=
  event (fun _ s => if bootStopped s then recoveryError 4 s else s) s

/-- What ERASE leaves in its 4,096 bytes. -/
def erasedSector : List Byte := List.replicate 4096 Config.erasedByte

/-- The flash operation in progress ends. DESIGN CHOICE (log 35): it uses RADDR, RLEN and RBUF as they stand at its end. -/
def recoveryDone (ok : Bool) (s : State) : State :=
  let b := s.package.boot
  if !bootStopped s || b.rcmd = 0 then s
  else
    let a := b.raddr.toNat
    let n := b.rlen.toNat
    let done := fun (f : Boot → Boot) => withBoot (fun b => { f b with rstat := 2, rerr := 0, rcmd := 0 }) s
    let failed := fun (code : Nat) => recoveryError code (withBoot (fun b => { b with rcmd := 0 }) s)
    match b.rcmd with
    | 1 => if ok then done fun b => { b with flash := b.flash.setBytes a erasedSector } else failed 2
    | 2 => if ok then done fun b => { b with flash := b.flash.setBytes a (b.rbuf.bytes 0 n) } else failed 3
    | _ => done fun b => { b with rbuf := b.rbuf.setBytes 0 (b.flash.bytes a n) }
/-- RECOVERY_COMMAND_DONE: the flash operation has succeeded, or not. -/
def execRecoveryCommandDone (s : State) : Host.Outcome State Fault Refusal := event (fun e s => recoveryDone e.ok s) s

end Sys2Proof.Machine
end

