-- ==== Sys2Proof/Machine/Vector.lean ====
section
/-!
DEFINITION. Vector.lean: VARI, VBIT and VCMP (12 R274–R277): the operands read, the lane function applied to the
enabled lanes of A as it stood before the instruction, and the flags.
-/
namespace Sys2Proof.Machine

/-- The lanes that the guard of a format-V instruction enables. -/
def guardLanes (o : LaneOps) (x : Strand) : List Nat := pick (1024 / laneBits o.fmt) (laneGuard o x)
/-- An operand whose enabled lanes are read. -/
def lanesRead (o : LaneOps) (x : Strand) : Option (List Nat) := some (guardLanes o x)
/-- An operand that is not read. -/
def notRead (_ : LaneOps) (_ : Strand) : Option (List Nat) := none

/-- The operands of a format-V instruction read: a, then b (12 R269). -/
def operandsOf (o : LaneOps) (ra rb : LaneOps → Strand → Option (List Nat)) (k : StrandId) (x : Strand) :
    Act ((Nat → Nat) × (Nat → Nat)) := do
  let a ← match ra o x with
    | some l => stripLanes k x (laneBits o.fmt) o.pa l
    | none => pure fun _ => 0
  let b ← match rb o x with
    | some l => operandB k x o (laneBits o.fmt) l
    | none => pure fun _ => 0
  pure (a, b)

/-- What a format-V instruction makes of its strand and its operands. -/
abbrev LaneResult := Strand → (Nat → Nat) → (Nat → Nat) → List RegWrite

/-- A format-V instruction: its operands, then its result from both and the post-increments (12 R269–R271). -/
def laneBody (o : LaneOps) (ra rb : LaneOps → Strand → Option (List Nat)) (f : LaneResult) (x : Strand) : Act Effect := do
  let k := (← get).cur
  let v ← operandsOf o ra rb k x
  pure { ws := f x v.1 v.2 ++ laneBumps o x }

/-- A function of lanes of one width, into A (12 R275). -/
def mapResult (o : LaneOps) (sat : Bool) (rm : BitVec 2) (fn : LaneFn) : LaneResult := fun x a b =>
  let w := laneBits o.fmt
  resultWrites (mapLanes w (laneGuard o x) x.a fun i =>
    fn o.fmt sat (laneMode x rm w i) (lane w x.a i) (a i) (b i))
/-- The same as a body. -/
def mapBody (o : LaneOps) (ra rb : LaneOps → Strand → Option (List Nat)) (sat : Bool) (rm : BitVec 2) (fn : LaneFn) :
    Strand → Act Effect :=
  laneBody o ra rb (mapResult o sat rm fn)

/-- FMAL: the factor is lane 0 of A (12 R274). -/
def fmalResult (o : LaneOps) (sat : Bool) (rm : BitVec 2) : LaneResult := fun x _ b =>
  let w := laneBits o.fmt
  resultWrites (mapLanes w (laneGuard o x) x.a fun i =>
    laneFma o.fmt sat (laneMode x rm w i) (lane w x.a i) (lane w x.a 0) (b i))
/-- The same as a body. -/
def fmalBody (o : LaneOps) (sat : Bool) (rm : BitVec 2) : Strand → Act Effect :=
  laneBody o notRead lanesRead (fmalResult o sat rm)

/-- A compare into a mask (12 R277). -/
def cmpResult (kd : BitVec 2) (o : LaneOps) (rel : CmpFn) : LaneResult := fun x _ b =>
  let w := laneBits o.fmt
  let g := laneGuard o x
  let r := fun i => rel o.fmt (lane w x.a i) (b i)
  .k kd (cmpMask w g (x.k kd) fun i => (r i).1) :: flagWrite (orFlags (fun i => if g i then (r i).2 else 0) (1024 / w))
/-- The same as a body. -/
def cmpBody (kd : BitVec 2) (o : LaneOps) (rel : CmpFn) : Strand → Act Effect :=
  laneBody o notRead lanesRead (cmpResult kd o rel)

/-! ## VARI (12 R274) -/

/-- VARI.ADD -/
def execVariAdd (sat : Bool) (rm : BitVec 2) (o : LaneOps) (s : State) : Host.Outcome State Fault Refusal :=
  performNow (.variAdd sat rm o) (mapBody o notRead lanesRead sat rm laneAdd) s
/-- VARI.SUB -/
def execVariSub (sat : Bool) (rm : BitVec 2) (o : LaneOps) (s : State) : Host.Outcome State Fault Refusal :=
  performNow (.variSub sat rm o) (mapBody o notRead lanesRead sat rm laneSub) s
/-- VARI.RSUB -/
def execVariRsub (sat : Bool) (rm : BitVec 2) (o : LaneOps) (s : State) : Host.Outcome State Fault Refusal :=
  performNow (.variRsub sat rm o) (mapBody o notRead lanesRead sat rm laneRsub) s
/-- VARI.MUL -/
def execVariMul (sat : Bool) (rm : BitVec 2) (o : LaneOps) (s : State) : Host.Outcome State Fault Refusal :=
  performNow (.variMul sat rm o) (mapBody o notRead lanesRead sat rm laneMul) s
/-- VARI.FMA -/
def execVariFma (sat : Bool) (rm : BitVec 2) (o : LaneOps) (s : State) : Host.Outcome State Fault Refusal :=
  performNow (.variFma sat rm o) (mapBody o lanesRead lanesRead sat rm laneFma) s
/-- VARI.FMS -/
def execVariFms (sat : Bool) (rm : BitVec 2) (o : LaneOps) (s : State) : Host.Outcome State Fault Refusal :=
  performNow (.variFms sat rm o) (mapBody o lanesRead lanesRead sat rm laneFms) s
/-- VARI.FMAL -/
def execVariFmal (sat : Bool) (rm : BitVec 2) (o : LaneOps) (s : State) : Host.Outcome State Fault Refusal :=
  performNow (.variFmal sat rm o) (fmalBody o sat rm) s
/-- VARI.MIN -/
def execVariMin (sat : Bool) (rm : BitVec 2) (o : LaneOps) (s : State) : Host.Outcome State Fault Refusal :=
  performNow (.variMin sat rm o) (mapBody o notRead lanesRead sat rm laneMin) s
/-- VARI.MAX -/
def execVariMax (sat : Bool) (rm : BitVec 2) (o : LaneOps) (s : State) : Host.Outcome State Fault Refusal :=
  performNow (.variMax sat rm o) (mapBody o notRead lanesRead sat rm laneMax) s
/-- VARI.DIV -/
def execVariDiv (sat : Bool) (rm : BitVec 2) (o : LaneOps) (s : State) : Host.Outcome State Fault Refusal :=
  performNow (.variDiv sat rm o) (mapBody o notRead lanesRead sat rm laneDiv) s
/-- VARI.SQRT -/
def execVariSqrt (sat : Bool) (rm : BitVec 2) (o : LaneOps) (s : State) : Host.Outcome State Fault Refusal :=
  performNow (.variSqrt sat rm o) (mapBody o notRead lanesRead sat rm laneSqrt) s
/-- VARI.ABS -/
def execVariAbs (sat : Bool) (rm : BitVec 2) (o : LaneOps) (s : State) : Host.Outcome State Fault Refusal :=
  performNow (.variAbs sat rm o) (mapBody o notRead notRead sat rm laneAbs) s
/-- VARI.NEG -/
def execVariNeg (sat : Bool) (rm : BitVec 2) (o : LaneOps) (s : State) : Host.Outcome State Fault Refusal :=
  performNow (.variNeg sat rm o) (mapBody o notRead notRead sat rm laneNeg) s
/-- VARI.MOV -/
def execVariMov (sat : Bool) (rm : BitVec 2) (o : LaneOps) (s : State) : Host.Outcome State Fault Refusal :=
  performNow (.variMov sat rm o) (mapBody o notRead lanesRead sat rm laneMov) s
/-- VARI.MULH -/
def execVariMulh (sat : Bool) (rm : BitVec 2) (o : LaneOps) (s : State) : Host.Outcome State Fault Refusal :=
  performNow (.variMulh sat rm o) (mapBody o notRead lanesRead sat rm laneMulh) s
/-- VARI.CPYSGN -/
def execVariCpysgn (sat : Bool) (rm : BitVec 2) (o : LaneOps) (s : State) : Host.Outcome State Fault Refusal :=
  performNow (.variCpysgn sat rm o) (mapBody o notRead lanesRead sat rm laneCpysgn) s

/-! ## VBIT (12 R276) -/

/-- VBIT.AND -/
def execVbitAnd (o : LaneOps) (s : State) : Host.Outcome State Fault Refusal :=
  performNow (.vbitAnd o) (mapBody o notRead lanesRead false 0 laneAnd) s
/-- VBIT.OR -/
def execVbitOr (o : LaneOps) (s : State) : Host.Outcome State Fault Refusal :=
  performNow (.vbitOr o) (mapBody o notRead lanesRead false 0 laneOr) s
/-- VBIT.XOR -/
def execVbitXor (o : LaneOps) (s : State) : Host.Outcome State Fault Refusal :=
  performNow (.vbitXor o) (mapBody o notRead lanesRead false 0 laneXor) s
/-- VBIT.ANDN -/
def execVbitAndn (o : LaneOps) (s : State) : Host.Outcome State Fault Refusal :=
  performNow (.vbitAndn o) (mapBody o notRead lanesRead false 0 laneAndn) s
/-- VBIT.SHL -/
def execVbitShl (o : LaneOps) (s : State) : Host.Outcome State Fault Refusal :=
  performNow (.vbitShl o) (mapBody o notRead lanesRead false 0 laneShl) s
/-- VBIT.SHR -/
def execVbitShr (o : LaneOps) (s : State) : Host.Outcome State Fault Refusal :=
  performNow (.vbitShr o) (mapBody o notRead lanesRead false 0 laneShr) s
/-- VBIT.SHRA -/
def execVbitShra (o : LaneOps) (s : State) : Host.Outcome State Fault Refusal :=
  performNow (.vbitShra o) (mapBody o notRead lanesRead false 0 laneShra) s
/-- VBIT.ROL -/
def execVbitRol (o : LaneOps) (s : State) : Host.Outcome State Fault Refusal :=
  performNow (.vbitRol o) (mapBody o notRead lanesRead false 0 laneRol) s
/-- VBIT.NOT -/
def execVbitNot (o : LaneOps) (s : State) : Host.Outcome State Fault Refusal :=
  performNow (.vbitNot o) (mapBody o notRead notRead false 0 laneNot) s
/-- VBIT.POPC -/
def execVbitPopc (o : LaneOps) (s : State) : Host.Outcome State Fault Refusal :=
  performNow (.vbitPopc o) (mapBody o notRead notRead false 0 lanePopc) s
/-- VBIT.CLZ -/
def execVbitClz (o : LaneOps) (s : State) : Host.Outcome State Fault Refusal :=
  performNow (.vbitClz o) (mapBody o notRead notRead false 0 laneClz) s

/-! ## VCMP (12 R277) -/

/-- VCMP.EQ -/
def execVcmpEq (kd : BitVec 2) (o : LaneOps) (s : State) : Host.Outcome State Fault Refusal :=
  performNow (.vcmpEq kd o) (cmpBody kd o cmpEq) s
/-- VCMP.NE -/
def execVcmpNe (kd : BitVec 2) (o : LaneOps) (s : State) : Host.Outcome State Fault Refusal :=
  performNow (.vcmpNe kd o) (cmpBody kd o cmpNe) s
/-- VCMP.LT -/
def execVcmpLt (kd : BitVec 2) (o : LaneOps) (s : State) : Host.Outcome State Fault Refusal :=
  performNow (.vcmpLt kd o) (cmpBody kd o cmpLt) s
/-- VCMP.LE -/
def execVcmpLe (kd : BitVec 2) (o : LaneOps) (s : State) : Host.Outcome State Fault Refusal :=
  performNow (.vcmpLe kd o) (cmpBody kd o cmpLe) s
/-- VCMP.GT -/
def execVcmpGt (kd : BitVec 2) (o : LaneOps) (s : State) : Host.Outcome State Fault Refusal :=
  performNow (.vcmpGt kd o) (cmpBody kd o cmpGt) s
/-- VCMP.GE -/
def execVcmpGe (kd : BitVec 2) (o : LaneOps) (s : State) : Host.Outcome State Fault Refusal :=
  performNow (.vcmpGe kd o) (cmpBody kd o cmpGe) s
/-- VCMP.UN -/
def execVcmpUn (kd : BitVec 2) (o : LaneOps) (s : State) : Host.Outcome State Fault Refusal :=
  performNow (.vcmpUn kd o) (cmpBody kd o cmpUn) s
/-- VCMP.LTU -/
def execVcmpLtu (kd : BitVec 2) (o : LaneOps) (s : State) : Host.Outcome State Fault Refusal :=
  performNow (.vcmpLtu kd o) (cmpBody kd o cmpLtu) s
/-- VCMP.LEU -/
def execVcmpLeu (kd : BitVec 2) (o : LaneOps) (s : State) : Host.Outcome State Fault Refusal :=
  performNow (.vcmpLeu kd o) (cmpBody kd o cmpLeu) s
/-- VCMP.GTU -/
def execVcmpGtu (kd : BitVec 2) (o : LaneOps) (s : State) : Host.Outcome State Fault Refusal :=
  performNow (.vcmpGtu kd o) (cmpBody kd o cmpGtu) s
/-- VCMP.GEU -/
def execVcmpGeu (kd : BitVec 2) (o : LaneOps) (s : State) : Host.Outcome State Fault Refusal :=
  performNow (.vcmpGeu kd o) (cmpBody kd o cmpGeu) s

end Sys2Proof.Machine
end

