-- ==== Sys2Proof/Machine/Convert.lean ====
section
/-!
DEFINITION. Convert.lean: VCVT (12 R278–R280).
-/
namespace Sys2Proof.Machine

/-- A conversion of A into target elements of width wt (12 R278): f converts a source lane under a mode. -/
def cvtResult (o : LaneOps) (wt : Nat) (rm : BitVec 2) (f : Rm → Nat → Nat × Nat) : LaneResult := fun x _ _ =>
  resultWrites (convertLanes (laneBits o.fmt) wt (laneGuard o x) x.a fun i v => f (laneMode x rm wt i) v)
/-- The same as a body. -/
def cvtBody (o : LaneOps) (wt : Nat) (rm : BitVec 2) (f : Rm → Nat → Nat × Nat) : Strand → Act Effect :=
  laneBody o notRead notRead (cvtResult o wt rm f)

/-- A conversion of packed elements of width ws into fmt, exact and without flags (12 R279, fn 12–14). -/
def fromResult (o : LaneOps) (ws : Nat) (src : FFmt) : LaneResult := fun x _ _ =>
  resultWrites (convertLanes ws (laneBits o.fmt) (laneGuard o x) x.a fun _ v => (cvtFrom src o.fmt v, 0))
/-- The same as a body. -/
def fromBody (o : LaneOps) (ws : Nat) (src : FFmt) : Strand → Act Effect :=
  laneBody o notRead notRead (fromResult o ws src)

/-- A conversion through skein pa with its bound policy (12 R280). -/
def tskBody (sat : Bool) (rm : BitVec 2) (o : LaneOps) (x : Strand) : Act Effect := do
  let s ← get
  let sk := skeinSeen s s.cur o.pa.toNat
  match tsk sk o.fmt sat (codeOf rm x.fpctl) (x.drow.toNat % 65536) (laneGuard o x) x.a with
  | .ok a fl => pure { ws := resultWrites (a, fl) }
  | .bound => trapHere x Cause.bound
  | .invalid => trapHere x Cause.skeinInvalid

/-- VCVT.TI64 -/
def execVcvtTi64 (sat : Bool) (rm : BitVec 2) (o : LaneOps) (s : State) : Host.Outcome State Fault Refusal :=
  performNow (.vcvtTi64 sat rm o) (cvtBody o 64 rm fun m v => cvtInt 64 o.fmt sat m v) s
/-- VCVT.TI32 -/
def execVcvtTi32 (sat : Bool) (rm : BitVec 2) (o : LaneOps) (s : State) : Host.Outcome State Fault Refusal :=
  performNow (.vcvtTi32 sat rm o) (cvtBody o 32 rm fun m v => cvtInt 32 o.fmt sat m v) s
/-- VCVT.TI16 -/
def execVcvtTi16 (sat : Bool) (rm : BitVec 2) (o : LaneOps) (s : State) : Host.Outcome State Fault Refusal :=
  performNow (.vcvtTi16 sat rm o) (cvtBody o 16 rm fun m v => cvtInt 16 o.fmt sat m v) s
/-- VCVT.TI8 -/
def execVcvtTi8 (sat : Bool) (rm : BitVec 2) (o : LaneOps) (s : State) : Host.Outcome State Fault Refusal :=
  performNow (.vcvtTi8 sat rm o) (cvtBody o 8 rm fun m v => cvtInt 8 o.fmt sat m v) s
/-- VCVT.TF64 -/
def execVcvtTf64 (sat : Bool) (rm : BitVec 2) (o : LaneOps) (s : State) : Host.Outcome State Fault Refusal :=
  performNow (.vcvtTf64 sat rm o) (cvtBody o 64 rm fun m v => cvtFloat f64 o.fmt m v) s
/-- VCVT.TF32 -/
def execVcvtTf32 (sat : Bool) (rm : BitVec 2) (o : LaneOps) (s : State) : Host.Outcome State Fault Refusal :=
  performNow (.vcvtTf32 sat rm o) (cvtBody o 32 rm fun m v => cvtFloat f32 o.fmt m v) s
/-- VCVT.TBF16 -/
def execVcvtTbf16 (sat : Bool) (rm : BitVec 2) (o : LaneOps) (s : State) : Host.Outcome State Fault Refusal :=
  performNow (.vcvtTbf16 sat rm o) (cvtBody o 16 rm fun m v => cvtFloat bf16 o.fmt m v) s
/-- VCVT.TF16 -/
def execVcvtTf16 (sat : Bool) (rm : BitVec 2) (o : LaneOps) (s : State) : Host.Outcome State Fault Refusal :=
  performNow (.vcvtTf16 sat rm o) (cvtBody o 16 rm fun m v => cvtFloat f16 o.fmt m v) s
/-- VCVT.TE4M3 (09 R209) -/
def execVcvtTe4m3 (sat : Bool) (rm : BitVec 2) (o : LaneOps) (s : State) : Host.Outcome State Fault Refusal :=
  performNow (.vcvtTe4m3 sat rm o) (cvtBody o 8 rm fun m v => narrow e4m3 m sat (fval o.fmt v)) s
/-- VCVT.TE5M2 (09 R209) -/
def execVcvtTe5m2 (sat : Bool) (rm : BitVec 2) (o : LaneOps) (s : State) : Host.Outcome State Fault Refusal :=
  performNow (.vcvtTe5m2 sat rm o) (cvtBody o 8 rm fun m v => narrow e5m2 m sat (fval o.fmt v)) s
/-- VCVT.TE2M1 (09 R209) -/
def execVcvtTe2m1 (sat : Bool) (rm : BitVec 2) (o : LaneOps) (s : State) : Host.Outcome State Fault Refusal :=
  performNow (.vcvtTe2m1 sat rm o) (cvtBody o 4 rm fun m v => narrow e2m1 m sat (fval o.fmt v)) s
/-- VCVT.TSK -/
def execVcvtTsk (sat : Bool) (rm : BitVec 2) (o : LaneOps) (s : State) : Host.Outcome State Fault Refusal :=
  performNow (.vcvtTsk sat rm o) (tskBody sat rm o) s
/-- VCVT.FE4M3 -/
def execVcvtFe4m3 (o : LaneOps) (s : State) : Host.Outcome State Fault Refusal :=
  performNow (.vcvtFe4m3 o) (fromBody o 8 e4m3) s
/-- VCVT.FE5M2 -/
def execVcvtFe5m2 (o : LaneOps) (s : State) : Host.Outcome State Fault Refusal :=
  performNow (.vcvtFe5m2 o) (fromBody o 8 e5m2) s
/-- VCVT.FE2M1 -/
def execVcvtFe2m1 (o : LaneOps) (s : State) : Host.Outcome State Fault Refusal :=
  performNow (.vcvtFe2m1 o) (fromBody o 4 e2m1) s

end Sys2Proof.Machine
end

