-- ==== Sys2Proof/Machine/Packets.lean ====
section
/-!
DEFINITION. Packets.lean: packets at their cores (06 R150–R154), handlers (R152), strands that go on (R146; 11 R267;
14 R319; 10 R233) and replies of the pager (07 R176).
-/
namespace Sys2Proof.Machine

/-! ## Mailboxes (06 R150, R151) -/

/-- The binding of a tag. -/
def bindingOf (x : Core) (tag : BitVec 8) : Option Binding := x.bindings.find? fun b => b.tag == tag

/-- The reservation rule accepts a packet: free slots and slots its QUOTA allows, against the listed ones ahead of it. -/
def roomFor (x : Core) (b : Binding) (p : Packet) : Bool :=
  let mine := fun (e : BitVec 32 × BitVec 8 × Nat) => e.1 == p.source && e.2.1 == p.pair.2
  let ahead := x.reservations.takeWhile fun e => !mine e
  let free := 64 - x.mailbox.length
  let quota := b.quota - (x.mailbox.filter fun q => q.pair.2 == b.tag).length
  decide (ahead.length < free) && decide ((ahead.filter fun e => e.2.1 == b.tag).length < quota)

/-- The reservation list after a refusal at a time. -/
def listRefused (now : Nat) (p : Packet) (l : List (BitVec 32 × BitVec 8 × Nat)) : List (BitVec 32 × BitVec 8 × Nat) :=
  let mine := fun (e : BitVec 32 × BitVec 8 × Nat) => e.1 == p.source && e.2.1 == p.pair.2
  if l.any mine then l.map fun e => if mine e then (e.1, e.2.1, now) else e
  else if l.length < 4 then l ++ [(p.source, p.pair.2, now)]
  else l

/-- The outcome of a packet at its core: 0 accepted, 1 refused, by a QUIET core (04 R119) or for want of room, 2 UNBOUND or
FOREIGN, 3 sealed. -/
def decidePacket (x : Core) (p : Packet) : Nat :=
  if x.gone || x.isSealed then 3
  else
    match bindingOf x p.pair.2 with
    | none => 2
    | some b =>
      if p.domain != b.domain && !p.trusted then 2
      else if x.status == .quiet then 1
      else if roomFor x b p then 0
      else 1

/-- An answer on its way back. -/
def answerPacket (p : Packet) (outcome : Nat) (s : State) : State :=
  let p := { p with outcome := some outcome }
  let s := { s with packets := putId Packet.id s.packets p }
  if outcome = 1 then
    ({ s with packets := putId Packet.id s.packets
                { p with outcome := none, refusals := p.refusals + 1, refusedAt := s.deviceTime } } : State).post
      .packetRetry { id := p.id }
  else s.post .packetReply { id := p.id }

/-- A packet decided at its core; a refused one is listed, or its entry's time renewed (06 R151). -/
def packetAt (c : CoreId) (p : Packet) (s : State) : State :=
  let x := s.core c
  let outcome := decidePacket x p
  let mine := fun (e : BitVec 32 × BitVec 8 × Nat) => e.1 == p.source && e.2.1 == p.pair.2
  let s :=
    if outcome = 0 then
      let s := s.setCore c { x with mailbox := x.mailbox ++ [p], reservations := x.reservations.filter fun e => !mine e }
      match bindingOf x p.pair.2 with
      | some b =>
        if b.kind == 2 then wakeAll 0 (c * 8 + b.chan.toNat) (fun _ => true) none s else s.post .handlerStart { core := c }
      | none => s
    else if outcome = 1 then
      let s := s.setCore c { x with reservations := listRefused s.deviceTime p x.reservations }
      if x.reservations.isEmpty then s.post .reservationExpire { core := c } else s
    else s
  answerPacket p outcome s

/-- A packet reaches the core its route word names, or another package, whose answer is open (log 8). DESIGN CHOICE (log 17): where no
link takes it (01 R38) it ends UNDELIVERED. -/
def packetArrives (id : Nat) (s : State) : State :=
  match findId Packet.id s.packets id with
  | none => s
  | some p =>
    if !p.outstanding || p.outcome.isSome then s
    else
      match route s true p.route with
      | .core c _ => packetAt c p s
      | _ => answerPacket p (if (upLink s).isNone then 2 else (Config.freeValue s.steps).toNat % 4) s
/-- PACKET_ARRIVAL: packet id reaches its core. -/
def execPacketArrival (s : State) : Host.Outcome State Fault Refusal := event (fun e s => packetArrives e.id s) s

/-- A refused packet is sent again, after its back-off (log 4). -/
def packetAgain (id : Nat) (s : State) : State :=
  match findId Packet.id s.packets id with
  | some p => if p.outstanding && p.outcome.isNone then packetOut p s else s
  | none => s
/-- PACKET_RETRY: packet id is sent again. -/
def execPacketRetry (s : State) : Host.Outcome State Fault Refusal := event (fun e s => packetAgain e.id s) s

/-- The answer of a packet reaches its sender: its flags are raised, its buffer is free, and the next packet of its pair
goes out (06 R154; 14 R324; 05 R134). -/
def packetAnswered (id : Nat) (s : State) : State :=
  match findId Packet.id s.packets id with
  | none => s
  | some p =>
    match p.outcome with
    | none => s
    | some o =>
      let s := { s with packets := dropId Packet.id s.packets id }
      let flag := if o = 2 then Flag.undelivered else if o = 3 then Flag.sealed else 0
      let s := match p.sender with
        | some k =>
          let x := s.strand k
          wakeAll 8 k (fun _ => true) none (s.setStrand k { x with sst := x.sst ||| BitVec.ofNat 64 flag })
        | none => s
      match s.packets.find? fun q => q.pair == p.pair with
      | some q =>
        packetOut q { s with packets := putId Packet.id s.packets { q with outstanding := true } }
      | none => s
/-- PACKET_REPLY: the answer of packet id. -/
def execPacketReply (s : State) : Host.Outcome State Fault Refusal := event (fun e s => packetAnswered e.id s) s

/-- Entries not retried within 65,536 router cycles of 1/2.4 ns leave the list. -/
def expireReservations (c : CoreId) (s : State) : State :=
  let x := s.core c
  let l := x.reservations.filter fun e => decide ((s.deviceTime - e.2.2) * 12 ≤ 65536 * 5)
  let s := s.setCore c { x with reservations := l }
  if l.isEmpty then s else s.post .reservationExpire { core := c }
/-- RESERVATION_EXPIRE: the list of core. -/
def execReservationExpire (s : State) : Host.Outcome State Fault Refusal := event (fun e s => expireReservations e.core s) s

/-! ## Handlers (06 R152, R140) -/

/-- The trace entry of the start of a packet's handler (04 R113); a firmware domain counts as tenant 0 (log 14). -/
def handlerEntry (s : State) (x : Core) (b : Binding) (p : Packet) : BitVec 128 :=
  let n := ((x.trCounts.find? fun e => e.1 == p.source && e.2.1 == b.tag).map fun e => e.2.2).getD 0
  traceWord 2 ((tenantOf s b.domain).getD 0) 0 b.tag.toNat p.source.toNat n

/-- The handler of an accepted packet may start on helper h. -/
def mayStart (s : State) (c : CoreId) (h : StrandId) (b : Binding) (p : Packet) : Bool :=
  let x := s.core c
  let tenant := tenantOf s b.domain
  b.kind == 1 && !handlerLive s c b.tag && !x.startWaits && (x.status == .idle || x.status == .running) &&
    !slotsHeld s c h.num && traceAllows s c (handlerEntry s x b p) &&
    (match tenant with | some t => !x.savedTenants.contains t | none => true) &&
    (b.domain == x.domain || (noStrand s c && x.active.isNone))

/-- The first accepted packet whose handler may start, with its binding. -/
def nextHandler (s : State) (c : CoreId) (h : StrandId) : Option (Packet × Binding) :=
  (s.core c).mailbox.findSome? fun p =>
    match bindingOf (s.core c) p.pair.2 with
    | some b => if mayStart s c h b p then some (p, b) else none
    | none => none

/-- The packets from a source to a tag counted one more. -/
def countTrace (p : Packet) (l : List (BitVec 32 × BitVec 8 × Nat)) : List (BitVec 32 × BitVec 8 × Nat) :=
  let mine := fun (e : BitVec 32 × BitVec 8 × Nat) => e.1 == p.source && e.2.1 == p.pair.2
  if l.any mine then l.map fun e => if mine e then (e.1, e.2.1, e.2.2 + 1) else e else l ++ [(p.source, p.pair.2, 1)]

/-- The oldest packet whose handler may start starts it, on the lowest-numbered FREE helper. -/
def startHandler (c : CoreId) (s : State) : State :=
  match freeHelper s c with
  | none => s
  | some h =>
    match nextHandler s c h with
    | none => s
    | some (p, b) =>
      if !p.bad.isEmpty then killCore c 1 s
      else if traceHeld s c (handlerEntry s (s.core c) b p) then
        (traceQueue c (handlerEntry s (s.core c) b p) s).post .handlerStart { core := c }
      else
        let entry := handlerEntry s (s.core c) b p
        let s := if noStrand s c then enterDomain c b.domain s else s
        let x := s.core c
        let s := s.setCore c (Core.freeClosed { x with
          mailbox := x.mailbox.filter fun q => q.id != p.id
          trCounts := if x.trmode == 0 then x.trCounts else countTrace p x.trCounts })
        let s := startStrand h
          { pc := b.entry
            bases := [p.source.setWidth 64, p.time, b.tag.setWidth 64, BitVec.ofNat 64 p.payload.length]
            a := ofStripBytes p.payload
            stime := p.time
            domain := b.domain
            role := .handler b.tag } (acquire c s)
        let s := traced c entry s
        if (s.core c).mailbox.isEmpty then s else s.post .handlerStart { core := c }
/-- HANDLER_START: the mailbox of core. -/
def execHandlerStart (s : State) : Host.Outcome State Fault Refusal := event (fun e s => startHandler e.core s) s

/-! ## Strands that go on -/

/-- The waits whose wake is an acquire (06 R145). -/
def wakeAcquires (kind : Nat) : Bool := decide (kind < 4) || kind == 6

/-- The fault of a fixed-mode strand whose wait joins a deposit that lies 2^17 generations off (08 R198). -/
def wakeFault (k : StrandId) (s : State) : Option FaultInfo :=
  let x := s.strand k
  match x.deposit with
  | some d =>
    if x.isFixed && (joinHorizon (horizon s k) d).isNone then
      some { cause := BitVec.ofNat 8 Cause.fixedWrap, addr := x.waitPc }
    else none
  | none => none
/-- The deposit of a fixed-mode strand's wait joined, where it can be (08 R198). -/
def wakeJoin (k : StrandId) (s : State) : State :=
  let x := s.strand k
  match x.deposit with
  | some d =>
    match (if x.isFixed then joinHorizon (horizon s k) d else none) with
    | some h => setHorizon s k h
    | none => s
  | none => s
/-- A pending instruction that waited for its object completes (06 R145), or faults. -/
def Pending.woken (f : Option FaultInfo) (p : Pending) : Pending :=
  match p.state with
  | .waits ws => { p with state := match f with | some f => .faulted f | none => .done ws }
  | _ => p
/-- The fault of a wake is the waiting instruction's (10 R236): where it is pending, it faults in its turn; where the wait came
back from a save, the fault follows those kept before it, or meets the handler that runs. -/
def wakeOutcome (k : StrandId) (f : Option FaultInfo) (s : State) : State :=
  let x := s.strand k
  let waited := x.pending.any fun p => match p.state with | .waits _ => true | _ => false
  match f with
  | some f =>
    if waited then commit k (s.setStrand k { x with pending := x.pending.map (Pending.woken (some f)) })
    else if x.xin then takeTrap k f x.waitPc x.waitParcels x.pc s
    else
      commit k (s.setStrand k { x with
        faults := (x.faults ++ [({ fault := f, pc := x.waitPc, parcels := x.waitParcels } : PendFault)]).take 15 })
  | none => commit k (s.setStrand k { x with pending := x.pending.map (Pending.woken none) })

/-- A strand whose condition has come true is re-inserted; a fixed-mode wait joins its deposit (06 R145, R146; 08 R198). -/
def wakeStrand (k : StrandId) (s : State) : State :=
  let x := s.strand k
  let s := if wakeAcquires (x.wait.code k).1 then acquire k.core s else s
  let f := wakeFault k s
  let s := wakeJoin k s
  let s := s.setStrand k { x with
    state := if x.state == .stopped then .stopped else .ready
    stoppedFrom := .ready, wait := .nothing, satisfied := false, deposit := none }
  wakeOutcome k f s

/-- A strand marked at an object. -/
def markedAt (kind obj : Nat) (s : State) (k : StrandId) : Bool :=
  (s.strand k).waits && (s.strand k).satisfied && (s.strand k).wait.code k == (kind, obj)
/-- The strands marked at an object go on; those of a core whose clock stands do so once it runs (05 R125). -/
def wakeObject (kind obj : Nat) (s : State) : State :=
  let s := s.strands.foldl (fun s e =>
    if markedAt kind obj s e.1 && !stands (s.core (StrandId.core e.1)) then wakeStrand e.1 s else s) s
  if s.strands.any fun e => markedAt kind obj s e.1 then s.post .strandWake { a := kind, b := obj } else s
/-- STRAND_WAKE: object b of kind a (06 R145). -/
def execStrandWake (s : State) : Host.Outcome State Fault Refusal := event (fun e s => wakeObject e.a e.b s) s

/-- A pause ends. -/
def endPause (k : StrandId) (s : State) : State := enlist k (s.setStrand k { s.strand k with paused := false })
/-- PAUSE_END: the pause of strand. -/
def execPauseEnd (s : State) : Host.Outcome State Fault Refusal := event (fun e s => endPause e.strand s) s
/-- A yield ends. -/
def endYield (k : StrandId) (s : State) : State := enlist k (s.setStrand k { s.strand k with yielded := false })
/-- YIELD_END: the yield of strand. -/
def execYieldEnd (s : State) : Host.Outcome State Fault Refusal := event (fun e s => endYield e.strand s) s

/-- What strand has pending commits; a is 1 where its next instruction is held, so that every window ends (10 R233). -/
def execLookaheadCommit (s : State) : Host.Outcome State Fault Refusal :=
  event (fun e s =>
    let s := settleLasting e.strand (matrixNext e.strand.core s)
    commit e.strand (if e.a = 1 then endWindows e.strand s else s)) s

/-! ## Replies of the pager (07 R176) -/

/-- CODE: 0 retry, 1 deliver-trap, 2 terminate. -/
def replyCode (v : W64) : Nat := min (v.toNat / 2 ^ 62) 2
/-- CAUSE, as a trap holds it. -/
def replyCause (v : W64) : BitVec 8 := v.extractLsb' 48 8
/-- SEQ -/
def replySeq (v : W64) : BitVec 32 := v.setWidth 32

/-- The strand is parked on the pager for the fault that a reply answers. -/
def strandParked (x : Strand) (v : W64) : Bool := x.parked.isSome && x.wait == .pager && x.parkedSeq == replySeq v
/-- The reply taken into RPLY; the strand is READY. -/
def unpark (k : StrandId) (v : W64) (s : State) : State :=
  let x := s.strand k
  s.setStrand k { x with
    rply := v, parked := none, wait := .nothing, satisfied := false
    state := if x.state == .waiting then .ready else x.state
    stoppedFrom := if x.stoppedFrom == .waiting then .ready else x.stoppedFrom }

/-- What a table of queues lists nowhere. -/
def noQueue : Queue := { header := 0, panel := 0, consumer := 0 }
/-- Queue n of a tenant. -/
def queueAt (s : State) (tenant n : Nat) : Queue := Table.get noQueue (s.tenant tenant).queues n
/-- Queue n of a tenant written. -/
def setQueue (tenant n : Nat) (q : Queue) (s : State) : State :=
  let x := s.tenant tenant
  s.setTenant tenant { x with queues := Table.set noQueue x.queues n q }
/-- The engine of a copy queue looks at it. -/
def lookAtQueue (tenant n : Nat) (s : State) : State :=
  s.post .copySlotRead { panel := (queueAt s tenant n).panel, tenant := tenant, a := n }
/-- READ of a copy queue is written as the slots consumed leave it, once its header can be had (14 R327). -/
def copyReadSync (tenant n : Nat) (place : Place) (read : Nat) (s : State) : State :=
  let q := queueAt s tenant n
  let next := q.nextSlot
  if read == next || slotWaits s place (toBytes 8 next) then s
  else headerWrite q.panel q.header place ((toBytes 8 next).zipIdx.map fun b => (16 + b.2, b.1)) s
/-- A slot of a copy queue consumed (14 R327): READ advances as the engine consumes. -/
def consumeCopy (tenant n : Nat) (s : State) : State :=
  let q := queueAt s tenant n
  let s := setQueue tenant n { q with nextSlot := q.nextSlot + 1, parked := none } s
  lookAtQueue tenant n (match headerAt q.panel tenant q.header s with
    | (.ok (place, h), s) => copyReadSync tenant n place h.read s
    | (.error _, s) => s)
/-- The address of the slot that a copy queue reads next; that of a parked read is known. -/
def copySlotAddr (tenant n : Nat) (s : State) : Nat :=
  let q := queueAt s tenant n
  match q.parked with
  | some f => f.addr.toNat
  | none =>
    match headerAt q.panel tenant q.header s with
    | (.ok (_, h), _) => (h.base + q.nextSlot % h.cap * 64) % 2 ^ 64
    | (.error _, _) => 0
/-- COPY_FAULT (03 R93). -/
def copyFault (tenant panel engine reason slotVa : Nat) (s : State) : State :=
  postEvent s (some tenant) (srcEngine panel engine) 11
    [(24, 1, panel), (25, 1, engine), (26, 1, reason), (32, 8, slotVa)]
/-- A slot consumed unread, with COPY_FAULT of this reason. -/
def consumeFailed (tenant n reason : Nat) (s : State) : State :=
  let q := queueAt s tenant n
  let va := copySlotAddr tenant n s
  let s := { s with copyJobs := s.copyJobs.filter fun j =>
    !(j.tenant == tenant && j.queue == n && j.slotAddr == q.nextSlot && j.stage == 4) }
  consumeCopy tenant n (copyFault tenant q.panel (q.consumer - 1) reason va s)

/-- ERROR TERMINATED of an edge engine. DEDUCED (log 46): 03 R94 gives it an operand, so a terminate of an engine posts it,
beside COPY_FAULT with reason PAGE (07 R176). -/
def engineTerminated (v : W64) (tenant panel engine : Nat) (f : Option PagerInfo) (s : State) : State :=
  if replyCode v = 2 then
    postEvent s (some tenant) (srcEngine panel engine) 12
      [(24, 4, 2), (32, 1, panel), (33, 1, 196 + engine), (40, 8, (f.map fun g => g.addr.toNat).getD 0)]
  else s
/-- The pager's answer for an engine's packet or slot: retry, or reason PAGE. -/
def engineReply (p : Party) (v : W64) (s : State) : State :=
  match p with
  | .packet _ _ id =>
    match findId CopyJob.id s.copyJobs id with
    | some j =>
      if j.stage != 1 || j.parkedSeq != replySeq v then s
      else if replyCode v = 0 then
        ({ s with copyJobs := putId CopyJob.id s.copyJobs { j with stage := 0, parked := none } } : State).post
          (packetEvent (recBits j.word 0 8)) { id := id }
      else
        let s := engineTerminated v j.tenant j.panel j.engine j.parked s
        ({ s with copyJobs := putId CopyJob.id s.copyJobs { j with stage := 3, parked := none, reason := 4 } } : State).post
          .copyPacketComplete { id := id }
    | none => s
  | .slot tenant n =>
    let q := queueAt s tenant n
    if q.parked.isNone || q.parkedSeq != replySeq v then s
    else if replyCode v = 0 then lookAtQueue tenant n (setQueue tenant n { q with parked := none } s)
    else consumeFailed tenant n 4 (engineTerminated v tenant q.panel (q.consumer - 1) q.parked s)
  | _ => s

/-- The matrix unit is parked on the pager for the fault that a reply answers. -/
def matrixParked (x : Core) (v : W64) : Bool := x.mparked.isSome && x.mparkedSeq == replySeq v

/-- Retry: the access runs again from its PLB lookup. -/
def replyRetry (p : Party) (v : W64) (s : State) : State :=
  match p with
  | .strand k => if strandParked (s.strand k) v then enlist k (unpark k v s) else s
  | .matrix c =>
    let x := s.core c
    match x.active with
    | some m =>
      if matrixParked x v then (s.setCore c { x with mparked := none }).post (matrixEvent (cmdOpc m.word)) { core := c } else s
    | none => s
  | p => engineReply p v s
/-- PAGER_RETRY: reply v for party. -/
def execPagerRetry (s : State) : Host.Outcome State Fault Refusal :=
  event (fun e s => if replyCode e.v = 0 then replyRetry e.party e.v s else s) s

/-- Deliver-trap: the trap at the faulting instruction; a matrix unit stops with the cause. -/
def replyTrap (p : Party) (v : W64) (s : State) : State :=
  match p with
  | .strand k =>
    let x := s.strand k
    match x.parked with
    | some f =>
      if strandParked x v then
        let r := x.redo.getD { pc := x.pc, resume := x.pc }
        let s := unpark k v s
        let s := s.setStrand k { s.strand k with redo := none, pc := r.resume }
        settleStop k (takeTrap k { cause := replyCause v, addr := f.addr } r.pc x.waitParcels r.resume s)
      else s
    | none => s
  | .matrix c =>
    let x := s.core c
    match x.active with
    | some m =>
      if matrixParked x v then
        let s := matrixStop c (replyCause v).toNat m.strand (s.setCore c { x with mparked := none })
        stopCheck c (taskCheck c s)
      else s
    | none => s
  | p => engineReply p v s
/-- PAGER_DELIVER_TRAP: reply v for party. -/
def execPagerDeliverTrap (s : State) : Host.Outcome State Fault Refusal :=
  event (fun e s => if replyCode e.v = 1 then replyTrap e.party e.v s else s) s

/-- A command is of the handler that pushed another. -/
def Command.of (o m : Command) : Bool := o.strand == m.strand && o.role == m.role && o.orphan == m.orphan
/-- Terminate: the task or the handler of the party ends, with ERROR TERMINATED, and the commands that it has queued go with it. A
matrix command of a handler or a task that has ended ends alone. -/
def replyTerminate (p : Party) (v : W64) (s : State) : State :=
  match p with
  | .strand k =>
    let x := s.strand k
    match x.parked with
    | some f =>
      if strandParked x v then stopCheck k.core (terminate k (postError k 2 0 f.addr (unpark k v s))) else s
    | none => s
  | .matrix c =>
    let x := s.core c
    match x.active, x.mparked with
    | some m, some f =>
      if matrixParked x v then
        let k := mkStrand c m.strand
        let s := postEvent s (tenantOf s m.domain) (srcStrand k) 12
          [(24, 4, 2), (32, 1, c.panel), (33, 1, c.index), (34, 1, m.strand), (40, 8, f.addr.toNat)]
        let gone := fun (o : Command) => if m.orphan then false else if m.ofTask then o.ofTask else o.of m
        let s := commandsGone c (s.setCore c { x with active := none, cmdq := x.cmdq.filter fun o => !gone o, mparked := none })
        stopCheck c (taskCheck c (matrixNext c (if m.orphan then s else if m.ofTask then endTask c s else terminate k s)))
      else s
    | _, _ => s
  | p => engineReply p v s
/-- PAGER_TERMINATE: reply v for party. -/
def execPagerTerminate (s : State) : Host.Outcome State Fault Refusal :=
  event (fun e s => if replyCode e.v = 2 then replyTerminate e.party e.v s else s) s

end Sys2Proof.Machine
end

