-- ==== Sys2Proof/Machine/CopyEngine.lean ====
section
/-!
DEFINITION. CopyEngine.lean: the edge engines: the read of a slot (14 R327, R332, R333), translation and overlap
(R334), the opcodes (R335), bursts (R337) and completion (R336).
-/
namespace Sys2Proof.Machine

/-! ## The packet (14 R332, R333) -/

/-- OPC -/
def cpOpc (w : BitVec 512) : Nat := recBits w 0 8
/-- CK -/
def cpCk (w : BitVec 512) : Nat := recBits w 22 2
/-- COBJ -/
def cpCobj (w : BitVec 512) : Nat := recBits w 112 16
/-- PKG -/
def cpPkg (w : BitVec 512) : Nat := recBits w 82 14
/-- LEN -/
def cpLen (w : BitVec 512) : Nat := recBits w 160 32
/-- DST -/
def cpDst (w : BitVec 512) : Nat := recBits w 192 64
/-- SRC -/
def cpSrc (w : BitVec 512) : Nat := recBits w 256 64
/-- STAT -/
def cpStat (w : BitVec 512) : Nat := recBits w 384 64
/-- The rounding of the packet for a target width at a dither coordinate. -/
def cpMode (w : BitVec 512) (width row column : Nat) : Rm := modeOf (recBits w 12 3) width row column
/-- SAT -/
def cpSat (w : BitVec 512) : Bool := recBits w 15 1 == 1

/-- The bytes of a REDUCE element. -/
def reduceSize (fmt : Nat) : Nat := if fmt = 0 ∨ fmt = 17 then 8 else if fmt = 1 ∨ fmt = 18 then 4 else 1

/-- The fields of a packet from the highest bits down: lowest bit, and whether its value is allowed. -/
def copyRules (w : BitVec 512) (slot : Nat) : List (Nat × Bool) :=
  let op := cpOpc w
  let zero := fun (lo n : Nat) => recBits w lo n == 0
  let moves := decide (1 ≤ op ∧ op ≤ 6)
  let reduce := op == 4
  let el := fun (lo n : Nat) => !reduce || recBits w lo n % reduceSize (recBits w 16 5) == 0
  [(448, recBits w 448 32 == slot % 2 ^ 32), (384, cpStat w % 8 == 0), (320, op == 3 || zero 320 64),
   (256, if moves && op != 3 then el 256 64 else zero 256 64), (192, if moves then el 192 64 else zero 192 64),
   (160, if moves then el 160 32 && (op == 2 || !zero 160 32) else zero 160 32),
   (128, if reduce then el 128 32 else zero 128 32), (96, zero 96 16), (82, op == 5 || op == 6 || zero 82 14),
   (40, zero 40 42), (38, zero 38 2), (32, op == 2 || zero 32 6), (30, zero 30 2), (24, op == 2 || zero 24 6),
   (22, cpCk w != 3 && !(cpCk w == 2 && (op == 2 || op == 5 || !zero 192 64))), (21, zero 21 1),
   (16, if reduce then reduceSize (recBits w 16 5) != 1 else zero 16 5), (15, op == 2 || reduce || zero 15 1),
   (12, if op == 2 || reduce then decide (recBits w 12 3 ≤ 4) else zero 12 3),
   (8, if reduce then !zero 8 4 else zero 8 4), (0, moves)]

/-- The lowest bit of the first field of a packet that breaks its rule, from the highest bits down. -/
def copyBadField (w : BitVec 512) (slot : Nat) : Option Nat := ((copyRules w slot).find? fun e => !e.2).map Prod.fst

/-! ## Addresses (14 R334) -/

/-- Who acts: an engine, for the strand that appended the packet, if one did, in a domain. -/
structure Engine where
  panel : Nat
  n : Nat
  own : Option StrandId
  d : BitVec 16
  deriving DecidableEq, Repr

/-- Why an engine does not find a place. -/
inductive Miss where
  /-- a reason of 14 R336 -/
  | reason (n : Nat)
  | pager (f : PagerInfo)
  /-- held at the translation slice, or by self-refresh -/
  | later
  deriving DecidableEq, Repr

/-- The source identifier of an engine (06 R148). -/
def Engine.source (e : Engine) (s : State) : BitVec 32 := sourceId s.package.pkg.toNat e.panel (196 + e.n) 0

/-- The place of n bytes that cross no line. -/
def engineLine (e : Engine) (acc : Acc) (va n : Nat) (s : State) : Except Miss Place × State :=
  let b := va % 2 ^ 48
  if 2 ^ 57 ≤ va then (.error (.reason 6), s)
  else if va / 2 ^ 52 = 0x1F then
    match va / 2 ^ 48 with
    | 0x1F0 =>
      match e.own with
      | some k => (if b + n ≤ scratchSize then .ok (.scratch k.core b) else .error (.reason 6), s)
      | none => (.error (.reason 6), s)
    | 0x1F1 =>
      let i := b / 2 ^ 20
      let o := b % 2 ^ 20
      (if 195 < i || scratchSize < o + n || (192 ≤ i && !supervisory e.d) then .error (.reason 6)
        else .ok (.scratch (mkCore e.panel i) o), s)
    | _ => (.error (.reason 6), s)
  else
    match pageFor e.panel e.d acc va s with
    | (.ok p, s) => if placeHeld s p || lineBusy s p then (.error .later, queueHeld p s) else (.ok p, s)
    | (.error (.cause c ev), s) =>
      (.error (.reason 6),
        match ev with
        | some code => postAccessFault e.d (srcEngine e.panel e.n) (BitVec.ofNat 64 va) (if code = 8 then 8 else acc.code) c (e.source s) s
        | none => s)
    | (.error (.pager found), s) => (.error (.pager { addr := BitVec.ofNat 64 va, access := acc.code, found := found }), s)
    | (.error (.hold _), s) => (.error .later, s)

/-- Bytes at places, each run within a line. -/
abbrev Run := List (Place × Nat)

/-- The places of runs that cross no line, in order. -/
def engineLines (e : Engine) (acc : Acc) : List (Nat × Nat) → State → Except Miss Run × State
  | [], s => (.ok [], s)
  | (va, n) :: r, s =>
    match engineLine e acc va n s with
    | (.error m, s) => (.error m, s)
    | (.ok p, s) =>
      match engineLines e acc r s with
      | (.ok l, s) => (.ok ((p, n) :: l), s)
      | (.error m, s) => (.error m, s)

/-- Lines at another package, translated there (14 R335; log 8). A non-canonical address is an access of nothing (07 R161), and a
pattern window is foreign to a remote request (R178). DEDUCED (log 8): the other core-local windows are no pages of that package
either. -/
def remoteLines (pkg : Nat) (s : State) : List (Nat × Nat) → Except Miss Run
  | [] => .ok []
  | (va, n) :: r =>
    match (if 2 ^ 57 ≤ va || va / 2 ^ 52 = 0x1F then none else Config.remoteTranslate pkg va) with
    | none => .error (.reason 6)
    | some pa =>
      match remoteLines pkg s r with
      | .ok l => .ok ((.remote (memberKey s pkg) pa, n) :: l)
      | .error m => .error m

/-- The places of chunks (address, length), cut at lines: one run for each. -/
def chunkRuns (e : Engine) (pkg : Option Nat) (acc : Acc) : List (Nat × Nat) → State → Except Miss (List Run) × State
  | [], s => (.ok [], s)
  | (va, n) :: r, s =>
    let lines := cutLines (n / 128 + 2) va n
    let head := match pkg with
      | none => engineLines e acc lines s
      | some m => (remoteLines m s lines, s)
    match head with
    | (.error m, s) => (.error m, s)
    | (.ok l, s) =>
      match chunkRuns e pkg acc r s with
      | (.ok ls, s) => (.ok (l :: ls), s)
      | (.error m, s) => (.error m, s)

/-- An address as one of bytes: the two names of a scratchpad byte are one. -/
def flatAddr (e : Engine) (va : Nat) : Nat :=
  match va / 2 ^ 48, e.own with
  | 0x1F0, some k => 2 ^ 60 + k.core * 2 ^ 20 + va % 2 ^ 48
  | 0x1F1, _ => 2 ^ 60 + mkCore e.panel 0 * 2 ^ 20 + va % 2 ^ 48
  | _, _ => va

/-- The range from the lowest to the highest byte of chunks. -/
def spanOf (e : Engine) : List (Nat × Nat) → Option (Nat × Nat)
  | [] => none
  | (va, n) :: r =>
    let lo := flatAddr e va
    match spanOf e r with
    | none => some (lo, lo + n)
    | some (a, b) => some (min lo a, max (lo + n) b)

/-- Two ranges overlap. -/
def spansMeet (a b : Option (Nat × Nat)) : Bool :=
  match a, b with
  | some x, some y => decide (x.1 < y.2 ∧ y.1 < x.2)
  | _, _ => false

/-! ## Data -/

/-- The bytes of a run, and whether the sector of each is poisoned; a gone core's scratchpad answers poison (05 R132,
R133). -/
def runRead (s : State) (l : Run) : List (Byte × Bool) :=
  l.flatMap fun e => (List.range e.2).map fun i =>
    let p := e.1.plus i
    match p with
    | .scratch c _ => if (s.core c).gone then (0, true) else (placeByte s p, placeBad s p)
    | _ => (placeByte s p, placeBad s p)

/-- Every scratchpad of a run answers a read of the domain (07 R163, 05 R133). -/
def runAnswers (s : State) (d : BitVec 16) (l : Run) : Bool :=
  l.all fun e =>
    match e.1 with
    | .scratch c _ => (match windowCause (s.core c) d with | none => true | some x => x == Cause.remoteDead)
    | _ => true

/-- The home lines of a run are touched. -/
def runTouch (write : Bool) (l : Run) (s : State) : State :=
  l.foldl (fun s e => match e.1 with | .dev key => homeTouch key write s | _ => s) s
/-- The lines of chunks, in order: the addresses of their runs. -/
def chunkLines (l : List (Nat × Nat)) : List Nat := l.flatMap fun c => (cutLines (c.2 / 128 + 2) c.1 c.2).map Prod.fst
/-- The accesses of a run counted, once each (02 R57, 07 R174). -/
def runCount (e : Engine) (lines : List Nat) (l : Run) (s : State) : State :=
  (lines.zip l).foldl (fun s x => countLine e.panel x.1 x.2.1 s) s
/-- A run meets an armed zone whose count has not landed: it is read only afterwards (08 R191). -/
def runZoned (s : State) (l : Run) : Bool :=
  l.any fun e =>
    match e.1 with
    | .scratch c off => inZone (s.core c) off e.2
    | _ => false

/-- The read check of fixed mode for a packet of a fixed-mode strand (08 R199, R200). -/
def runStamps (s : State) (j : CopyJob) (l : Run) : Bool :=
  match j.horizon, j.appender with
  | some h, some k =>
    l.all fun e =>
      match e.1 with
      | .dev key => (sectorStarts key e.2).all fun i =>
          ownPublish (s.core k.core) k.num (key + i) || stampOk h (sectorOf s (key + i))
      | _ => true
  | _, _ => true

/-- What a packet is to write, or why it writes nothing. -/
structure Made where
  /-- 0, or a reason with the write (3), or a reason instead of it -/
  reason : Nat := 0
  write : Bool := true
  bytes : List (Byte × Bool) := []
  flags : Nat := 0
  deriving DecidableEq, Repr

/-- What an opcode reads and writes: chunks (address, length), the source's ranges, the packages of the two sides, and
the bytes that come of the bytes read and of those that stand at the destination. -/
structure CopyPlan where
  srcs : List (Nat × Nat)
  sides : List (List (Nat × Nat))
  dst : List (Nat × Nat)
  srcPkg : Option Nat := none
  dstPkg : Option Nat := none
  make : List (List (Byte × Bool)) → List (List (Byte × Bool)) → Made

/-! ## The opcodes (14 R335) -/

/-- The other package of a PUT or GET: none where it is the own one. -/
def otherPkg (s : State) (w : BitVec 512) : Option Nat :=
  if cpPkg w = s.package.pkg.toNat then none else some (cpPkg w)

/-- A move of LEN bytes. -/
def planMove (w : BitVec 512) (srcPkg dstPkg : Option Nat) : CopyPlan :=
  { srcs := [(cpSrc w, cpLen w)]
    sides := [[(cpSrc w, cpLen w)]]
    dst := [(cpDst w, cpLen w)]
    srcPkg := srcPkg
    dstPkg := dstPkg
    make := fun data _ => { bytes := data.flatten } }

/-- COPY -/
def planCopy (j : CopyJob) (_ : State) : Except Nat CopyPlan := .ok (planMove j.word none none)

/-- FILL -/
def planFill (j : CopyJob) (_ : State) : Except Nat CopyPlan :=
  .ok
    { srcs := []
      sides := []
      dst := [(cpDst j.word, cpLen j.word)]
      make := fun _ _ =>
        { bytes := (List.range (cpLen j.word)).map fun b => (BitVec.ofNat 8 (recBits j.word (320 + b % 8 * 8) 8), false) } }

/-- PUT -/
def planPut (j : CopyJob) (s : State) : Except Nat CopyPlan := .ok (planMove j.word none (otherPkg s j.word))
/-- GET -/
def planGet (j : CopyJob) (s : State) : Except Nat CopyPlan := .ok (planMove j.word (otherPkg s j.word) none)

/-- A node of REDUCE: rounded in FMT under RM, or wrapped or clamped under SAT. -/
def reduceNode (w : BitVec 512) (a b : Nat) : Nat × Nat :=
  let fmt := recBits w 16 5
  if skInt fmt then intResult (skBits fmt) (cpSat w) (toSigned (skBits fmt) a + toSigned (skBits fmt) b)
  else
    let f := skF fmt
    let rm := cpMode w (skBits fmt) 0 0
    ((f.decode a).add (rm == .down) (f.decode b)).round f rm

/-- One element of REDUCE over its sources' bytes: the tree of 09 R216, missing sources entering as ε. -/
def reduceElement (w : BitVec 512) (els : List (List (Byte × Bool))) : List (Byte × Bool) × Nat :=
  let leaves := (List.range 16).map fun i => (els.drop i).head?.map fun e => ofBytes (e.map Prod.fst)
  let (v, fl) := tree (fun _ => reduceNode w) 4 leaves
  let bad := els.any fun e => e.any Prod.snd
  ((toBytes (reduceSize (recBits w 16 5)) (v.getD 0)).map fun b => (b, bad), fl)

/-- REDUCE; each of its sources is a range of its own, which the destination must not overlap (R334; 20 R383; log 20). -/
def planReduce (j : CopyJob) (_ : State) : Except Nat CopyPlan :=
  let w := j.word
  let n := cpLen w
  let size := reduceSize (recBits w 16 5)
  let srcs := (List.range (recBits w 8 4 + 1)).map fun i =>
    ((((cpSrc w : Int) + i * toSigned 32 (recBits w 128 32)) % 2 ^ 64).toNat, n)
  .ok
    { srcs := srcs
      sides := srcs.map fun c => [c]
      dst := [(cpDst w, n)]
      make := fun data _ =>
        let els := (List.range (n / size)).map fun e => reduceElement w (data.map fun d => (d.drop (e * size)).take size)
        let bytes := els.flatMap Prod.fst
        { bytes := bytes
          flags := els.foldl (fun a e => a ||| e.2) 0
          reason := if bytes.any Prod.snd then 3 else 0 } }

/-- The bytes of row r of a side of COPY2D: address, length, and the bits before the first element. -/
def rowChunk (sk : BitVec 512) (o0 o1 per r : Nat) : (Nat × Nat) × Nat :=
  let w := skBits (skFmt sk)
  let lo := w * o0 / 8
  let row := (((skBase sk : Int) + (o1 + r : Nat) * skStr sk 1) % 2 ^ 64).toNat
  ((row + lo, (w * (o0 + per) + 7) / 8 - lo), w * o0 - 8 * lo)
/-- The scales of row r of a side of COPY2D. -/
def scaleChunk (sk : BitVec 512) (o0 o1 per r : Nat) : Nat × Nat :=
  (skSbase sk + (o1 + r) * (skExt sk 0 / 32) + o0 / 32, per / 32)
/-- The chunks of a side: its rows, then its scales. -/
def sideChunks (sk : BitVec 512) (o0 o1 per rows : Nat) : List (Nat × Nat) :=
  (List.range rows).map (fun r => (rowChunk sk o0 o1 per r).1) ++
    if skScaled (skFmt sk) then (List.range rows).map (scaleChunk sk o0 o1 per) else []

/-- An element on its way: bits, block scale, whether a sector it comes from is poisoned. -/
abbrev Element := Nat × Nat × Bool

/-- The elements of a row: w bits each, from bit off of its bytes, with its scales. -/
def rowElements (w off per : Nat) (row scales : List (Byte × Bool)) : List Element :=
  let v := ofBytes (row.map Prod.fst)
  (List.range per).map fun c =>
    let at_ := off + w * c
    let sc := scales.getD (c / 32) (0, false)
    (v / 2 ^ at_ % 2 ^ w, sc.1.toNat, sc.2 || ((row.drop (at_ / 8)).take ((at_ + w + 7) / 8 - at_ / 8)).any Prod.snd)

/-- The elements of a row converted: scaled targets by blocks of 32; and the IEEE flags (SAT is REDUCE's alone, 14 R336). -/
def convertRow (w : BitVec 512) (from_ into row : Nat) (col0 : Nat) (els : List Element) : List Element × Nat :=
  let width := skBits into
  let val := fun (e : Element) => skValue from_ e.2.1 e.1
  if from_ = into then (els, 0)
  else if skScaled into then
    let blocks := (List.range (els.length / 32)).map fun b =>
      let part := (els.drop (32 * b)).take 32
      let (sc, out, fl) := blockConvert into (fun i => cpMode w width row (col0 + 32 * b + i)) (part.map val)
      let bad := part.any fun e => e.2.2
      (out.map fun o => ((o, sc, bad) : Element), fl)
    (blocks.flatMap Prod.fst, blocks.foldl (fun a b => a ||| b.2) 0 % 32)
  else
    let conv := els.mapIdx fun i e =>
      if skInt into && skInt from_ then (intResult width (cpSat w) (toSigned (skBits from_) e.1), e.2.2)
      else (skConvert into (cpMode w width row (col0 + i)) (cpSat w) (val e), e.2.2)
    (conv.map fun c => (c.1.1, 0, c.2), conv.foldl (fun a c => a ||| c.1.2) 0 % 32)

/-- Elements packed into the bytes of their row; the bits of the row's bytes that no element covers stay. -/
def packRow (w off : Nat) (old : List (Byte × Bool)) (els : List Element) : List (Byte × Bool) :=
  let v := ofBytes (old.map Prod.fst)
  let n := els.length
  let x := els.foldr (fun e a => e.1 % 2 ^ w + 2 ^ w * a) 0
  let v := v % 2 ^ off + x * 2 ^ off + v / 2 ^ (off + w * n) * 2 ^ (off + w * n)
  (toBytes old.length v).mapIdx fun i b =>
    (b, (List.range n).any fun c => off + w * c < 8 * i + 8 && 8 * i < off + w * c + w && (els.getD c (0, 0, false)).2.2)

/-- COPY2D's bytes: every element is converted, all are checked, then rows and scales are laid out. -/
def make2d (j : CopyJob) (rows per : Nat) (data old : List (List (Byte × Bool))) : Made :=
  let a := j.skeinS
  let b := j.skeinD
  let w := j.word
  let so0 := recBits w 256 32
  let do0 := recBits w 192 32
  let do1 := recBits w 224 32
  let t := skFmt b
  let conv := (List.range rows).map fun r =>
    convertRow w (skFmt a) t (skDorg b + do1 + r) do0
      (rowElements (skBits (skFmt a)) (rowChunk a so0 0 per 0).2 per (data.getD r []) (data.getD (rows + r) []))
  let els := conv.flatMap Prod.fst
  match bounds (skPol b) t (skLo b) (skHi b) (els.map fun e => (e.1, e.2.1, true)) with
  | .trap => { reason := 2, write := false }
  | .invalid => { reason := 9, write := false }
  | .write es acted =>
    let out := (es.zip els).map fun e => ((e.1, e.2.2) : Element)
    let row := fun (r : Nat) => (out.drop (r * per)).take per
    let bodies := (List.range rows).flatMap fun r =>
      packRow (skBits t) (rowChunk b do0 0 per 0).2 (old.getD r []) (row r)
    let scales := if skScaled t then
        (List.range rows).flatMap fun r => (List.range (per / 32)).map fun k =>
          let e := (row r).getD (32 * k) (0, 0, false)
          (BitVec.ofNat 8 e.2.1, e.2.2)
      else []
    { bytes := bodies ++ scales
      flags := conv.foldl (fun f c => f ||| c.2) (if acted then Flag.bound else 0) }

/-- COPY2D; a scaled side with origins or a count off its blocks has no reason of its own (log 8). -/
def plan2d (j : CopyJob) (s : State) : Except Nat CopyPlan :=
  let w := j.word
  let a := j.skeinS
  let b := j.skeinD
  let rows := recBits w 176 16 + 1
  let per := recBits w 160 16 + 1
  let so0 := recBits w 256 32
  let so1 := recBits w 288 32
  let do0 := recBits w 192 32
  let do1 := recBits w 224 32
  let odd := fun (sk : BitVec 512) (o : Nat) => skScaled (skFmt sk) && (o % 32 != 0 || per % 32 != 0)
  if j.appender.isNone || skReserved (skFmt a) || skReserved (skFmt b) then .error 9
  else if skExt a 0 < so0 + per || skExt a 1 < so1 + rows || skExt b 0 < do0 + per || skExt b 1 < do1 + rows then .error 10
  else if odd a so0 || odd b do0 then .error (9 + (Config.freeValue s.steps).toNat % 2)
  else
    .ok
      { srcs := sideChunks a so0 so1 per rows
        sides := [sideChunks a so0 so1 per rows]
        dst := sideChunks b do0 do1 per rows
        make := make2d j rows per }

/-! ## Performing a packet -/

/-- A packet written back. -/
def setJob (j : CopyJob) (s : State) : State := { s with copyJobs := putId CopyJob.id s.copyJobs j }
/-- The packet is to be completed, with a reason. -/
def endPacket (j : CopyJob) (reason : Nat) (s : State) : State :=
  (setJob { j with stage := 3, reason := reason } s).post .copyPacketComplete { id := j.id }
/-- The packet is tried again. -/
def againPacket (j : CopyJob) (s : State) : State := (setJob j s).post (packetEvent (cpOpc j.word)) { id := j.id }
/-- The domain a packet acts in, and who acts. -/
def CopyJob.engineOf (j : CopyJob) (s : State) : Engine :=
  { panel := j.panel, n := j.engine, own := j.appender, d := tenantDomain s j.tenant }
/-- A packet parked on the pager (07 R175). -/
def parkPacket (j : CopyJob) (f : PagerInfo) (s : State) : State :=
  let (n, s) := s.fresh
  let e := j.engineOf s
  let seq := BitVec.ofNat 32 n
  pagerMessage (setJob { j with stage := 1, parked := some f, parkedSeq := seq } s) e.panel e.n (e.source s) e.d f seq
/-- What a miss does to a packet: tried again, it obtains every translation anew (07 R173). -/
def missPacket (j : CopyJob) (m : Miss) (s : State) : State :=
  match m with
  | .reason n => endPacket j n s
  | .pager f => parkPacket { j with statPlace := none } f s
  | .later => againPacket { j with statPlace := none } s

/-- The check of COBJ (14 R336; 08 R200): the packet with what it may signal, and its reason. -/
def checkCobj (s : State) (j : CopyJob) : CopyJob :=
  let w := j.word
  let fails := fun (reason : Nat) => { j with noSignal := true, reason := reason }
  match cpCk w with
  | 1 =>
    if (objCause s .counter (cpCobj w) (tenantDomain s j.tenant)).isSome then fails 6
    else if inPalette s false (cpCobj w) then fails 5
    else j
  | 2 => if (objCause s .ring (cpCobj w) (tenantDomain s j.tenant)).isSome then fails 6 else j
  | _ => j

/-- Why a packet may not write at a place, as far as this is known before it is performed: the core does not answer its domain (07
R163), or a packet of a fixed-mode strand names no scratchpad (08 R200). The zones that such a packet needs are looked at when the
write reaches the core (20 R379). -/
def writeReason (s : State) (j : CopyJob) (p : Place) : Option Nat :=
  match p with
  | .scratch c _ => if (windowCause (s.core c) (tenantDomain s j.tenant)).isSome then some 6 else none
  | _ => if j.horizon.isSome then some 5 else none
/-- The check of STAT: its place is kept. -/
def checkStat (j : CopyJob) (s : State) : Except Miss CopyJob × State :=
  if cpStat j.word = 0 || j.noStat || j.statPlace.isSome then (.ok j, s)
  else
    match engineLine (j.engineOf s) .write (cpStat j.word) 8 s with
    | (.ok p, s) =>
      match writeReason s j p with
      | some n => (.ok { j with noStat := true, reason := n }, s)
      | none => (.ok { j with statPlace := some p }, s)
    | (.error (.reason n), s) => (.ok { j with noStat := true, reason := n }, s)
    | (.error m, s) => (.error m, s)

/-- The ring slot that a packet's data will fill, as a run; or its reason (14 R336). -/
def ringRun (s : State) (j : CopyJob) : Except Miss Run :=
  let r := ringOf s (cpCobj j.word)
  let off := ringOffset r r.wr
  if r.size < cpLen j.word then .error (.reason 7)
  else
    match writeReason s j (.scratch r.core off) with
    | some n => .error (.reason n)
    | none => .ok [(.scratch r.core off, cpLen j.word)]

/-- One line's bytes leave for their place, named by a virtual address: a landing in a scratchpad, entered in its scoreboard
(08 R191), or a store. -/
def sendLine (j : CopyJob) (va : Nat) (p : Place) (bs : List (Byte × Bool)) (s : State) : State :=
  let (id, s) := s.fresh
  let d := tenantDomain s j.tenant
  match p with
  | .scratch c off =>
    let x := s.core c
    let l : Landing :=
      { id := id, target := c, off := off, bytes := bs.zipIdx.map fun b => (off + b.2, b.1.1)
        poison := (bs.zipIdx.filter fun b => b.1.2).map fun b => off + b.2
        sender := .packet j.id, domain := d, supervisor := supervisory d, zonesOnly := j.horizon.isSome }
    let s := if l.zonesOnly || (windowCause x d).isSome || armedZone x off bs.length then s
      else s.setCore c { x with
        ranges := x.ranges ++ [{ off := off, len := bs.length, zone := false, id := id, landed := 0, strand := 0 }] }
    ({ s with landings := s.landings ++ [l] } : State).post .landingArrive { id := id, core := c, a := off }
  | _ =>
    let r : StoreReq :=
      { id := id, core := (j.appender.getD 0).core, strand := j.id, path := 5, va := va
        bytes := bs.zipIdx.map fun b => (p.plus b.2, b.1.1)
        poison := (bs.zipIdx.filter fun b => b.1.2).map fun b => p.plus b.2 }
    ({ s with stores := s.stores ++ [r] } : State).post .homeAccess { id := id }

/-- Bytes written along a run, whose lines have these addresses. -/
def sendRun (j : CopyJob) : List Nat → Run → List (Byte × Bool) → State → State
  | _, [], _, s => s
  | vas, (p, n) :: r, bs, s => sendRun j vas.tail r (bs.drop n) (sendLine j (vas.headD 0) p (bs.take n) s)

/-- The packages of a plan can be reached. -/
def planReached (s : State) (p : CopyPlan) : Bool :=
  (p.srcPkg.toList ++ p.dstPkg.toList).all fun m =>
    s.package.reachable.contains (memberKey s m) && (upLink s).isSome

/-- The runs of a plan's two sides, all checked before any byte moves. -/
def planRuns (j : CopyJob) (p : CopyPlan) (s : State) : Except Miss (List Run × List Run) × State :=
  let e := j.engineOf s
  match chunkRuns e p.srcPkg .read p.srcs s with
  | (.error m, s) => (.error m, s)
  | (.ok src, s) =>
    if cpCk j.word = 2 then
      (match ringRun s j with | .ok r => .ok (src, [r]) | .error m => .error m, s)
    else
      match chunkRuns e p.dstPkg .write p.dst s with
      | (.error m, s) => (.error m, s)
      | (.ok dst, s) => (.ok (src, dst), s)

/-- The destination range of a packet. -/
def dstSpan (s : State) (j : CopyJob) (p : CopyPlan) : Option (Nat × Nat) :=
  if cpCk j.word = 2 then
    let r := ringOf s (cpCobj j.word)
    let lo := 2 ^ 60 + r.core * 2 ^ 20 + ringOffset r r.wr
    some (lo, lo + cpLen j.word)
  else spanOf (j.engineOf s) p.dst

/-- The reason why a packet whose places are found does nothing: every check is made before any write. -/
def planStops (s : State) (j : CopyJob) (p : CopyPlan) (src dst : List Run) : Option Nat :=
  let same := p.srcPkg.isNone && p.dstPkg.isNone
  if same && p.sides.any fun c => spansMeet (spanOf (j.engineOf s) c) (dstSpan s j p) then some 1
  else if !runAnswers s (tenantDomain s j.tenant) src.flatten then some 6
  else if !runStamps s j src.flatten then some 5
  else dst.flatten.findSome? fun e => writeReason s j e.1

/-- The lines of a PUT leave for the other package as flits (01 R36). -/
def putFlits (pkg : Option Nat) (l : Run) (s : State) : State :=
  match pkg with
  | some m => l.foldl (fun s _ => outgoing 0 m s) s
  | none => s
/-- The data of a packet moved: its writes are sent, or kept for its ring's slot. -/
def movePacket (j : CopyJob) (p : CopyPlan) (src dst : List Run) (s : State) : State :=
  let m := p.make (src.map (runRead s)) (dst.map (runRead s))
  let s := runCount (j.engineOf s) (chunkLines p.srcs) src.flatten (runTouch false src.flatten s)
  let j := { j with reason := m.reason, flags := BitVec.ofNat 7 m.flags }
  if !m.write then endPacket j m.reason s
  else if cpCk j.word = 2 then endPacket { j with data := m.bytes } m.reason s
  else
    let vas := if p.dstPkg.isSome then [] else chunkLines p.dst
    packetMoved j.id (sendRun j vas dst.flatten m.bytes (putFlits p.dstPkg dst.flatten
      (runCount (j.engineOf s) vas dst.flatten (setJob { j with stage := 2 } s))))

/-- A packet performed: the checks of COBJ and STAT, then every other check, then the data; a read in an armed zone waits for
its count (08 R191). -/
def performPacket (id : Nat) (plan : CopyJob → State → Except Nat CopyPlan) (s : State) : State :=
  match findId CopyJob.id s.copyJobs id with
  | none => s
  | some j =>
    if j.stage != 0 || j.bursts != 0 then s
    else
      match checkStat (checkCobj s j) s with
      | (.error m, s) => missPacket j m s
      | (.ok j, s) =>
        if j.reason != 0 then endPacket j j.reason s
        else
          match plan j s with
          | .error n => endPacket j n s
          | .ok p =>
            if !planReached s p then endPacket j 8 s
            else
              match planRuns j p s with
              | (.error m, s) => missPacket j m s
              | (.ok (src, dst), s) =>
                match planStops s j p src dst with
                | some n => endPacket j n s
                | none => if runZoned s src.flatten then missPacket j .later s else movePacket j p src dst s

/-- COPY_PACKET_COPY: packet id. -/
def execCopyPacketCopy (s : State) : Host.Outcome State Fault Refusal := event (fun e s => performPacket e.id planCopy s) s
/-- COPY_PACKET_COPY2D: packet id. -/
def execCopyPacketCopy2d (s : State) : Host.Outcome State Fault Refusal := event (fun e s => performPacket e.id plan2d s) s
/-- COPY_PACKET_FILL: packet id. -/
def execCopyPacketFill (s : State) : Host.Outcome State Fault Refusal := event (fun e s => performPacket e.id planFill s) s
/-- COPY_PACKET_REDUCE: packet id. -/
def execCopyPacketReduce (s : State) : Host.Outcome State Fault Refusal :=
  event (fun e s => performPacket e.id planReduce s) s
/-- COPY_PACKET_PUT: packet id. -/
def execCopyPacketPut (s : State) : Host.Outcome State Fault Refusal := event (fun e s => performPacket e.id planPut s) s
/-- COPY_PACKET_GET: packet id. -/
def execCopyPacketGet (s : State) : Host.Outcome State Fault Refusal := event (fun e s => performPacket e.id planGet s) s

/-! ## Completion (14 R336) -/

/-- The status word of a packet. -/
def statusWord (j : CopyJob) : Nat := j.reason * 2 ^ 40 + j.engine * 2 ^ 32 + j.flags.toNat

/-- A write of a completion to a scratchpad is refused for now (04 R119, R120). -/
def landingHeld (s : State) (d : BitVec 16) (c : CoreId) (off n : Nat) : Bool :=
  let x := s.core c
  !x.gone && (x.status == .quiet ||
    x.parkedZones.any fun z => z.1 == d && decide (z.2.2.off < off + n ∧ off < z.2.2.off + z.2.2.len))

/-- The completion is held: self-refresh, a scratchpad that refuses, or a full ring. -/
def completionHeld (s : State) (j : CopyJob) : Bool :=
  let d := tenantDomain s j.tenant
  let stat := match j.statPlace with
    | some (.scratch c off) => landingHeld s d c off 8
    | some p => slotWaits s p (toBytes 8 (statusWord j))
    | none => false
  let ring := if cpCk j.word = 2 && !j.noSignal then
      let r := ringOf s (cpCobj j.word)
      ringFull r || landingHeld s d r.core (ringOffset r r.wr) r.size
    else false
  stat || ring

/-- A status word that waits for the DRAM enters its slice's queue (02 R75). -/
def statusQueue (j : CopyJob) (s : State) : State :=
  match j.statPlace with
  | some p => slotQueue p (toBytes 8 (statusWord j)) s
  | none => s

/-- Why the bytes of a completion are not all performed at a scratchpad place now (07 R163; 20 R379): the core does not answer the
packet's domain, or a byte of a fixed-mode packet finds no armed zone. -/
def partReason (s : State) (j : CopyJob) (c : CoreId) (off n : Nat) : Option Nat :=
  if (windowCause (s.core c) (tenantDomain s j.tenant)).isSome then some 6
  else if j.horizon.isSome && !(List.range n).all fun i => armedZone (s.core c) (off + i) 1 then some 5
  else none
/-- A packet with a failure of its completion, unless it has one already. -/
def CopyJob.failsWith (j : CopyJob) (reason : Option Nat) : CopyJob :=
  { j with reason := if j.reason = 0 then reason.getD 0 else j.reason }
/-- The packet as it completes: what of its status word or of its ring's data cannot be performed is a failure (14 R336). -/
def completionChecked (s : State) (j : CopyJob) : CopyJob :=
  let j := match j.statPlace with
    | some (.scratch c off) => j.failsWith (partReason s j c off 8)
    | _ => j
  if cpCk j.word = 2 && !j.noSignal && !j.data.isEmpty then
    let r := ringOf s (cpCobj j.word)
    match partReason s j r.core (ringOffset r r.wr) j.data.length with
    | some n => j.failsWith (some n)
    | none => j
  else j
/-- Bytes a completion writes to a scratchpad, where the core answers the domain; those of a fixed-mode packet in armed zones
(20 R379). -/
def landFor (j : CopyJob) (c : CoreId) (off : Nat) (bs : List (Byte × Bool)) (s : State) : State :=
  let x := s.core c
  if (windowCause x (tenantDomain s j.tenant)).isSome then s
  else
    let all := bs.zipIdx.map fun b => (off + b.2, b.1)
    let good := if j.horizon.isSome then all.filter fun b => armedZone x b.1 1 else all
    landBytes c (good.map fun b => (b.1, b.2.1)) ((good.filter fun b => b.2.2).map Prod.fst) s

/-- The status word written. -/
def writeStatus (j : CopyJob) (s : State) : State :=
  let bs := toBytes 8 (statusWord j)
  match j.statPlace with
  | some (.scratch c off) => landFor j c off (bs.map fun b => (b, false)) s
  | some p => writePlaces none (bs.zipIdx.map fun b => (p.plus b.2, b.1)) [] (countLine j.panel (cpStat j.word) p s)
  | none => s
/-- The packet with the place of its status word, which a packet that fails after a stop at the pager obtains again (07 R173); none
where it has to wait. Where the place cannot be had, no status word is written; the packet keeps the reason it has. -/
def statusPlaced (j : CopyJob) (s : State) : Option CopyJob × State :=
  match checkStat j s with
  | (.ok i, s) => (some (if j.reason = 0 then i else { i with reason := j.reason }), s)
  | (.error .later, s) => (none, s)
  | (.error _, s) => (some { j with noStat := true }, s)

/-- COBJ signalled, or its ring posted with the data in its slot. A failed packet's slot is filled with zeros, after the part of its
data that finds an armed zone where that is why it failed (20 R379); the sum of a REDUCE that read poison stands (05 R132). -/
def signalPacket (j : CopyJob) (s : State) : State :=
  if j.noSignal then s
  else
    match cpCk j.word with
    | 1 => signalCounter (cpCobj j.word) 1 s
    | 2 =>
      let r := ringOf s (cpCobj j.word)
      let off := ringOffset r r.wr
      let s := landFor j r.core off j.data s
      postRing (cpCobj j.word) (if j.data.isEmpty || j.reason = 5 || j.reason = 6 then
        landFor j r.core off (List.replicate r.size (0, false)) s else s)
    | _ => s

/-- The queues of an engine. -/
def engineQueues (s : State) (panel engine : Nat) : List (Nat × Nat) :=
  s.tenants.flatMap fun t => (t.2.queues.filter fun q => q.2.panel == panel && q.2.consumer == engine + 1).map fun q => (t.1, q.1)

/-- A packet's completion performed: its status, its signal, COPY_FAULT where it failed; the engine looks at its queues again. -/
def closePacket (j : CopyJob) (s : State) : State :=
  let j := completionChecked s j
  let s := signalPacket j (writeStatus j s)
  let s := if j.reason = 0 then s else copyFault j.tenant j.panel j.engine j.reason j.slotAddr s
  let s := { s with copyJobs := dropId CopyJob.id s.copyJobs j.id }
  (engineQueues s j.panel j.engine).foldl (fun s q => s.post .copySlotRead { panel := j.panel, tenant := q.1, a := q.2 }) s
/-- A packet completes once its accesses are performed and its completion is not held. -/
def completePacket (id : Nat) (s : State) : State :=
  match findId CopyJob.id s.copyJobs id with
  | none => s
  | some j =>
    if (j.stage != 2 && j.stage != 3) || packetBusy s id then s
    else
      match statusPlaced j s with
      | (none, s) => s.post .copyPacketComplete { id := id }
      | (some j, s) =>
        if completionHeld s j then (statusQueue j (setJob j s)).post .copyPacketComplete { id := id }
        else closePacket j s
/-- COPY_PACKET_COMPLETE: packet id. -/
def execCopyPacketComplete (s : State) : Host.Outcome State Fault Refusal := event (fun e s => completePacket e.id s) s

/-! ## The read of a slot (14 R327) -/

/-- A queue parked at the slot it reads (07 R175). -/
def parkQueue (tenant n : Nat) (e : Engine) (f : PagerInfo) (s : State) : State :=
  let (id, s) := s.fresh
  let seq := BitVec.ofNat 32 id
  let s := setQueue tenant n { queueAt s tenant n with parked := some f, parkedSeq := seq } s
  pagerMessage s e.panel e.n (e.source s) e.d f seq

/-- The bursts of a packet (14 R337). -/
def burstsOf (j : CopyJob) : Nat :=
  let w := j.word
  let bytes := if cpOpc w = 2 then
      (recBits w 176 16 + 1) * (recBits w 160 16 + 1) * skBits (skFmt j.skeinD) / 8
    else cpLen w
  max 1 ((bytes + 255) / 256)

/-- A packet starts: it waits for its tenant's bucket where that has a rate, and is performed. -/
def startPacket (j : CopyJob) (s : State) : State :=
  let rated := (Table.get (0, 0, 0) s.buckets (bucketKey j.panel j.engine j.tenant)).2.2 != 0
  if rated then
    let idle := (waitingJob s j.panel j.engine j.tenant).isNone
    let s := { s with copyJobs := s.copyJobs ++ [{ j with bursts := burstsOf j }] }
    if idle then s.post .tokenBucketCycle { panel := j.panel, a := j.engine, tenant := j.tenant } else s
  else ({ s with copyJobs := s.copyJobs ++ [j] } : State).post (packetEvent (cpOpc j.word)) { id := j.id }

/-- The packet of a slot read and found good: with what its APPEND left, if an APPEND filled the slot. -/
def acceptPacket (tenant n slot va : Nat) (q : Queue) (w : BitVec 512) (s : State) : State :=
  let mine := fun (j : CopyJob) => j.stage == 4 && j.tenant == tenant && j.queue == n && j.slotAddr == slot
  match s.copyJobs.find? mine with
  | some j =>
    startPacket { j with word := w, slotAddr := va, stage := 0 }
      { s with copyJobs := s.copyJobs.filter fun j => !mine j }
  | none =>
    let (id, s) := s.fresh
    startPacket
      { id := id, panel := q.panel, engine := q.consumer - 1, tenant := tenant, queue := n, slotAddr := va, word := w
        appender := none, skeinS := 0, skeinD := 0, horizon := none, domain := tenantDomain s tenant, stage := 0
        reason := 0, flags := 0, parked := none, parkedSeq := 0 } s

/-- A slot discarded with the event of 03 R90. -/
def discardSlot (tenant n slot : Nat) (s : State) : State :=
  consumeCopy tenant n { s with copyJobs := s.copyJobs.filter fun j =>
    !(j.stage == 4 && j.tenant == tenant && j.queue == n && j.slotAddr == slot) }

/-- The packets an engine runs. -/
def engineLoad (s : State) (q : Queue) : Nat :=
  (s.copyJobs.filter fun j => j.panel == q.panel && j.engine + 1 == q.consumer && j.stage != 4).length

/-- The engine looks at a copy queue: it reads the next slot, once, checks it and consumes it; it runs at most eight
packets at once. -/
def readCopySlot (tenant n : Nat) (s : State) : State :=
  let q := queueAt s tenant n
  if q.consumer = 0 || q.parked.isSome || 8 ≤ engineLoad s q then s
  else
    match headerAt q.panel tenant q.header s with
    | (.error .later, s) => lookAtQueue tenant n s
    | (.error _, s) => s
    | (.ok (place, h), s) =>
      let slot := q.nextSlot
      let s := copyReadSync tenant n place h.read s
      if slotWaits s place (toBytes 8 slot) && h.read != slot then
        lookAtQueue tenant n (slotQueue place (toBytes 8 slot) s)
      else if h.pub ≤ slot then s
      else
        let va := (h.base + slot % h.cap * 64) % 2 ^ 64
        let e : Engine := { panel := q.panel, n := q.consumer - 1, own := none, d := tenantDomain s tenant }
        let src := srcEngine e.panel e.n
        match engineLine e .read va 64 s with
        | (.error .later, s) => lookAtQueue tenant n s
        | (.error (.pager f), s) => parkQueue tenant n e f s
        | (.error (.reason r), s) => consumeFailed tenant n r s
        | (.ok p, s) =>
          let s := countLine e.panel va p s
          let w := ofRecBytes (placeRead s p 64)
          if !recordOk w then
            discardSlot tenant n slot (postEvent s (some tenant) src 2 [(24, 8, va), (32, 1, 1), (33, 1, q.panel)])
          else
            match copyBadField w slot with
            | some b =>
              discardSlot tenant n slot
                (postEvent s (some tenant) src 3 [(24, 8, va), (32, 1, 1), (33, 1, q.panel), (34, 2, b)])
            | none => consumeCopy tenant n (acceptPacket tenant n slot va q w s)
/-- COPY_SLOT_READ: queue a of tenant. -/
def execCopySlotRead (s : State) : Host.Outcome State Fault Refusal := event (fun e s => readCopySlot e.tenant e.a s) s

end Sys2Proof.Machine
end

