-- ==== Sys2Proof/Machine/CoreCmd.lean ====
section
/-!
DEFINITION. CoreCmd.lean: CORECMD (04 R115): pre-emption and its save area (R117, R118), halts (R119) and the time-out
of landing zones (R120).
-/
namespace Sys2Proof.Machine

/-! ## The save area (04 R118) -/

/-- Bytes of the save area. -/
def saveSize : Nat := 931840

/-- One parked zone as 16 bytes. -/
def zoneImage (r : Range) : Nat := r.off + r.len * 2 ^ 32 + r.landed * 2 ^ 64 + r.strand * 2 ^ 96

/-- The header, without its CRC. -/
def saveHeader (s : State) (c : CoreId) (zones : List Range) : List Byte :=
  let x := s.core c
  let tenant := (tenantOf s x.domain).getD 0
  layout 764
    ([(0, 8, x.domain.toNat * 2 ^ 16 + tenant), (8, 8, c.panel * 2 ^ 12 + c.index), (0x10, 8, s.now.toNat),
      (0x18, 8, ((x.cmdq.head?.map Command.entry).getD x.cmdqNext) + x.cmdqNext * 2 ^ 8 + x.cmdq.length * 2 ^ 16),
      (0x20, 8, strandMask s c Strand.live), (0x28, 8, (mstat x).toNat)] ++
     (zones.take 16).zipIdx.map fun e => (0x40 + 16 * e.2, 16, zoneImage e.1))

/-- The record of a strand in a save; one that is FREE and has commands queued keeps the pattern slots that they use (log 41). -/
def savedRecord (s : State) (c : CoreId) (k : StrandId) : List Byte :=
  let y := s.strand k
  match (s.core c).cmdq.find? fun m => m.strand == k.num && !y.live with
  | some m => strandRecord { y with pat := Vector.ofFn fun i => m.pats.getD i.val 0 }
  | none => strandRecord y
/-- The save area from offset 0x300 on. -/
def saveBody (s : State) (c : CoreId) : List Byte :=
  let x := s.core c
  ((coreStrands c).flatMap (savedRecord s c)) ++
    ((List.range 64).flatMap fun i => toBytes 64 (Table.get 0 x.skeins i).toNat) ++
    ((List.range 16).flatMap fun i =>
      match x.cmdq.find? fun m => m.entry == i with
      | some m => recBytes m.word
      | none => List.replicate 64 0) ++
    x.scratch.bytes 0 524288 ++ x.operand.bytes 0 262144 ++
    (List.range 16384).flatMap fun i => toBytes 8 (Table.get 0 x.tiles i).toNat

/-- The save area: the CRC stands at the end of the header and covers everything else. -/
def saveImage (s : State) (c : CoreId) (zones : List Range) : List Byte :=
  let h := saveHeader s c zones
  let b := saveBody s c
  h ++ toBytes 4 (crc32 (h ++ b)).toNat ++ b

/-- The pages of 64 KiB of n bytes from va: address, offset in the run, length. -/
def pageRuns (va n : Nat) : List (Nat × Nat × Nat) :=
  (pagesOf va n).map fun a =>
    let off := a - va
    (a, off, min (65536 - a % 65536) (n - off))

/-- The lines of n bytes at a place. -/
def placeLines (p : Place) (n : Nat) : List Place := (List.range (n / 128 + 2)).map fun i => p.plus (min (128 * i) (n - 1))
/-- Bytes to be written at a place have to wait: for a routine on a line, or for self-refresh (02 R68, R75). -/
def runWaits (s : State) (p : Place) (bs : List Byte) : Bool :=
  (placeLines p bs.length).any (lineBusy s) ||
    match p with
    | .dev key => writeMustWait s (bs.zipIdx.map fun b => (key + b.2, b.1))
    | _ => false
/-- Bytes to be written at a device address by a panel's swift in the service domain have to wait somewhere. -/
def serviceHeld (panel va : Nat) (bs : List Byte) (s : State) : Bool :=
  (pageRuns va bs.length).any fun r =>
    match find panel serviceDomain .write r.1 s with
    | (.later, _) => true
    | (.place p, s) => runWaits s p ((bs.drop r.2.1).take r.2.2)
    | _ => false
/-- Such bytes that wait for the DRAM enter their slices' queues (02 R75). -/
def serviceQueue (panel va : Nat) (bs : List Byte) (s : State) : State :=
  (pageRuns va bs.length).foldl (fun s r =>
    match find panel serviceDomain .write r.1 s with
    | (.place p, s) => slotQueue p ((bs.drop r.2.1).take r.2.2) s
    | (_, s) => s) s
/-- The lines of n bytes of a page counted as accesses of a panel, but for the first, which is counted as its page is found (02 R57, 07
R174). -/
def countRest (panel va : Nat) (p : Place) (n : Nat) (s : State) : State :=
  ((cutLines (n / 128 + 2) va n).drop 1).foldl (fun s l => countLine panel l.1 (p.plus (l.1 - va)) s) s
/-- Bytes written at a device address by a panel's swift in the service domain; bad: the offsets whose poison moves with
them (05 R132). The caller has seen that they need not wait. DESIGN CHOICE (log 45): a page that cannot be written takes none,
and the service tenant receives ACCESS_FAULT. -/
def serviceStore (panel va : Nat) (bs : List Byte) (bad : Nat → Bool) (s : State) : State :=
  (pageRuns va bs.length).foldl (fun s r =>
    match find panel serviceDomain .write r.1 s with
    | (.place p, s) =>
      writePlaces none (((bs.drop r.2.1).take r.2.2).zipIdx.map fun b => (p.plus b.2, b.1))
        (((List.range r.2.2).filter fun i => bad (r.2.1 + i)).map p.plus) (countRest panel r.1 p r.2.2 s)
    | (.failed cause event, s) => swiftFault panel none srcFirmware r.1 (event.getD 1) cause s
    | (.later, s) => s) s
/-- The byte at an offset of the arrays of a save area comes from a poisoned sector of the core. -/
def saveBad (x : Core) (o : Nat) : Bool :=
  (0x3800 ≤ o && o < 0x83800 && x.scratchPoison.contains ((o - 0x3800) / 32)) ||
    (0x83800 ≤ o && o < 0xC3800 && x.operandPoison.contains ((o - 0x83800) / 32))
/-- Bytes read at a device address by a panel's swift in the service domain; or why they cannot be read, or not yet. -/
def serviceLoad (s : State) (panel va n : Nat) : Except Found (List Byte) :=
  (pageRuns va n).foldl (fun l r =>
    match l with
    | .error e => .error e
    | .ok l =>
      match (find panel serviceDomain .read r.1 s).1 with
      | .place p =>
        if (placeLines p r.2.2).any fun q => placeHeld s q || lineBusy s q then .error .later
        else .ok (l ++ placeRead s p r.2.2)
      | e => .error e) (.ok [])

/-- Such a read, with what its translations and its lines leave: the tables' entries and the lines are accesses of the panel's
(02 R57, 07 R169, R174). -/
def serviceCount (panel va n : Nat) (s : State) : State :=
  (pageRuns va n).foldl (fun s r =>
    match find panel serviceDomain .read r.1 s with
    | (.place p, s) => countRest panel r.1 p r.2.2 s
    | (_, s) => s) s
/-- Bytes to be read there that have to wait enter the queues of their slices (02 R75), and keep the order of the accesses held
for their regions (R58). -/
def serviceAsk (panel va n : Nat) (s : State) : State :=
  (pageRuns va n).foldl (fun s r =>
    match find panel serviceDomain .read r.1 s with
    | (.place p, s) => (placeLines p r.2.2).foldl (fun s q => queueHeld q s) s
    | (_, s) => s) s
/-- Bytes of the service domain that cannot be read: ACCESS_FAULT to the service tenant, where its cause posts one (02 R53,
07 R171). -/
def serviceFails (panel va : Nat) (f : Found) (s : State) : State :=
  match f with
  | .failed cause event => foundFault panel none va cause event s
  | _ => s

/-- The n-th sector of an array of a save area comes from a poisoned sector of memory. -/
def serviceBad (s : State) (panel va n : Nat) : Bool :=
  (List.range 32).any fun i =>
    match (find panel serviceDomain .read (va + 32 * n + i) s).1 with
    | .place p => placeBad s p
    | _ => false

/-! ## PREEMPT -/

/-- A command is taken: ERR is cleared. -/
def accept (c : CoreId) (v : W64) (s : State) : State := s.setCore c { s.core c with err := false, corecmd := v }
/-- A command is rejected (04 R115). A retired core's registers discard writes (01 R42). -/
def reject (c : CoreId) (s : State) : State :=
  if (s.core c).status == .retired then s else s.setCore c { s.core c with err := true }

/-- The save-area address of a command. -/
def saveAddr (v : W64) : Nat := v.toNat / 16 * 16

/-- PREEMPT: every strand is to stop. -/
def preempt (c : CoreId) (v : W64) (s : State) : State :=
  let x := s.core c
  if x.status == .idle || x.status == .running then
    let s := accept c v s
    let s := s.setCore c { s.core c with
      before := x.status, status := .stopping, stopCmd := 1, saveArea := saveAddr v, zoneWaitFrom := none }
    let s := unchoose c s
    stopCheck c ((coreStrands c).foldl (fun s k => beginStop k false s) s)
  else reject c s

/-- The running-table entry of a pre-empted task stays with its save. -/
def suspend (c : CoreId) (area : Nat) (s : State) : State :=
  match runningRec s c with
  | none => s
  | some r =>
    let s := freeEntry c s
    let p := s.panel c.panel
    let s := s.setPanel c.panel { p with suspended := p.suspended ++ [(c, area, r)] }
    let x := s.core c
    s.setCore c { x with savedTenants := x.savedTenants ++ [r.tenant], tenant := r.tenant }

/-- What each live strand of a core is, for the save in an area. -/
def rolesOf (s : State) (c : CoreId) (area : Nat) : List (Nat × Nat × Role × Bool) :=
  ((coreStrands c).filter fun k => (s.strand k).live).map fun k => (area, StrandId.num k, (s.strand k).role, (s.strand k).started)
/-- The instruction in hand of each strand of a core that has issued one, for the save in an area. -/
def viewsOf (s : State) (c : CoreId) (area : Nat) : List (Nat × Nat × View × BitVec 32 × W64) :=
  (coreStrands c).filterMap fun k =>
    let x := s.strand k
    if x.live then x.view.map fun v => (area, StrandId.num k, v, x.waitParcels, x.waitPc) else none
/-- What each live strand of a core has pending that no drain waits for, for the save in an area (log 55). -/
def lastsOf (s : State) (c : CoreId) (area : Nat) : List (Nat × Nat × Pending) :=
  (coreStrands c).flatMap fun k => (s.strand k).pending.map fun p => (area, StrandId.num k, p)
/-- The save is written, the strands are FREE and the core is IDLE (04 R117 step 5); it waits where a line of the area is held. -/
def saveDone (c : CoreId) (s : State) : State :=
  let x := s.core c
  if x.stopCmd != 5 || x.gone then s
  else if !x.tileBad.isEmpty || x.tiles.any fun e => !cellOk e.2 then killCore c 3 s
  else
    let zones := (x.parkedZones.filter fun z => z.2.1 == x.saveArea).map fun z => z.2.2
    let image := saveImage s c zones
    if serviceHeld c.panel x.saveArea image s then
      (serviceQueue c.panel x.saveArea image s).post .preemptSaveDone { core := c }
    else
      let roles := rolesOf s c x.saveArea
      let views := viewsOf s c x.saveArea
      let lasting := lastsOf s c x.saveArea
      let s := serviceStore c.panel x.saveArea image (saveBad x) s
      let words := x.buffered.map fun b => (x.saveArea, b)
      let s := (coreStrands c).foldl (fun s k => if (s.strand k).live then freeStrand k s else s) s
      let s := suspend c x.saveArea s
      let s := s.setCore c { s.core c with
        status := .idle, before := .idle, stopCmd := 0, cmdq := []
        heldBuffered := ((s.core c).heldBuffered.filter fun e => e.1 != x.saveArea) ++ words
        savedRoles := ((s.core c).savedRoles.filter fun e => e.1 != x.saveArea) ++ roles
        savedViews := ((s.core c).savedViews.filter fun e => e.1 != x.saveArea) ++ views
        savedPending := ((s.core c).savedPending.filter fun e => e.1 != x.saveArea) ++ lasting
        savedQueue := ((s.core c).savedQueue.filter fun e => e.1 != x.saveArea) ++ x.cmdq.map fun m => (x.saveArea, m) }
      (s.post .dispatch { panel := c.panel }).post .handlerStart { core := c }

/-! ## RESUME -/

/-- The fields of a command queue as it was saved: entry, word. -/
def savedCommands (bs : List Byte) : List (Nat × BitVec 512) :=
  let w := ofBytes ((bs.drop 0x18).take 8)
  (List.range (min (w / 2 ^ 16 % 32) 16)).map fun i =>
    let e := (w % 16 + i) % 16
    (e, ofRecBytes ((bs.drop (0x3400 + 64 * e)).take 64))

/-- A core's arrays from a save. -/
def restoreCore (bs : List Byte) (d : BitVec 16) (badScratch badOperand : List Nat) (x : Core) : Core :=
  let f := fun (at_ n : Nat) => ofBytes ((bs.drop at_).take n)
  let m := f 0x28 8
  { x with
    domain := d
    scratch := Memory.setBytes [] 0 ((bs.drop 0x3800).take 524288)
    scratchPoison := badScratch
    operand := Memory.setBytes [] 0 ((bs.drop 0x83800).take 262144)
    operandPoison := badOperand
    tiles := (List.range 16384).foldl (fun t i => Table.set 0 t i (BitVec.ofNat 36 (f (0xC3800 + 8 * i) 8))) []
    tileBad := []
    skeins := (List.range 64).foldl (fun t i => Table.set 0 t i (BitVec.ofNat 512 (f (0x2400 + 64 * i) 64))) []
    markv := BitVec.ofNat 16 (m / 2 ^ 48)
    mcause := BitVec.ofNat 8 (m / 2 ^ 40)
    mstrand := BitVec.ofNat 4 (m / 2 ^ 36)
    stop := m / 2 ^ 20 % 2 == 1
    mbound := m / 2 ^ 6 % 2 == 1
    mflags := BitVec.ofNat 5 m
    cmdqNext := f 0x18 8 / 2 ^ 8 % 16 }

/-- The parked zones of a save, armed again with their landed counts; a zone that the core remembers keeps its number. -/
def savedZones (bs : List Byte) (parked : List Range) (id : Nat) : List Range :=
  (List.range 16).filterMap fun i =>
    let f := fun (at_ n : Nat) => ofBytes ((bs.drop (0x40 + 16 * i + at_)).take n)
    if f 4 4 = 0 then none
    else
      let old := parked.find? fun r => r.off == f 0 4 && r.len == f 4 4 && r.strand == f 12 1
      some { off := f 0 4, len := f 4 4, zone := true, id := (old.map Range.id).getD (id + i), landed := f 8 4, strand := f 12 1, armed := true }

/-- The strand of a saved record, with the role, the instruction in hand and what is pending that the core y remembers for it (log 41);
of none it is the lead or a helper that was started. -/
def savedStrand (bs : List Byte) (d : BitVec 16) (y : Core) (area : Nat) (k : StrandId) (s : State) : Strand :=
  let new := ofRecord ((bs.drop (0x300 + 0x300 * k.num)).take 768) d k.num (16 * s.steps + 256 * k.num) (s.strand k)
  if !new.live then new
  else
    let new := match y.savedRoles.find? fun e => e.1 == area && e.2.1 == k.num with
      | some e => { new with role := e.2.2.1, started := e.2.2.2 }
      | none => { new with started := k.num != 0 }
    let new := { new with pending := (y.savedPending.filter fun e => e.1 == area && e.2.1 == k.num).map fun e => e.2.2 }
    match y.savedViews.find? fun e => e.1 == area && e.2.1 == k.num && e.2.2.2.2 == new.pc with
    | some e => { new with view := some e.2.2.1, waitParcels := e.2.2.2.1, waitPc := e.2.2.2.2 }
    | none => new
/-- A command of a save, as the core y remembers its push (log 41); of none, with the pattern slots and the skein of the save. -/
def savedCommand (bs : List Byte) (d : BitVec 16) (y : Core) (area : Nat) (c : CoreId) (s : State) (e : (Nat × BitVec 512) × Nat) :
    Command :=
  let word := e.1.2
  let k := mkStrand c (recBits word 56 4)
  match y.savedQueue.find? fun q => q.1 == area && q.2.entry == e.1.1 && q.2.word == word with
  | some q => { q.2 with domain := d }
  | none =>
  { word := word, strand := k.num, entry := e.1.1, domain := d
    horizon := if (s.strand k).isFixed then some (horizon s k) else none
    id := s.nextId + e.2
    role := (s.strand k).role
    pats := (List.range 4).map fun i => BitVec.ofNat 256 (ofBytes ((bs.drop (0x300 + 0x300 * k.num + 0x160 + 32 * i)).take 32))
    skein := Table.get 0 (s.core c).skeins (cmdSk word) }

/-- Buffered words brought back with a save, each in a way of its line's set (07 R391). -/
def restoreWords (c : CoreId) (words : List BufByte) (s : State) : State :=
  words.foldl (fun s b =>
    let s := (l1Room c (b.va / 128) s).getD s
    s.setCore c { s.core c with buffered := (s.core c).buffered ++ [b] }) s

/-- A save that has passed its check is restored: the core is cleansed where its tenant changes, its state is brought back, and
its strands and commands go on (04 R118). -/
def restore (c : CoreId) (v : W64) (bs : List Byte) (s : State) : State :=
  let area := saveAddr v
  let w := ofBytes (bs.take 8)
  let d := BitVec.ofNat 16 (w / 2 ^ 16)
  let s := enterDomain c d (unchoose c (accept c v s))
  let x := s.core c
  let y := restoreCore bs d ((List.range 16384).filter (serviceBad s c.panel (area + 0x3800)))
    ((List.range 8192).filter (serviceBad s c.panel (area + 0x83800))) x
  let s := { s with nextId := s.nextId + 16 }
  let s := s.setCore c { y with
    tenant := w % 32
    ranges := y.ranges ++ savedZones bs ((y.parkedZones.filter fun z => z.2.1 == area).map fun z => z.2.2) (s.nextId - 16)
    parkedZones := y.parkedZones.filter fun z => z.2.1 != area
    heldBuffered := y.heldBuffered.filter fun e => e.1 != area
    savedRoles := y.savedRoles.filter fun e => e.1 != area
    savedViews := y.savedViews.filter fun e => e.1 != area
    savedPending := y.savedPending.filter fun e => e.1 != area
    savedQueue := y.savedQueue.filter fun e => e.1 != area
    savedTenants := y.savedTenants.erase (w % 32) }
  let s := restoreWords c ((y.heldBuffered.filter fun e => e.1 == area).map Prod.snd) s
  let s := (coreStrands c).foldl (fun s k => s.setStrand k (savedStrand bs d y area k s)) s
  let cmds := (savedCommands bs).zipIdx.map (savedCommand bs d y area c s)
  let s := { s with nextId := s.nextId + cmds.length }
  let p := s.panel c.panel
  let entry := p.suspended.find? fun e => e.1 == c && e.2.1 == area
  let s := s.setPanel c.panel { p with
    suspended := p.suspended.filter fun e => !(e.1 == c && e.2.1 == area)
    runningTable := p.runningTable ++ (entry.toList.map fun e => (c, e.2.2)) }
  let s := s.setCore c { s.core c with
    cmdq := cmds
    status := if entry.isSome || (s.strand (mkStrand c 0)).live then .running else .idle
    startWaits := (s.strand (mkStrand c 0)).wait == .helperSlot }
  let s := (coreStrands c).foldl (fun s k =>
    let held := ofBytes ((bs.drop (0x300 + 0x300 * k.num + 0x208)).take 8) / 2 ^ 55 % 2 == 1
    if (s.strand k).live && !held then recheck k (goOn k s) else s) s
  ((taskCheck c (matrixNext c (commandsGone c s))).post .handlerStart { core := c }).post .dispatch { panel := c.panel }
/-- RESUME: it waits where a line of the area is held; an area that cannot be read (log 19), or a save whose CRC fails, is
rejected. -/
def resume (c : CoreId) (v : W64) (s : State) : State :=
  if (s.core c).status != .idle || !noStrand s c then reject c s
  else
    match serviceLoad s c.panel (saveAddr v) saveSize with
    | .error .later => (serviceAsk c.panel (saveAddr v) saveSize s).post .corecmdResume { core := c, v := v }
    | .error f => reject c (serviceFails c.panel (saveAddr v) f s)
    | .ok bs =>
      let s := serviceCount c.panel (saveAddr v) saveSize s
      if ofBytes ((bs.drop 0x2FC).take 4) != (crc32 (bs.take 0x2FC ++ bs.drop 0x300)).toNat then reject c s
      else restore c v bs s

/-! ## Halts -/

/-- UNHALT: the core goes back to its state before the halt, and held work resumes. -/
def unhalt (c : CoreId) (v : W64) (s : State) : State :=
  let x := s.core c
  if x.status == .halted || x.status == .quiet then
    let s := accept c v s
    let s := s.setCore c { s.core c with status := x.before, before := .idle }
    let s := (coreStrands c).foldl (fun s k =>
      let y := s.strand k
      if y.state == .stopped && !y.held then recheck k (goOn k s) else s) s
    ((taskCheck c (matrixNext c s)).post .handlerStart { core := c }).post .dispatch { panel := c.panel }
  else reject c s

/-- ZTO has passed, or not yet: zones are parked under PREEMPT, and stay armed under HALT_QUIET (04 R120). -/
def zoneLate (c : CoreId) (s : State) : State :=
  let x := s.core c
  match x.zoneWaitFrom with
  | none => s
  | some t =>
    if s.deviceTime < t + (s.panel c.panel).zto.toNat * 1000 then s.post .zoneTimeout { core := c }
    else if x.stopCmd = 1 then
      stopCheck c (s.setCore c { x with
        ranges := x.ranges.filter fun r => !r.zone
        parkedZones := x.parkedZones ++ (x.ranges.filter Range.zone).map fun r => (x.domain, x.saveArea, r) })
    else if x.stopCmd = 4 then stopCheck c (s.setCore c { x with stopCmd := 6 })
    else s

/-- HALT or HALT_QUIET: an accepted one is kept in CORECMD. -/
def haltCommand (c : CoreId) (quiet : Bool) (v : W64) (s : State) : State :=
  let x := s.core c
  if x.status == .idle || x.status == .running || (quiet && x.status == .halted) then haltBegin c quiet x (accept c v s)
  else reject c s
/-- The event of a write of CORECMD: a store of a strand that it performs is done (01 R41). -/
def commandEvent (f : EventArg → State → State) (s : State) : Host.Outcome State Fault Refusal :=
  event (fun e s => f e (storeDone e.id s)) s

/-- CORECMD_NONE: CORECMD of core is written with command 0. -/
def execCorecmdNone (s : State) : Host.Outcome State Fault Refusal :=
  commandEvent (fun e s => if (s.core e.core).status == .retired then s else accept e.core e.v s) s
/-- CORECMD_PREEMPT: v holds the save-area address. -/
def execCorecmdPreempt (s : State) : Host.Outcome State Fault Refusal := commandEvent (fun e s => preempt e.core e.v s) s
/-- PREEMPT_SAVE_DONE: core has stopped and is saved. -/
def execPreemptSaveDone (s : State) : Host.Outcome State Fault Refusal := event (fun e s => saveDone e.core s) s
/-- CORECMD_RESUME: v holds the save-area address. -/
def execCorecmdResume (s : State) : Host.Outcome State Fault Refusal := commandEvent (fun e s => resume e.core e.v s) s
/-- CORECMD_HALT -/
def execCorecmdHalt (s : State) : Host.Outcome State Fault Refusal := commandEvent (fun e s => haltCommand e.core false e.v s) s
/-- CORECMD_HALT_QUIET -/
def execCorecmdHaltQuiet (s : State) : Host.Outcome State Fault Refusal := commandEvent (fun e s => haltCommand e.core true e.v s) s
/-- CORECMD_UNHALT -/
def execCorecmdUnhalt (s : State) : Host.Outcome State Fault Refusal := commandEvent (fun e s => unhalt e.core e.v s) s
/-- CORECMD_REJECT: a reserved command. -/
def execCorecmdReject (s : State) : Host.Outcome State Fault Refusal := commandEvent (fun e s => reject e.core s) s
/-- ZONE_TIMEOUT: the zones of core. -/
def execZoneTimeout (s : State) : Host.Outcome State Fault Refusal := event (fun e s => zoneLate e.core s) s

end Sys2Proof.Machine
end

