-- ==== Sys2Proof/Machine/Permute.lean ====
section
/-!
DEFINITION. Permute.lean: VPERM (12 R281), VRED (12 R282), VFUN (12 R283) and RAND (12 R284).
-/
namespace Sys2Proof.Machine

/-! ## VPERM -/

/-- The lanes b⟨t i⟩ that enabled result lanes i consume, in order, without repeats (12 R269). -/
def consumed (o : LaneOps) (x : Strand) (t : Nat → Option Nat) : List Nat :=
  ((guardLanes o x).filterMap t).dedup
/-- The lane count of a format-V instruction. -/
def laneCount (o : LaneOps) : Nat := 1024 / laneBits o.fmt
/-- The shift of SLDN and SLUP: P⟨pa⟩.count mod n. -/
def slide (o : LaneOps) (x : Strand) : Nat := (x.ptr o.pa).count.toNat % laneCount o

/-- A lane move of A alone. -/
def moveResult (o : LaneOps) (f : Nat → (Nat → Bool) → Strip → Strip) : LaneResult := fun x _ _ =>
  [.a (f (laneBits o.fmt) (laneGuard o x) x.a)]
/-- The same as a body. -/
def moveBody (o : LaneOps) (f : Nat → (Nat → Bool) → Strip → Strip) : Strand → Act Effect :=
  laneBody o notRead notRead (moveResult o f)

/-- A lane move of A and b. -/
def move2Result (o : LaneOps) (f : Strand → Nat → (Nat → Bool) → Strip → Strip → Strip) : LaneResult := fun x _ b =>
  let w := laneBits o.fmt
  [.a (f x w (laneGuard o x) x.a (ofLanes w (1024 / w) b))]
/-- The same as a body; rb lists the lanes of b consumed. -/
def move2Body (o : LaneOps) (rb : LaneOps → Strand → Option (List Nat))
    (f : Strand → Nat → (Nat → Bool) → Strip → Strip → Strip) : Strand → Act Effect :=
  laneBody o notRead rb (move2Result o f)

/-- The lanes of b that SLDN consumes. -/
def sldnReads (o : LaneOps) (x : Strand) : Option (List Nat) :=
  some (consumed o x fun i => if laneCount o ≤ i + slide o x then some (i + slide o x - laneCount o) else none)
/-- The lanes of b that SLUP consumes. -/
def slupReads (o : LaneOps) (x : Strand) : Option (List Nat) :=
  some (consumed o x fun i => if i < slide o x then some (laneCount o + i - slide o x) else none)
/-- The lanes of b that ZIPLO (hi = 0) and ZIPHI (hi = 1) consume. -/
def zipReads (hi : Nat) (o : LaneOps) (x : Strand) : Option (List Nat) :=
  some (consumed o x fun i => if i % 2 = 1 then some (i / 2 + hi * (laneCount o / 2)) else none)
/-- The lanes of b that UNZEV (odd = 0) and UNZOD (odd = 1) consume. -/
def unzReads (odd : Nat) (o : LaneOps) (x : Strand) : Option (List Nat) :=
  some (consumed o x fun i => if laneCount o / 2 ≤ i then some (2 * (i - laneCount o / 2) + odd) else none)
/-- The lanes of b that EXPND consumes. -/
def expndReads (o : LaneOps) (x : Strand) : Option (List Nat) := some (List.range (guardLanes o x).length)

/-- VPERM.BCAST -/
def execVpermBcast (o : LaneOps) (s : State) : Host.Outcome State Fault Refusal :=
  performNow (.vpermBcast o) (moveBody o permBcast) s
/-- VPERM.REV -/
def execVpermRev (o : LaneOps) (s : State) : Host.Outcome State Fault Refusal :=
  performNow (.vpermRev o) (moveBody o permRev) s
/-- VPERM.IOTA -/
def execVpermIota (o : LaneOps) (s : State) : Host.Outcome State Fault Refusal :=
  performNow (.vpermIota o) (moveBody o fun _ => permIota o.fmt) s
/-- VPERM.PERM -/
def execVpermPerm (o : LaneOps) (s : State) : Host.Outcome State Fault Refusal :=
  performNow (.vpermPerm o) (move2Body o lanesRead fun _ => permPerm) s
/-- VPERM.SLDN -/
def execVpermSldn (o : LaneOps) (s : State) : Host.Outcome State Fault Refusal :=
  performNow (.vpermSldn o) (move2Body o sldnReads fun x w => permSldn w (slide o x)) s
/-- VPERM.SLUP -/
def execVpermSlup (o : LaneOps) (s : State) : Host.Outcome State Fault Refusal :=
  performNow (.vpermSlup o) (move2Body o slupReads fun x w => permSlup w (slide o x)) s
/-- VPERM.ZIPLO -/
def execVpermZiplo (o : LaneOps) (s : State) : Host.Outcome State Fault Refusal :=
  performNow (.vpermZiplo o) (move2Body o (zipReads 0) fun _ w => permZip w 0) s
/-- VPERM.ZIPHI -/
def execVpermZiphi (o : LaneOps) (s : State) : Host.Outcome State Fault Refusal :=
  performNow (.vpermZiphi o) (move2Body o (zipReads 1) fun _ w => permZip w (1024 / w / 2)) s
/-- VPERM.UNZEV -/
def execVpermUnzev (o : LaneOps) (s : State) : Host.Outcome State Fault Refusal :=
  performNow (.vpermUnzev o) (move2Body o (unzReads 0) fun _ w => permUnz w 0) s
/-- VPERM.UNZOD -/
def execVpermUnzod (o : LaneOps) (s : State) : Host.Outcome State Fault Refusal :=
  performNow (.vpermUnzod o) (move2Body o (unzReads 1) fun _ w => permUnz w 1) s
/-- VPERM.COMPR -/
def execVpermCompr (o : LaneOps) (s : State) : Host.Outcome State Fault Refusal :=
  performNow (.vpermCompr o) (move2Body o lanesRead fun _ w g _ b => permCompr w g b) s
/-- VPERM.EXPND -/
def execVpermExpnd (o : LaneOps) (s : State) : Host.Outcome State Fault Refusal :=
  performNow (.vpermExpnd o) (move2Body o expndReads fun _ => permExpnd) s

/-! ## VRED -/

/-- A reduction of leaves by the tree of 09 R216 into lane 0: op combines two values at a node, last makes lane 0 of
the root and the old lane 0. -/
def redResult (o : LaneOps) (leaf : Strand → (Nat → Nat) → (Nat → Nat) → Nat → Nat × Nat)
    (op : Strand → Nat → Nat → Nat → Nat × Nat) (last : Strand → Nat → Option Nat → Nat × Nat) : LaneResult :=
  fun x a b =>
    let w := laneBits o.fmt
    let g := laneGuard o x
    let l := leaf x a b
    let (root, fl) := tree (op x) (levels w) (leaves w g fun i => (l i).1)
    let (v, fl2) := last x (lane w x.a 0) root
    let fl0 := orFlags (fun i => if g i then (l i).2 else 0) (1024 / w)
    resultWrites (setLane0 w x.a v, fl0 ||| fl ||| fl2)
/-- The same as a body. -/
def redBody (o : LaneOps) (ra rb : LaneOps → Strand → Option (List Nat))
    (leaf : Strand → (Nat → Nat) → (Nat → Nat) → Nat → Nat × Nat)
    (op : Strand → Nat → Nat → Nat → Nat × Nat) (last : Strand → Nat → Option Nat → Nat × Nat) :
    Strand → Act Effect :=
  laneBody o ra rb (redResult o leaf op last)

/-- The lanes of A as leaves. -/
def ownLeaf (o : LaneOps) (x : Strand) (_ _ : Nat → Nat) (i : Nat) : Nat × Nat := (lane (laneBits o.fmt) x.a i, 0)
/-- The lanes of b as leaves. -/
def bLeaf (_ : Strand) (_ b : Nat → Nat) (i : Nat) : Nat × Nat := (b i, 0)
/-- The rounded products a[i] × b[i] as leaves (12 R282 DOT). -/
def dotLeaf (sat : Bool) (rm : BitVec 2) (o : LaneOps) (x : Strand) (a b : Nat → Nat) (i : Nat) : Nat × Nat :=
  laneMul o.fmt sat (laneMode x rm (laneBits o.fmt) i) (a i) 0 (b i)
/-- A node that adds; its output index is its dither column (09 R208). -/
def addNode (sat : Bool) (rm : BitVec 2) (o : LaneOps) (x : Strand) (i u v : Nat) : Nat × Nat :=
  laneAdd o.fmt sat (laneMode x rm (laneBits o.fmt) i) u 0 v
/-- A node of an exact function. -/
def exactNode (fn : LaneFn) (o : LaneOps) (_ : Strand) (_ u v : Nat) : Nat × Nat := fn o.fmt false .ne u 0 v
/-- The root, or a value where no lane is enabled. -/
def rootOr (e : Nat) (_ : Strand) (_ : Nat) (r : Option Nat) : Nat × Nat := (r.getD e, 0)
/-- The root added into the old lane 0, rounded once; nothing added where no lane is enabled. -/
def rootInto (sat : Bool) (rm : BitVec 2) (o : LaneOps) (x : Strand) (old : Nat) (r : Option Nat) : Nat × Nat :=
  match r with
  | some v => laneAdd o.fmt sat (laneMode x rm (laneBits o.fmt) 0) old 0 v
  | none => (old, 0)

/-- ACC: the tree over b, added into lane 0 (12 R282). -/
def accBody (sat : Bool) (rm : BitVec 2) (o : LaneOps) : Strand → Act Effect :=
  redBody o notRead lanesRead bLeaf (addNode sat rm o) (rootInto sat rm o)

/-- VRED.SUM -/
def execVredSum (sat : Bool) (rm : BitVec 2) (o : LaneOps) (s : State) : Host.Outcome State Fault Refusal :=
  performNow (.vredSum sat rm o) (redBody o notRead notRead (ownLeaf o) (addNode sat rm o) (rootOr 0)) s
/-- VRED.MIN -/
def execVredMin (o : LaneOps) (s : State) : Host.Outcome State Fault Refusal :=
  performNow (.vredMin o) (redBody o notRead notRead (ownLeaf o) (exactNode laneMin o) (rootOr (topValue o.fmt))) s
/-- VRED.MAX -/
def execVredMax (o : LaneOps) (s : State) : Host.Outcome State Fault Refusal :=
  performNow (.vredMax o) (redBody o notRead notRead (ownLeaf o) (exactNode laneMax o) (rootOr (bottomValue o.fmt))) s
/-- VRED.ACC -/
def execVredAcc (sat : Bool) (rm : BitVec 2) (o : LaneOps) (s : State) : Host.Outcome State Fault Refusal :=
  performNow (.vredAcc sat rm o) (accBody sat rm o) s
/-- VRED.DOT -/
def execVredDot (sat : Bool) (rm : BitVec 2) (o : LaneOps) (s : State) : Host.Outcome State Fault Refusal :=
  performNow (.vredDot sat rm o)
    (redBody o lanesRead lanesRead (dotLeaf sat rm o) (addNode sat rm o) (rootInto sat rm o)) s
/-- VRED.AND -/
def execVredAnd (o : LaneOps) (s : State) : Host.Outcome State Fault Refusal :=
  performNow (.vredAnd o)
    (redBody o notRead notRead (ownLeaf o) (exactNode laneAnd o) (rootOr (2 ^ laneBits o.fmt - 1))) s
/-- VRED.OR -/
def execVredOr (o : LaneOps) (s : State) : Host.Outcome State Fault Refusal :=
  performNow (.vredOr o) (redBody o notRead notRead (ownLeaf o) (exactNode laneOr o) (rootOr 0)) s
/-- VRED.XOR -/
def execVredXor (o : LaneOps) (s : State) : Host.Outcome State Fault Refusal :=
  performNow (.vredXor o) (redBody o notRead notRead (ownLeaf o) (exactNode laneXor o) (rootOr 0)) s

/-! ## VFUN -/

/-- A correctly rounded function of the lanes of A (12 R283). -/
def funBody (rm : BitVec 2) (o : LaneOps) (fn : FunFn) : Strand → Act Effect :=
  mapBody o notRead notRead false rm fun fmt _ m a _ _ => fn fmt m a

/-- VFUN.EXP2 -/
def execVfunExp2 (rm : BitVec 2) (o : LaneOps) (s : State) : Host.Outcome State Fault Refusal :=
  performNow (.vfunExp2 rm o) (funBody rm o funExp2) s
/-- VFUN.LOG2 -/
def execVfunLog2 (rm : BitVec 2) (o : LaneOps) (s : State) : Host.Outcome State Fault Refusal :=
  performNow (.vfunLog2 rm o) (funBody rm o funLog2) s
/-- VFUN.SINT -/
def execVfunSint (rm : BitVec 2) (o : LaneOps) (s : State) : Host.Outcome State Fault Refusal :=
  performNow (.vfunSint rm o) (funBody rm o (funTurn false)) s
/-- VFUN.COST -/
def execVfunCost (rm : BitVec 2) (o : LaneOps) (s : State) : Host.Outcome State Fault Refusal :=
  performNow (.vfunCost rm o) (funBody rm o (funTurn true)) s
/-- VFUN.TANH -/
def execVfunTanh (rm : BitVec 2) (o : LaneOps) (s : State) : Host.Outcome State Fault Refusal :=
  performNow (.vfunTanh rm o) (funBody rm o funTanh) s
/-- VFUN.RECIP -/
def execVfunRecip (rm : BitVec 2) (o : LaneOps) (s : State) : Host.Outcome State Fault Refusal :=
  performNow (.vfunRecip rm o) (funBody rm o funRecip) s
/-- VFUN.RSQRT -/
def execVfunRsqrt (rm : BitVec 2) (o : LaneOps) (s : State) : Host.Outcome State Fault Refusal :=
  performNow (.vfunRsqrt rm o) (funBody rm o funRsqrt) s

/-! ## RAND -/

/-- Random words of A's groups into the enabled lanes (12 R284). The key is an operand under R269: it is read where a lane is
enabled, at a multiple of the lane's 4 bytes. -/
def randBody (k : BitVec 2) (inc : Bool) (p : BitVec 3) (f : Nat → Nat) (x : Strand) : Act Effect := do
  let j := (← get).cur
  let base := (x.ptr p).base
  let on := !(pick 32 (x.guard k)).isEmpty
  if on && base.toNat % 4 != 0 then trapAt Cause.misaligned base
  let key ← if on then loadNat j base.toNat 8 else pure 0
  pure { ws := .a (mapLanes 32 (x.guard k) x.a fun i => (f (randWord x.a key i), 0)).1 :: bump x inc p }

/-- RAND.RAW -/
def execRandRaw (la : BitVec 4) (k : BitVec 2) (inc : Bool) (p : BitVec 3) (s : State) : Host.Outcome State Fault Refusal :=
  perform (.randRaw la k inc p) la (randBody k inc p id) s
/-- RAND.UNIF -/
def execRandUnif (la : BitVec 4) (k : BitVec 2) (inc : Bool) (p : BitVec 3) (s : State) : Host.Outcome State Fault Refusal :=
  perform (.randUnif la k inc p) la (randBody k inc p unif) s

end Sys2Proof.Machine
end

