-- ==== Sys2Proof/Machine/Half.lean ====
section
/-!
DEFINITION. Half.lean: the 16-bit forms (12 R285): each has the effect of one 32-bit form.
-/
namespace Sys2Proof.Machine

/-- fmt2 as fmt: f64, f32, bf16, i32. -/
def halfFmt (f : BitVec 2) : BitVec 3 :=
  match f.toNat with
  | 0 => 4 | 1 => 5 | 2 => 6 | _ => 1
/-- The integer format of the same width: i64, i32, i16, i32. -/
def halfInt (f : BitVec 2) : BitVec 3 :=
  match f.toNat with
  | 0 => 0 | 1 => 1 | 2 => 2 | _ => 1
/-- The fields of format V that a 16-bit form stands for. -/
def halfOps (o : HOps) : LaneOps :=
  { k := o.k, fmt := halfFmt o.fmt, cb := o.ch, ib := o.inc, pb := o.p, ia := false, pa := 0 }
/-- The same with the integer format. -/
def halfBits (o : HOps) : LaneOps := { halfOps o with fmt := halfInt o.fmt }
/-- The fields of a 16-bit shift, which is of i32. -/
def halfShift (ch : Bool) (k : BitVec 2) (inc : Bool) (p : BitVec 3) : LaneOps :=
  { k := k, fmt := 1, cb := ch, ib := inc, pb := p, ia := false, pa := 0 }
/-- The fields of format M of the 16-bit store. -/
def halfSta (k : BitVec 2) (fmt : BitVec 2) (inc : Bool) (p : BitVec 3) : MemOps :=
  { la := 0, k := k, fmt := halfFmt fmt, ord := 0, sz := 7, ip := inc, p := p }

/-- H_LDA, as VARI.MOV. -/
def execHLda (o : HOps) (s : State) : Host.Outcome State Fault Refusal :=
  performNow (.hLda o) (mapBody (halfOps o) notRead lanesRead false 0 laneMov) s
/-- H_ADD, as VARI.ADD. -/
def execHAdd (o : HOps) (s : State) : Host.Outcome State Fault Refusal :=
  performNow (.hAdd o) (mapBody (halfOps o) notRead lanesRead false 0 laneAdd) s
/-- H_SUB, as VARI.SUB. -/
def execHSub (o : HOps) (s : State) : Host.Outcome State Fault Refusal :=
  performNow (.hSub o) (mapBody (halfOps o) notRead lanesRead false 0 laneSub) s
/-- H_RSUB, as VARI.RSUB. -/
def execHRsub (o : HOps) (s : State) : Host.Outcome State Fault Refusal :=
  performNow (.hRsub o) (mapBody (halfOps o) notRead lanesRead false 0 laneRsub) s
/-- H_MUL, as VARI.MUL. -/
def execHMul (o : HOps) (s : State) : Host.Outcome State Fault Refusal :=
  performNow (.hMul o) (mapBody (halfOps o) notRead lanesRead false 0 laneMul) s
/-- H_FMA, as VARI.FMAL. -/
def execHFma (o : HOps) (s : State) : Host.Outcome State Fault Refusal :=
  performNow (.hFma o) (fmalBody (halfOps o) false 0) s
/-- H_MIN, as VARI.MIN. -/
def execHMin (o : HOps) (s : State) : Host.Outcome State Fault Refusal :=
  performNow (.hMin o) (mapBody (halfOps o) notRead lanesRead false 0 laneMin) s
/-- H_MAX, as VARI.MAX. -/
def execHMax (o : HOps) (s : State) : Host.Outcome State Fault Refusal :=
  performNow (.hMax o) (mapBody (halfOps o) notRead lanesRead false 0 laneMax) s
/-- H_AND, as VBIT.AND on the integer format of the width. -/
def execHAnd (o : HOps) (s : State) : Host.Outcome State Fault Refusal :=
  performNow (.hAnd o) (mapBody (halfBits o) notRead lanesRead false 0 laneAnd) s
/-- H_OR, likewise. -/
def execHOr (o : HOps) (s : State) : Host.Outcome State Fault Refusal :=
  performNow (.hOr o) (mapBody (halfBits o) notRead lanesRead false 0 laneOr) s
/-- H_XOR, likewise. -/
def execHXor (o : HOps) (s : State) : Host.Outcome State Fault Refusal :=
  performNow (.hXor o) (mapBody (halfBits o) notRead lanesRead false 0 laneXor) s
/-- H_ACC, as VRED.ACC. -/
def execHAcc (o : HOps) (s : State) : Host.Outcome State Fault Refusal :=
  performNow (.hAcc o) (accBody false 0 (halfOps o)) s
/-- H_CMPLT, as VCMP.LT into K1. -/
def execHCmplt (o : HOps) (s : State) : Host.Outcome State Fault Refusal :=
  performNow (.hCmplt o) (cmpBody 1 (halfOps o) cmpLt) s
/-- H_STA, as STA of 128 bytes. -/
def execHSta (k : BitVec 2) (fmt : BitVec 2) (inc : Bool) (p : BitVec 3) (s : State) : Host.Outcome State Fault Refusal :=
  performNow (.hSta k fmt inc p) (staBody (halfSta k fmt inc p)) s
/-- H_SHL, as VBIT.SHL of i32. -/
def execHShl (ch : Bool) (k : BitVec 2) (inc : Bool) (p : BitVec 3) (s : State) : Host.Outcome State Fault Refusal :=
  performNow (.hShl ch k inc p) (mapBody (halfShift ch k inc p) notRead lanesRead false 0 laneShl) s
/-- H_SHRA, as VBIT.SHRA of i32. -/
def execHShra (ch : Bool) (k : BitVec 2) (inc : Bool) (p : BitVec 3) (s : State) : Host.Outcome State Fault Refusal :=
  performNow (.hShra ch k inc p) (mapBody (halfShift ch k inc p) notRead lanesRead false 0 laneShra) s

end Sys2Proof.Machine
end

