-- ==== Sys2Proof/Machine/Hosts.lean ====
section
/-!
DEFINITION. Hosts.lean: what the host does to the package: tenant windows (03 R83), ships (R85), EVCONS (R95), and the
management mailbox with its commands (R97–R99; 02 R73; 15 R355, R356).
-/
namespace Sys2Proof.Machine

/-! ## Tenant windows (03 R83) -/

/-- The device virtual address behind n bytes at a BAR4 offset of a tenant; none where no enabled window holds them. -/
def windowVa (x : Tenant) (off n : Nat) : Option Nat :=
  x.windows.findSome? fun w =>
    let base := w.2.1.toNat / 2 ^ 21 * 2 ^ 21
    let len := (w.2.1.toNat / 2 % 2 ^ 20 + 1) * 2 ^ 21
    if w.2.1.getLsbD 0 && base ≤ off && off + n ≤ base + len then some (w.2.2.toNat + (off - base)) else none

/-- What a host access finds, piece by piece: places, or the cause of the first failure, or that it must wait. -/
def hostPlaces (d : BitVec 16) (acc : Acc) : List (Nat × Nat) → State → Except (Option Nat) (List (Place × Nat)) × State
  | [], s => (.ok [], s)
  | (va, n) :: ps, s =>
    match find 0 d acc va s with
    | (.later, s) => (.error none, s)
    | (.failed c _, s) => (.error (some c), s)
    | (.place p, s) =>
      match hostPlaces d acc ps s with
      | (.ok l, s) => (.ok ((p, n) :: l), s)
      | r => r

/-- Unsupported Request, with ACCESS_FAULT to the tenant: code 6 read, 7 write. -/
def hostRefused (tenant addr code cause : Nat) (s : State) : State :=
  let s := s.withPackage fun p => { p with hostErrors := p.hostErrors + 1 }
  postEvent s (some tenant) srcFirmware 4 [(24, 8, addr), (32, 1, code), (33, 1, cause)]

/-- A host access that has to wait is tried again before the host's later ones: PCIe keeps their order. -/
def hostLater (i : Instr) (arg : EventArg) (s : State) : State :=
  let later := fun (t : Turn) => match t with
    | .event j _ => j == .hostWindowWrite || j == .hostWindowRead || j == .shipgo
    | _ => false
  let before := s.agenda.takeWhile fun t => !later t
  { s with agenda := before ++ .event i arg :: s.agenda.drop before.length }

/-- A host access of an address range that the port does not offer. -/
def hostUnsupported (s : State) : State := s.withPackage fun p => { p with hostErrors := p.hostErrors + 1 }
/-- A read of n bytes at a BAR4 offset. While boot is stopped the port offers no BAR4 (01 R20; log 47). DESIGN CHOICE (log 56): the
ACCESS_FAULT of an access in no enabled window carries the BAR4 offset, and goes to the tenant that the access is made for; a read
may be performed before an earlier write of the host that is still on its way to its home slice. -/
def windowRead (arg : EventArg) (s : State) : State :=
  let t := arg.tenant
  if bootStopped s then hostUnsupported s
  else match windowVa (s.tenant t) arg.a arg.b with
  | none => hostRefused t arg.a 6 Cause.addrHole s
  | some va =>
    match hostPlaces (tenantDomain s t) .read (cutLines (arg.b / 128 + 2) va arg.b) s with
    | (.error none, s) => hostLater .hostWindowRead arg s
    | (.error (some c), s) => hostRefused t va 6 c s
    | (.ok l, s) =>
      let s := l.foldl (fun s e => match e.1 with | .dev key => homeTouch key false s | _ => s) s
      let bytes := l.flatMap fun e => placeRead s e.1 e.2
      let bad := l.any fun e => (List.range e.2).any fun i => placeBad s (e.1.plus i)
      s.withPackage fun p => { p with hostReads := p.hostReads ++ [(arg.id, bytes, bad)] }
/-- A host read: c is 0 for a tenant window, 1 for BAR0, 2 for BAR2; a is the offset, b the bytes, id the tag. -/
def hostRead (arg : EventArg) (s : State) : State :=
  if arg.c = 0 then windowRead arg s
  else if !hostSizeOk arg.a arg.b then hostUnsupported s
  else
    let bytes := toBytes arg.b (hostRegRead s (arg.c - 1) arg.a arg.b).toNat
    s.withPackage fun p => { p with hostReads := p.hostReads ++ [(arg.id, bytes, false)] }
/-- HOST_WINDOW_READ -/
def execHostWindowRead (s : State) : Host.Outcome State Fault Refusal := event hostRead s

/-- A write of at most 8 bytes at a BAR4 offset: it goes to its homes as a store that registers no owner. -/
def windowWrite (arg : EventArg) (s : State) : State :=
  let t := arg.tenant
  if bootStopped s then hostUnsupported s
  else match windowVa (s.tenant t) arg.a arg.b with
  | none => hostRefused t arg.a 7 Cause.addrHole s
  | some va =>
    if s.stores.any fun r => r.path == 7 then hostLater .hostWindowWrite arg s
    else
      match hostPlaces (tenantDomain s t) .write (cutLines (arg.b / 128 + 2) va arg.b) s with
      | (.error none, s) => hostLater .hostWindowWrite arg s
      | (.error (some c), s) => hostRefused t va 7 c s
      | (.ok l, s) =>
        let places := l.flatMap fun e => (List.range e.2).map fun i => e.1.plus i
        let (id, s) := s.fresh
        let r : StoreReq := { id := id, core := 0, strand := t, path := 7, va := va
                              bytes := places.zip (toBytes arg.b arg.v.toNat) }
        ({ s with stores := s.stores ++ [r] } : State).post .homeAccess { id := id }
/-- HOST_WINDOW_WRITE: b bytes of v at BAR4 offset a of tenant. -/
def execHostWindowWrite (s : State) : Host.Outcome State Fault Refusal := event windowWrite s

/-! ## Ships of the host (03 R84, R85) -/

/-- SHIPREP: status, hint, error code, status byte, flags. -/
def shipReport (status hint code byte flags : Nat) : W64 :=
  BitVec.ofNat 64 (status * 2 ^ 62 + hint % 2 ^ 16 * 2 ^ 32 + code % 2 ^ 16 * 2 ^ 16 + byte % 256 * 2 ^ 8 + flags % 32)
/-- The ship ends in ERROR with a cause, and no values. -/
def shipFails (t cause : Nat) (s : State) : State :=
  s.setTenant t { s.tenant t with shipRep := shipReport 3 0 cause 0 0, shipVals := [] }

/-- The alignment of a host's ship. -/
def hostAlign (n : Nat) : Nat := if 24 ≤ n ∧ n ≤ 29 then 16 else shipAlign n

/-- The ship goes to its hook once the host's earlier writes are performed; a failed access of its target posts ACCESS_FAULT
where its cause does (02 R53, 07 R171). -/
def shipStart (arg : EventArg) (s : State) : State :=
  let t := arg.tenant
  let x := s.tenant t
  let n := arg.v.toNat % 256
  let law := decide (24 ≤ n ∧ n ≤ 29)
  let op := fun (i : Nat) => x.shipArgs.getD i 0
  let addr := (op 0).toNat
  let d := tenantDomain s t
  if s.stores.any fun r => r.path == 7 then hostLater .shipgo { arg with b := 1 } s
  else if addr % hostAlign n != 0 then shipFails t Cause.misaligned s
  else
    match find 0 d (if law then .law else .ship) addr s with
    | (.later, s) => hostLater .shipgo { arg with b := 1 } s
    | (.failed c event, s) =>
      shipFails t c (match event with
        | some code => postEvent s (some t) srcFirmware 4 [(24, 8, addr), (32, 1, code), (33, 1, c)]
        | none => s)
    | (.place p, s) =>
      let (id, s) := s.fresh
      let s := s.setTenant t { s.tenant t with shipId := id }
      sendHook
        { id := id, routine := n, place := p, va := op 0, h0 := op 1, h1 := op 2, h3 := op 3, domain := d
          rm := arg.v.extractLsb' 8 2, tenant := t, requester := .host t, acquire := false, stage := 0 } s

/-- SHIPGO written: discarded while busy, ERROR for bad fields. Once the write is taken (b is 1) the ship is as SHIPGO found the
page. -/
def shipgoStore (arg : EventArg) (s : State) : State :=
  let t := arg.tenant
  let v := arg.v.toNat
  if !(s.tenant t).present then s
  else if arg.b = 0 then shipgoTake t arg.v s
  else if v / 2 ^ 10 != 0 || (v / 256 != 0 && v % 256 != 13) then shipFails t Cause.hookError s
  else shipStart arg s
/-- SHIPGO: v is written to the tenant's page. -/
def execShipgo (s : State) : Host.Outcome State Fault Refusal :=
  event (fun e s => if bootStopped s then s else shipgoStore e s) s

/-- The values a reply leaves in SHIPVAL–SHIPVAL4: a report's four lanes for routines 24–29, else two. DESIGN CHOICE (log 56): after
routine 26, which has no report (13 R308), they read zero. -/
def shipValues (r : HookReq) (vals : List W64) : Table W64 :=
  let l := if r.routine = 26 then [] else if 24 ≤ r.routine ∧ r.routine ≤ 29 then vals.take 4 else vals.take 2
  l.zipIdx.foldl (fun t e => Table.set 0 t e.2 e.1) []

/-- The hook's reply reaches the tenant's page. -/
def shipReplied (t id : Nat) (s : State) : State :=
  match hookReq s id with
  | none => s
  | some r =>
    match r.requester, r.reply with
    | .host _, some reply =>
      let s := dropHook id s
      let x := s.tenant t
      if x.shipId != id then s
      else
        match reply with
        | .done vals status flags =>
          s.setTenant t { x with shipRep := shipReport 1 0 0 status flags, shipVals := shipValues r vals }
        | .error c => shipFails t c.toNat s
        | .refused hint => s.setTenant t { x with shipRep := shipReport 2 hint.toNat 0 0 0, shipVals := [] }
    | _, _ => s
/-- HOST_SHIP_REPLY: the reply to request id of tenant. -/
def execHostShipReply (s : State) : Host.Outcome State Fault Refusal := event (fun e s => shipReplied e.tenant e.id s) s

/-- EVCONS_WRITE: the host advances EVCONS of tenant to v (03 R95). -/
def execEvconsWrite (s : State) : Host.Outcome State Fault Refusal :=
  event (fun e s => if (s.tenant e.tenant).present && !bootStopped s then
    ringResume e.tenant (s.setTenant e.tenant { s.tenant e.tenant with evCons := e.v }) else s) s

/-! ## Requests of the management mailbox (03 R97, R98) -/

/-- A byte of the request. -/
def mailField (s : State) (at_ n : Nat) : Nat := recBits s.package.mailReq (8 * at_) (8 * n)

/-- A host buffer lies inside an enabled DMAWIN; an empty one lies anywhere (log 18). -/
def hostRange (s : State) (a n : Nat) : Bool :=
  n == 0 || s.package.windows.any fun w =>
    decide (w.1 < 16) && w.2.2.2 && decide (w.2.1.toNat * 65536 ≤ a ∧ a + n ≤ (w.2.2.1.toNat + 1) * 65536)

/-- The fields of a request in rising order: first byte, and whether its value is allowed. Bytes not listed are zero. -/
def mailRules (s : State) : List (Nat × Bool) :=
  let f := mailField s
  let zero := fun (a n : Nat) => (List.range n).map fun i => (a + i, f (a + i) 1 == 0)
  match f 0 2 with
  | 1 =>
    [(2, decide (f 2 1 < 32))] ++ zero 3 1 ++ [(24, decide (1 ≤ f 24 1 ∧ f 24 1 ≤ 15))] ++ zero 25 1 ++
      [(26, decide (1 ≤ f 26 2))] ++ zero 28 4 ++
      [(32, hostRange s (f 32 8) (32 * min (f 40 1) 8)), (40, decide (f 40 1 ≤ 8))] ++ zero 41 19
  | 2 => [(2, decide (f 2 1 < 32))] ++ zero 3 57
  | 3 =>
    [(2, decide (f 2 1 < 32)), (3, decide (f 3 1 < 16)), (4, decide (f 4 1 < 12)),
     (5, decide (3 ≤ f 5 1 ∧ f 5 1 ≤ 16)), (6, decide (f 6 1 ≤ 8))] ++ zero 7 1 ++
      [(8, decide (f 8 8 % 128 = 0)), (16, decide (f 16 8 % 64 = 0))] ++ zero 24 36
  | 4 => [(2, decide (f 2 1 < 32)), (3, decide (f 3 1 < 16))] ++ zero 4 56
  | 5 =>
    zero 2 1 ++ [(3, decide (48 ≤ f 3 1)), (8, decide (1 ≤ f 8 1 ∧ f 8 1 ≤ 16))] ++ zero 9 7 ++
      [(16, hostRange s (f 16 8) (4 * min (f 8 1) 16))] ++ zero 24 36
  | 6 => zero 2 2 ++ [(52, decide (f 52 8 % 64 = 0) && hostRange s (f 52 8) 4096)]
  | _ => [(0, false)]

/-- What makes the request invalid: the offset of its field, the fields taken from the highest down (R93), or 65,535 for its
CRC. DESIGN CHOICE (log 56): a request whose CRC fails, which 03 R90 has discarded unread, is answered invalid with 65,535. -/
def mailProblem (s : State) : Option Nat :=
  if !recordOk s.package.mailReq then some 0xFFFF
  else ((mailRules s).reverse.find? fun e => !e.2).map Prod.fst

/-- The reply: status, offset of the field, and bytes 4–59. -/
def mailReply (status off : Nat) (fields : List (Nat × Nat × Nat)) (s : State) : State :=
  let r := sealRecord (ofRecBytes (layout 64 ([(0, 2, status), (2, 2, if status = 0 then 0 else off)] ++ fields)))
  s.withPackage fun p => { p with mailRep := r, doorbell := false }

/-- An invalid request: its event (03 R90), and its reply. DESIGN CHOICE (log 56): a request whose CRC fails is unread, so its event
goes to the service tenant; that of one with a bad field goes to the tenant it names, if that is present; the record address of
either is the mailbox's BAR2 offset. -/
def mailInvalid (s : State) : State :=
  if !s.package.doorbell then s
  else
    match mailProblem s with
    | none => s
    | some off =>
      let t := mailField s 2 1
      let who := if off != 0xFFFF && t < 32 && (s.tenant t).present then some t else none
      let base := [(24, 8, 0x20000), (32, 1, 3), (33, 1, 0xFF)]
      let s := if off = 0xFFFF then postEvent s who srcFirmware 2 base
        else postEvent s who srcFirmware 3 (base ++ [(34, 2, 8 * off)])
      mailReply 2 off [] s
/-- MAILBOX_INVALID -/
def execMailboxInvalid (s : State) : Host.Outcome State Fault Refusal := event (fun _ s => mailInvalid s) s

/-- A command of the mailbox is carried out: it is the request's, the doorbell reads 1, and the request is valid. No firmware
carries it out while boot is stopped (01 R20; log 47). -/
def mailCommand (cmd : Nat) (f : State → State) (s : State) : State :=
  if !s.package.doorbell || bootStopped s then s
  else if (mailProblem s).isSome || mailField s 0 2 != cmd then mailInvalid s
  else f s

/-! ## Declarations (15 R355, R356) -/

/-- A declaration record: where it stands, its header and its payload. -/
structure Decl where
  off : Nat
  kind : Nat
  pal : Nat
  index : Nat
  payload : List Byte
  /-- the must-be-zero bytes are zero -/
  clean : Bool
  deriving DecidableEq, Repr

/-- The records of a section from an offset on; n bounds them. A header without its payload is none. -/
def declsFrom (bs : List Byte) : Nat → Nat → Option (List Decl)
  | 0, _ => none
  | n + 1, off =>
    if bs.length ≤ off then some []
    else
      let f := fun (a k : Nat) => ofBytes ((bs.drop (off + a)).take k)
      let len := f 6 2
      let next := off + 16 + (len + 15) / 16 * 16
      if bs.length < off + 16 || bs.length < off + 16 + len then none
      else
        (declsFrom bs n next).map fun l =>
          { off := off, kind := f 4 1, pal := f 5 1, index := f 8 1, payload := (bs.drop (off + 16)).take len
            clean := f 9 1 == 0 && f 12 4 == 0 } :: l
/-- A number in a payload. -/
def Decl.field (d : Decl) (a n : Nat) : Nat := ofBytes ((d.payload.drop a).take n)

/-- A record keeps its rules (15 R355). -/
def declOk (s : State) (d : Decl) : Bool :=
  let f := d.field
  let len := fun (n : Nat) => d.payload.length == n
  let scope := fun (a : Nat) => decide (f a 1 < 2) && (decide (f (a + 1) 1 < 12) || f (a + 1) 1 == 0xFF)
  let pal := d.pal == 0xFF || decide (d.pal < 16)
  d.clean &&
    match d.kind with
    | 1 => len 32 && d.pal == 0xFF && !lawInvalid s (BitVec.ofNat 256 (f 0 32))
    | 2 => len 16 && pal && decide (1 ≤ f 0 2 ∧ f 0 2 ≤ 4096) && scope 2 && f 4 12 == 0
    | 3 => len 16 && pal && scope 4 && f 6 10 == 0
    | 4 => len 16 && d.pal == 0xFF && decide (1 ≤ f 0 2 ∧ f 0 2 ≤ 64) && decide (f 2 4 % 128 = 0 ∧ 128 ≤ f 2 4 ∧ f 2 4 ≤ 65536) &&
        decide (f 6 1 < 12) && decide (f 7 1 < 192) && decide (f 8 4 % 128 = 0) &&
        decide (f 8 4 + f 0 2 * f 2 4 ≤ 524288) && f 12 4 == 0
    | 5 => len 16 && d.pal == 0xFF && decide (1 ≤ f 0 1 ∧ f 0 1 ≤ 64) && decide (1 ≤ f 1 1 ∧ f 1 1 ≤ 2) && f 2 14 == 0
    | _ => false

/-- No two laws share an INDEX, no two records a palette entry. -/
def declsDistinct (l : List Decl) : Bool :=
  let laws := (l.filter fun d => d.kind == 1).map Decl.index
  let pals := (l.map Decl.pal).filter fun p => p != 0xFF
  laws.dedup.length == laws.length && pals.dedup.length == pals.length

/-- The object kind of a declaration. -/
def declObj (d : Decl) : Option ObjKind :=
  match d.kind with
  | 2 => some .barrier
  | 3 => some .counter
  | 4 => some .ring
  | _ => none

/-- The n numbers from c on, cyclically: the first that passes. -/
def firstFrom (c n : Nat) (test : Nat → Bool) : Option Nat := look n
where
  /-- The last i of the n numbers looked at. -/
  look : Nat → Option Nat
  | 0 => none
  | i + 1 => if test ((c + (n - (i + 1))) % n) then some ((c + (n - (i + 1))) % n) else look i

/-- A free object for a declaration: firmware's choice among those of its scope and panel; where the panel is firmware's choice
too, another has one while the first is full (15 R356). -/
def freeObject (s : State) (d : Decl) (kind : ObjKind) : Option Nat :=
  let at_ := match kind with | .barrier => 2 | .counter => 4 | .ring => 5
  let package := kind != .ring && d.field at_ 1 == 1
  let asked := d.field (at_ + 1) 1
  let panels := if asked = 0xFF then (List.range 12).map fun i => ((Config.panelChoice s.steps d.off).val + i) % 12 else [asked]
  panels.findSome? fun panel =>
    let name := fun (i : Nat) => if package then 2 ^ 15 + i else panel * 1024 + i
    (firstFrom (Config.objectChoice s.steps d.off) 1024 fun i =>
      objNamed kind (name i) && (!package || i < 256) && (objOwner s kind (name i)).isNone).map name

/-- An object assigned to a domain and configured by its declaration. -/
def assignObject (d : Decl) (kind : ObjKind) (id : Nat) (dom : BitVec 12) (s : State) : State :=
  match kind with
  | .barrier => setBarrier id { owner := some dom, expect := BitVec.ofNat 13 (d.field 0 2), gen := (barrierOf s id).gen } s
  | .counter =>
    let v := BitVec.ofNat 32 (d.field 0 4)
    setCounter id { owner := some dom, value := v, installed := v } s
  | .ring => setRing id
      { owner := some dom, slots := BitVec.ofNat 7 (d.field 0 2), base := d.field 8 4, size := d.field 2 4
        core := mkCore (d.field 6 1) (d.field 7 1) } s

/-- A palette entry for an object: BASE is its current generation (08 R195, R198). -/
def paletteWord (s : State) (kind : ObjKind) (id : Nat) : W64 :=
  let base := match kind with
    | .barrier => (barrierOf s id).gen.toNat
    | .counter => (counterOf s id).value.toNat % 2 ^ 18
    | .ring => 0
  BitVec.ofNat 64 (base * 2 ^ 32 + (if kind == .barrier then 2 ^ 17 else 0) + 2 ^ 16 + id)

/-- One declaration installed for a tenant; none where no object is free. The list gathers the ID fields to be written. -/
def installDecl (t : Nat) (dom : BitVec 12) (d : Decl) (r : State × List (Nat × Nat)) : Option (State × List (Nat × Nat)) :=
  let s := r.1
  match declObj d with
  | none =>
    if d.kind = 1 then some (setPaBytes s (lawEntryPa s t d.index) (toBytes 32 (d.field 0 32)), r.2)
    else some (s, r.2 ++ [(d.off, d.index)])
  | some kind =>
    (freeObject s d kind).map fun id =>
      let s := assignObject d kind id dom s
      let x := s.tenant t
      let s := if d.pal = 0xFF then s
        else s.setTenant t { x with pal := Table.set 0 x.pal d.pal (paletteWord s kind id) }
      (s, r.2 ++ [(d.off, id)])

/-- A declaration leaves the panel of its object to firmware. -/
def panelOpen (d : Decl) : Bool :=
  match declObj d with
  | some .barrier => d.field 3 1 == 0xFF
  | some .counter => d.field 5 1 == 0xFF
  | _ => false
/-- Declarations as firmware takes them: an object whose panel is left to it takes none from a record that names a panel (15 R356). -/
def declsOrdered (l : List Decl) : List Decl := l.filter (fun d => !panelOpen d) ++ l.filter panelOpen
/-- The declarations installed in order. -/
def installDecls (t : Nat) (dom : BitVec 12) : List Decl → State × List (Nat × Nat) → Option (State × List (Nat × Nat))
  | [], r => some r
  | d :: ds, r => (installDecl t dom d r).bind (installDecls t dom ds)

/-! ## Tenants (03 R97, R98; 07 R168) -/

/-- The windows that a window block describes; none where one breaks its rule. -/
def readWindows (s : State) (block n : Nat) : Option (Table (W64 × W64)) :=
  let word := fun (i j : Nat) => ofBytes (hostBytes s (block + 32 * i + 8 * j) 8)
  let good := fun (i : Nat) =>
    decide (word i 0 % 2 ^ 21 = 0 ∧ word i 1 % 2 ^ 21 = 0 ∧ word i 1 < 2 ^ 57) &&
      decide (word i 2 % 2 ^ 21 = 0 ∧ 2 ^ 21 ≤ word i 2 ∧ word i 2 ≤ 2 ^ 41) && word i 3 == 0
  if (List.range n).all good then
    some ((List.range n).foldl (fun t i =>
      Table.set (0, 0) t i
        (BitVec.ofNat 64 (word i 0 + (word i 2 / 2 ^ 21 - 1) * 2 + 1), BitVec.ofNat 64 (word i 1))) [])
  else none

/-- The domain identifier firmware chooses: a free one from 4 to 4,094. -/
def chooseDomain (s : State) : Option Nat :=
  (firstFrom (Config.domainChoice s.steps) 4091 fun i =>
    !(List.range 32).any fun t => tenantValid s t && domId (tenantDomain s t) == 4 + i).map fun i => 4 + i

/-- The declarations section of a request; none where it cannot be read, or not yet. -/
def declBytes (s : State) : Except Found (List Byte) :=
  let len := mailField s 16 4
  if len = 0 then .ok [] else serviceLoad s 0 (mailField s 8 8) len
/-- The section read, with what its translations and its lines leave (02 R57). -/
def declCount (s : State) : State :=
  let len := mailField s 16 4
  if len = 0 then s else serviceCount 0 (mailField s 8 8) len s
/-- The declarations of a section; none where a record breaks its rule. -/
def readDecls (s : State) (bs : List Byte) : Option (List Decl) :=
  (declsFrom bs (bs.length / 16 + 2) 0).filter fun l => l.all (declOk s) && declsDistinct l

/-! ## The place of a law table (13 R302) -/

/-- The entries other than zero of a page table of n bytes at a physical address. -/
def tableEntries (s : State) (pa n : Nat) : List W64 :=
  match paKey s pa with
  | none => []
  | some key =>
    (((s.dmem.filter fun b => key ≤ b.1 && b.1 < key + n).map fun b => b.1 / 8).dedup).map fun i =>
      BitVec.ofNat 64 (s.dmem.nat (8 * i) 8)
/-- The physical memory (address, size) in use under a page table of a level: the tables, and the pages that they map (07 R169,
R170). -/
def usedExtents (s : State) : Nat → Nat → List (Nat × Nat)
  | level, pa =>
    let n := 8 * levelCount level
    (pa, n) :: (tableEntries s pa n).flatMap fun e =>
      if pteState e = 1 then
        match level with
        | 0 => []
        | l + 1 => usedExtents s l (pteTarget e * 256)
      else if pteState e = 2 || pteState e = 5 then [(pteTarget e * 65536, 2 ^ levelShift level)]
      else []
/-- A block of 8 KiB can take a tenant's law table: its region is valid, normal and DRAM, and neither the page tables, nor a page that
they map, nor the table of a tenant present lies there. -/
def lawBlockFree (s : State) (used : List (Nat × Nat)) (b : Nat) : Bool :=
  let e := paEntry s (b * 8192)
  regionOk s e && rgState e == 0 && rgClass e != 2 &&
    (used.all fun u => decide (u.1 + u.2 ≤ b * 8192 ∨ b * 8192 + 8192 ≤ u.1)) &&
    !(s.tenants.any fun t => t.2.present && t.2.lawbase.toNat / 8192 == b)
/-- Where firmware puts the law table of a new tenant: the first block that can take it, from one of its choice on (log 18). -/
def lawPlace (s : State) (t : Nat) : Option Nat :=
  let used := usedExtents s 3 s.package.ptroot.toNat
  (firstFrom (Config.lawTable t) (2 ^ 27) (lawBlockFree s used)).map fun b => b * 8192

/-- A tenant's registers as TENANT_CREATE sets them, with its law table at base. -/
def newTenant (s : State) (dom : BitVec 16) (windows : Table (W64 × W64)) (base : Nat) : Tenant :=
  let life := mailField s 20 4
  { present := true
    tdom := BitVec.ofNat 64 (2 ^ 16 + dom.toNat)
    tlife := if life = 0 then 1000 else BitVec.ofNat 32 life
    pquota := BitVec.ofNat 64 (mailField s 4 4)
    lawbase := BitVec.ofNat 64 base
    windows := windows }

/-- TWEIGHT and TDIVTO of a new tenant on every panel. -/
def setWeights (t : Nat) (s : State) : State :=
  (List.range 12).foldl (fun s p =>
    let x := s.panel p
    s.setPanel p { x with
      tweight := Table.set 1 x.tweight t (BitVec.ofNat 4 (mailField s 24 1))
      tdivto := Table.set 1000 x.tdivto t (BitVec.ofNat 16 (mailField s 26 2)) }) s

/-- A tenant created in a domain with its windows and its declarations, all of them or nothing; it waits where a line of the
section is held. No copy of an earlier tenant's law entries is left (13 R303). -/
def installTenant (t id base : Nat) (windows : Table (W64 × W64)) (decls : List Decl) (s : State) : State :=
  let g := Table.get (0, 0) s.package.gens id
  let dom := BitVec.ofNat 16 (id * 16 + (g.1 + 1).toNat)
  let u := s.setTenant t (newTenant s dom windows base)
  let u := dropLaws t 0 255 (setPaBytes u (lawEntryPa u t 0) (List.replicate 8192 0))
  match installDecls t (BitVec.ofNat 12 id) (declsOrdered decls) (u, []) with
  | none => mailReply 1 8 [] s
  | some (u, ids) =>
    let field := fun (e : Nat × Nat) => mailField s 8 8 + e.1 + 10
    if ids.any fun e => serviceHeld 0 (field e) (toBytes 2 e.2) s then
      (ids.foldl (fun s e => serviceQueue 0 (field e) (toBytes 2 e.2) s) s).post .tenantCreate {}
    else
      let u := ids.foldl (fun u e => serviceStore 0 (field e) (toBytes 2 e.2) (fun _ => false) u) u
      let u := u.withPackage fun p => { p with gens := Table.set (0, 0) p.gens id (g.1 + 1, g.2) }
      mailReply 0 0 [(4, 2, dom.toNat)] (setWeights t u)

/-- TENANT_CREATE: nothing is installed unless all of it can be. DESIGN CHOICE (log 56): one for a tenant that is present is refused,
at the offset of its TENANT byte; one that finds no domain identifier or no place for its law table free is answered busy. -/
def createTenant (s : State) : State :=
  let t := mailField s 2 1
  if (s.tenant t).present then mailReply 1 2 [] s
  else
    match readWindows s (mailField s 32 8) (mailField s 40 1) with
    | none => mailInvalidAt 32 s
    | some windows =>
      match declBytes s with
      | .error .later => (serviceAsk 0 (mailField s 8 8) (mailField s 16 4) s).post .tenantCreate {}
      | .error f => mailReply 1 8 [] (serviceFails 0 (mailField s 8 8) f s)
      | .ok bs =>
        let s := declCount s
        match readDecls s bs with
        | none => mailReply 1 8 [] s
        | some decls =>
          match chooseDomain s, lawPlace s t with
          | some id, some base =>
            let g := Table.get (0, 0) s.package.gens id
            if g.1 + 1 == g.2 then mailReply 4 0xFFFF [] s else installTenant t id base windows decls s
          | _, _ => mailReply 4 0xFFFF [] s
where
  /-- A window block that breaks its rule makes the request invalid. -/
  mailInvalidAt (off : Nat) (s : State) : State := mailReply 2 off [] s
/-- TENANT_CREATE -/
def execTenantCreate (s : State) : Host.Outcome State Fault Refusal := event (fun _ s => mailCommand 1 createTenant s) s

/-- Bytes to be written into a line of a header, at offsets of it, have to wait. -/
def headerWaits (s : State) (p : Place) (bs : List (Nat × Byte)) : Bool :=
  lineBusy s p ||
    match p with
    | .dev key => writeMustWait s (bs.map fun b => (key + b.1, b.2))
    | _ => false
/-- Such bytes that wait for the DRAM enter the slice's queue (02 R75). -/
def headerQueue (p : Place) (bs : List (Nat × Byte)) (s : State) : State :=
  match p with
  | .dev key => if writeMustWait s (bs.map fun b => (key + b.1, b.2)) then queueParty key s else s
  | _ => s
/-- The pending records of a tenant consumed undispatched (04 R121). -/
def consumePending (t : Nat) (s : State) : State :=
  { s with panels := Table.mapValues {} (fun (p : Panel) => { p with
      consumed := p.consumed ++ (p.records.filter fun r => r.tenant == t).map fun r => (r.tenant, r.queue, r.slot)
      records := p.records.filter fun r => r.tenant != t }) s.panels }
/-- What TENANT_DESTROY writes into the header of queue n: READ passes the records consumed, all published packets of a copy
queue (14 R337), and STATE is off. -/
def closedHeader (s : State) (t n : Nat) (q : Queue) (h : Header) : List (Nat × Byte) :=
  let read := if q.consumer = 0 then nextReadOf (consumePending t s) q.panel t n h.read else h.pub
  ((toBytes 8 read).zipIdx.map fun b => (16 + b.2, b.1)) ++ [(41, 0)]
/-- The header of a queue cannot be closed yet. -/
def closeHeld (s : State) (t : Nat) (e : Nat × Queue) : Bool :=
  match headerAt e.2.panel t e.2.header s with
  | (.error .later, _) => true
  | (.ok (p, h), s) => headerWaits s p (closedHeader s t e.1 e.2 h)
  | _ => false
/-- The header of a queue that cannot be closed yet enters the slice's queue where it waits for the DRAM (02 R75). -/
def closeQueue (t : Nat) (e : Nat × Queue) (s : State) : State :=
  match headerAt e.2.panel t e.2.header s with
  | (.ok (p, h), s) => headerQueue p (closedHeader s t e.1 e.2 h) s
  | (.error _, s) => s
/-- The header of a queue closed, where it can be had. -/
def closeHeader (t : Nat) (e : Nat × Queue) (s : State) : State :=
  match headerAt e.2.panel t e.2.header s with
  | (.ok (p, h), s) => headerWrite e.2.panel e.2.header p (closedHeader s t e.1 e.2 h) s
  | (.error _, s) => s

/-- A queue of a tenant no longer known to its consumer. -/
def unbindQueue (t n : Nat) (s : State) : State :=
  let s := { s with panels := Table.mapValues {} (fun (p : Panel) => { p with
    qbind := p.qbind.filter fun e => !(e.2.getLsbD 54 && e.2.toNat / 2 ^ 59 == t && e.2.toNat / 2 ^ 55 % 16 == n)
    records := p.records.filter fun r => !(r.tenant == t && r.queue == n)
    nextRead := Table.set 0 p.nextRead (t * 16 + n) 0
    consumed := p.consumed.filter fun e => !(e.1 == t && e.2.1 == n) }) s.panels }
  let x := s.tenant t
  s.setTenant t { x with queues := x.queues.filter fun q => q.1 != n }

/-- Everything a core holds of a tenant's work is discarded: its task, its handlers, its commands, zones and saves, as though
pre-empted and the save discarded (04 R121); a command that waits for them goes on. A binding of its domain is freed once no packet
of it occupies a slot (14 R320; log 48). -/
def clearCore (t : Nat) (d : BitVec 16) (c : CoreId) (s : State) : State :=
  let s := if (runningRec s c).any fun r => r.tenant == t then endTask c s else s
  let s := (coreStrands c).foldl (fun s k =>
    if (s.strand k).live && (s.strand k).domain == d then freeStrand k s else s) s
  let x := s.core c
  let gone := ((x.parkedZones.filter fun z => z.1 == d).map fun z => z.2.1) ++
    (((s.panel c.panel).suspended.filter fun e => e.1 == c && e.2.2.tenant == t).map fun e => e.2.1)
  matrixNext c <| commandsGone c <| stopCheck c <| s.setCore c <| Core.freeClosed { x with
    ranges := if x.domain == d then x.ranges.filter fun r => !r.zone else x.ranges
    bindings := x.bindings.map fun b => if b.domain == d then { b with closing := true } else b
    cmdq := x.cmdq.filter fun m => m.domain != d
    parkedZones := x.parkedZones.filter fun z => z.1 != d
    heldBuffered := x.heldBuffered.filter fun e => !gone.contains e.1
    savedRoles := x.savedRoles.filter fun e => !gone.contains e.1
    savedViews := x.savedViews.filter fun e => !gone.contains e.1
    savedPending := x.savedPending.filter fun e => !gone.contains e.1
    savedQueue := x.savedQueue.filter fun e => !gone.contains e.1
    savedTenants := x.savedTenants.filter fun u => u != t }

/-- The tickets and promotion slots of a tenant dropped. -/
def clearStack (t stack : Nat) (s : State) : State :=
  let mine := (s.stack stack).tickets.filter fun e => e.2.used && e.2.tenant == t
  let s := mine.foldl (fun s e =>
    let s := setTicket stack e.1 { gen := e.2.gen + 1 } s
    e.2.waiters.foldl (fun s w => s.post .ticketRedeem { id := w }) s) s
  demoteWhere stack (fun _ v => v.tenant == t) s

/-- The sync objects of a domain assigned to none. -/
def clearObjects (dom : BitVec 12) (s : State) : State :=
  { s with
    barriers := Table.mapValues {} (fun (b : Barrier) => if b.owner == some dom then { gen := b.gen } else b) s.barriers
    counters := Table.mapValues {} (fun (c : Counter) => if c.owner == some dom then {} else c) s.counters
    rings := Table.mapValues {} (fun (r : Ring) => if r.owner == some dom then {} else r) s.rings }

/-- The copy packets left when a tenant goes: those not performed yet are consumed, the others signal nothing (14 R337). -/
def discardJobs (t : Nat) (l : List CopyJob) : List CopyJob :=
  (l.filter fun j => !(j.tenant == t && (decide (j.stage ≤ 1) || j.stage == 4))).map fun j =>
    if j.tenant == t then { j with noSignal := true } else j
/-- TENANT_DESTROY: it waits for the headers of the queues, and for the matrix commands that run, as a pre-emption does (04 R117 step
4). DESIGN CHOICE (log 56): one for a tenant that is not present is refused, at the offset of its TENANT byte. -/
def destroyTenant (s : State) : State :=
  let t := mailField s 2 1
  let x := s.tenant t
  if !x.present then mailReply 1 2 [] s
  else if x.queues.any (closeHeld s t) then (x.queues.foldl (fun s q => closeQueue t q s) s).post .tenantDestroy {}
  else
    let d := tenantDomain s t
    let s := x.queues.foldl (fun s q => unbindQueue t q.1 (closeHeader t q s)) s
    let s := { s with
      panels := Table.mapValues {} (fun (p : Panel) => { p with
        redispense := p.redispense.filter fun e => e.2.tenant != t
        chosen := p.chosen.filter fun e => e.2.tenant != t }) s.panels
      copyJobs := discardJobs t s.copyJobs }
    let s := s.cores.foldl (fun s e => clearCore t d e.1 s) s
    let s := { s with panels := Table.mapValues {} (fun (p : Panel) => { p with
      suspended := p.suspended.filter fun e => e.2.2.tenant != t }) s.panels }
    if s.cores.any fun e => e.2.active.any fun m => m.domain == d then s.post .tenantDestroy {}
    else
    let s := (List.range 12).foldl (fun s n => clearStack t n s) s
    let s := dropLaws t 0 255 (clearObjects (BitVec.ofNat 12 (domId d)) s)
    mailReply 0 0 [] (s.setTenant t {})
/-- TENANT_DESTROY -/
def execTenantDestroy (s : State) : Host.Outcome State Fault Refusal := event (fun _ s => mailCommand 2 destroyTenant s) s

/-! ## Queues (03 R86, R97, R98; 04 R101) -/

/-- The header line of a new queue. -/
def newHeader (t logcap base : Nat) : List Byte := layout 128 [(32, 8, base), (40, 1, logcap), (41, 1, 1), (42, 2, t)]

/-- QUEUE_CREATE. DESIGN CHOICE (log 56): one for a tenant that is not present is refused, at the offset of its TENANT byte; one whose
header cannot be translated or written is refused at the offset of its header address. -/
def createQueue (s : State) : State :=
  let t := mailField s 2 1
  let n := mailField s 3 1
  let panel := mailField s 4 1
  let consumer := mailField s 6 1
  let header := mailField s 8 8
  let x := s.tenant t
  let slot := (List.range 128).find? fun i => !(Table.get 0 (s.panel panel).qbind i).getLsbD 54
  if !x.present then mailReply 1 2 [] s
  else if x.queues.any fun q => q.1 == n then mailReply 1 3 [] s
  else if consumer = 0 && slot.isNone then mailReply 1 4 [] s
  else
    let bs := (newHeader t (mailField s 5 1) (mailField s 16 8)).zipIdx.map fun b => (b.2, b.1)
    match find panel serviceDomain .write header s with
    | (.place p, s) =>
      if headerWaits s p bs then (headerQueue p bs s).post .queueCreate {} else
      let s := hookWrite p bs s
      let x := s.tenant t
      let s := s.setTenant t { x with queues := Table.set noQueue x.queues n { header := header, panel := panel, consumer := consumer } }
      let s := if consumer = 0 then
          let q := s.panel panel
          s.setPanel panel { q with
            qbind := Table.set 0 q.qbind (slot.getD 0) (BitVec.ofNat 64 (t * 2 ^ 59 + n * 2 ^ 55 + 2 ^ 54 + header / 128 % 2 ^ 50)) }
        else s
      mailReply 0 0 [] s
    | (.later, s) => s.post .queueCreate {}
    | (.failed c event, s) => mailReply 1 8 [] (foundFault panel none header c event s)
/-- QUEUE_CREATE -/
def execQueueCreate (s : State) : Host.Outcome State Fault Refusal := event (fun _ s => mailCommand 3 createQueue s) s

/-- QUEUE_DESTROY: the queue drains; once its published records are consumed it is off, and the reply is written. DESIGN CHOICE (log
56): where its header cannot be read, the queue is dropped and the reply is done; a queue that does not exist is refused, at the
offset of the queue number. -/
def destroyQueue (s : State) : State :=
  let t := mailField s 2 1
  let n := mailField s 3 1
  match (s.tenant t).queues.find? fun q => q.1 == n with
  | none => mailReply 1 3 [] s
  | some (_, q) =>
    match headerAt q.panel t q.header s with
    | (.error .later, s) => s.post .queueDestroy {}
    | (.error _, s) => mailReply 0 0 [] (unbindQueue t n s)
    | (.ok (p, h), s) =>
      if headerWaits s p [(41, 2)] then (headerQueue p [(41, 2)] s).post .queueDestroy {} else
      let s := if h.state = 1 then headerWrite q.panel q.header p [(41, 2)] s else s
      if h.read < h.pub then s.post .queueDestroy {}
      else mailReply 0 0 [] (unbindQueue t n (headerWrite q.panel q.header p [(41, 0)] s))
/-- QUEUE_DESTROY -/
def execQueueDestroy (s : State) : Host.Outcome State Fault Refusal := event (fun _ s => mailCommand 4 destroyQueue s) s

/-! ## Loadable routines (02 R71–R73) -/

/-- A micro-op holds no reserved code and no bit that must be zero. -/
def microOk (u : BitVec 32) : Bool :=
  let n := u.toNat
  let f := fun (lo w : Nat) => n / 2 ^ lo % 2 ^ w
  let zero := fun (lo w : Nat) => f lo w == 0
  match f 28 4 with
  | 0 => f 20 2 != 3 && zero 22 2 && zero 0 12 && (f 19 1 == 1 || zero 24 2)
  | 1 => decide (f 20 2 < 2) && zero 26 2 && zero 0 12 && (f 19 1 == 1 || zero 24 2)
  | 2 => decide (f 18 4 < 14) && (if f 17 1 = 1 then zero 22 2 else zero 0 17) && (f 18 4 != 12 || zero 24 2)
  | 3 => zero 0 20
  | 4 => zero 0 21
  | 5 => zero 0 21
  | 6 => decide (f 18 4 < 10) && (if f 17 1 = 1 then zero 22 2 && decide (f 18 4 < 6) else zero 0 17)
  | 7 => zero 0 20
  | 8 => f 20 2 != 3 && zero 26 2 && zero 22 2 && zero 0 16 && (f 20 2 != 0 || zero 24 2)
  | 9 => zero 26 2 && zero 0 13 && (f 21 1 == 1 || zero 22 2)
  | 10 => zero 22 6 && zero 16 6
  | 11 => zero 0 22
  | _ => false

/-- A routine may be installed (02 R73). -/
def routineOk (ops : List (BitVec 32)) : Bool :=
  let op := fun (u : BitVec 32) => u.toNat / 2 ^ 28
  ops.all microOk && decide (1 ≤ ops.length ∧ ops.length ≤ 16) &&
    (ops.zipIdx.all fun u => op u.1 != 8 || decide (u.2 + 1 + u.1.toNat / 2 ^ 16 % 16 < ops.length)) &&
    (ops.getLast?.any fun u => op u == 9 || op u == 10) && decide ((ops.filter fun u => op u == 11).length ≤ 5)

/-- A request for a routine is running in some hook. -/
def routineRuns (s : State) (n : Nat) : Bool := s.hookReqs.any fun r => r.stage == 3 && r.routine == n
/-- A routine takes its place in the hook table. -/
def installRoutine (n : Nat) (r : BitVec 32 × List (BitVec 32)) (s : State) : State :=
  s.withPackage fun p => { p with routines := Table.set (0, []) p.routines n r, routineNext := Table.set (0, []) p.routineNext n (0, []) }

/-- ROUTINE_LOAD -/
def loadRoutine (s : State) : State :=
  let n := mailField s 3 1
  let ops := (List.range (mailField s 8 1)).map fun i => BitVec.ofNat 32 (ofBytes (hostBytes s (mailField s 16 8 + 4 * i) 4))
  let r := (BitVec.ofNat 32 (mailField s 4 4), ops)
  if !routineOk ops then mailReply 3 0xFFFF [] s
  else if routineRuns s n then
    mailReply 0 0 [] ((s.withPackage fun p => { p with routineNext := Table.set (0, []) p.routineNext n r }).post
      .routineReplace { a := n })
  else mailReply 0 0 [] (installRoutine n r s)
/-- ROUTINE_LOAD -/
def execRoutineLoad (s : State) : Host.Outcome State Fault Refusal := event (fun _ s => mailCommand 5 loadRoutine s) s

/-- A replacement takes effect once no request for the old routine is running. -/
def replaceRoutine (n : Nat) (s : State) : State :=
  let r := Table.get (0, []) s.package.routineNext n
  if r.2.isEmpty then s
  else if routineRuns s n then s.post .routineReplace { a := n }
  else installRoutine n r s
/-- ROUTINE_REPLACE: routine a. -/
def execRoutineReplace (s : State) : Host.Outcome State Fault Refusal := event (fun e s => replaceRoutine e.a s) s

/-! ## Attestation (03 R99; 01 R23) -/

/-- n bytes of a string, padded with zeros. -/
def padTo (n : Nat) (bs : List Byte) : List Byte := (bs ++ List.replicate (n - bs.length) 0).take n
/-- The entry of an image. -/
def reportEntry (bs : List Byte) : List Byte :=
  toBytes 4 (imageType bs).toNat ++ toBytes 4 (imageVersion bs).toNat ++ (toBytes 48 (Config.sha384 bs).toNat).reverse ++
    List.replicate 8 0
/-- The report but for its signature. DESIGN CHOICE (log 35): the helper data of stage 1 are no image of the report, whose
entries are the configuration record and the two images of stage 3. -/
def reportBody (s : State) (key : BitVec 384) : List Byte :=
  let images := [0, 1, 2].map fun k => (imageBytes s k).getD []
  toBytes 4 0x52414C53 ++ toBytes 4 (160 + 64 * images.length + 96) ++ padTo 96 (Config.identityPublic key) ++
    ((recBytes s.package.mailReq).drop 4).take 48 ++ toBytes 4 images.length ++ toBytes 4 0 ++ images.flatMap reportEntry

/-- ATTEST: the signed report goes into the host's buffer. DESIGN CHOICE (log 56): while no identity key is held it is refused, by no
single field (65,535). -/
def attestReport (s : State) : State :=
  match s.package.boot.identity with
  | none => mailReply 1 0xFFFF [] s
  | some key =>
    let body := reportBody s key
    let bs := body ++ padTo 96 (Config.ecdsaSign key (Config.sha384 body) s.steps)
    mailReply 0 0 [(4, 4, bs.length)] (setHostBytes s (mailField s 52 8) bs)
/-- ATTEST -/
def execAttest (s : State) : Host.Outcome State Fault Refusal := event (fun _ s => mailCommand 6 attestReport s) s

end Sys2Proof.Machine
end

