-- ==== Sys2Proof/Machine/Links.lean ====
section
/-!
DEFINITION. Links.lean: the Ndemen links (01 R28–R35, R38): flits and their CRC, retry, refusals and hold queues, time
synchronisation, and LINKEN. What the payload of a flit of another package asks for is not laid out by the spec (log 17).
-/
namespace Sys2Proof.Machine

/-! ## Answers -/

/-- A flit that answers: kind, the SEQ it names, payload. -/
def answerFlit (s : State) (x : Link) (kind : Nat) (seq : BitVec 8) (dest : Nat) (payload : List Byte) : Flit :=
  let header := BitVec.ofNat 64 (kind * 2 ^ 60 + 3 * 2 ^ 58 + seq.toNat * 2 ^ 50 + (x.rxSeq - 1).toNat * 2 ^ 42 +
    dest * 2 ^ 28 + s.package.pkg.toNat * 2 ^ 14 + payload.length * 2 ^ 6)
  { header := header, payload := payload, crc := flitCrc header payload }

/-! ## Receiving -/

/-- The link neither sends nor receives: down or held in reset. -/
def Link.off (x : Link) : Bool := x.status == 2 || x.status == 3
/-- A link changed. -/
def onLink (l : Nat) (f : Link → Link) (s : State) : State := s.setLink l (f (s.link l))

/-- The flits at or below ACK leave the replay buffer. -/
def acked (ack : BitVec 8) (l : List Flit) : List Flit := l.filter fun f => !decide ((ack - (flitSeq f)).toNat < 128)
/-- ACK taken: what it names is done with, and its failures are no longer in a row (R31, R33). -/
def takeAck (ack : BitVec 8) (x : Link) : Link :=
  let l := acked ack x.replay
  { x with replay := l, fails := if l.any fun f => flitSeq f == x.failSeq then x.fails else 0 }

/-- A CRC failure: counted, and a retry request names the first lost SEQ. -/
def crcFailure (l : Nat) (f : Flit) (s : State) : State :=
  onLink l (fun x => { x with errors := x.errors + 1, wire := x.wire ++ [answerFlit s x 2 x.rxSeq (flitSrc f) []] }) s

/-- The source of a flit answers: a member of this package's domain, or a package of another one, is reachable (07 R172;
01 R36). -/
def markReachable (f : Flit) (s : State) : State :=
  let m := memberKey s (flitSrc f)
  if flitSrc f == s.package.pkg.toNat || s.package.reachable.contains m then s
  else s.withPackage fun p => { p with reachable := p.reachable ++ [m] }

/-- A flit arrives at a link: nothing where the link is off; a CRC failure, or what its kind does. Every intact flit carries
ACK, and what that frees lets the link send. -/
def onArrival (l : Nat) (f : Flit) (g : State → State) (s : State) : State :=
  let x := s.link l
  if x.off || (x.status == 1 && flitKind f != 5) then s
  else if !(flitIntact f) then crcFailure l f s
  else markReachable f (onLink l (fun x => (takeAck (flitAck f) x).pump) (g s))

/-- A data flit whose turn it is goes into its class buffer, or is refused with a hint (01 R32, R33). -/
def placeFlit (l : Nat) (f : Flit) (s : State) : State :=
  let x := s.link l
  let c := (flitClass f)
  let x := { x with rxSeq := x.rxSeq + 1 }
  let full := Config.classFull s.steps l c
  if full || (Table.get false x.refusing c && !(flitRsm f)) then
    let hint := 64 + (Config.refusalHint s.steps).val
    s.setLink l { x with
      refusing := Table.set false x.refusing c true
      wire := x.wire ++ [answerFlit s x 3 (flitSeq f) (flitSrc f) (toBytes 2 hint)] }
  else s.setLink l { x with
    refusing := Table.set false x.refusing c false
    rx := Table.set [] x.rx c (Table.get [] x.rx c ++ [f]) }

/-- A flit is received: data in SEQ order (01 R29, R31–R33). -/
def receiveFlit (l : Nat) (f : Flit) (s : State) : State :=
  if (flitKind f) = 1 && (flitSeq f) == (s.link l).rxSeq then placeFlit l f s else s
/-- LINK_FLIT_RECEIVE: a flit arrives at link. -/
def execLinkFlitReceive (s : State) : Host.Outcome State Fault Refusal :=
  event (fun e s => onArrival e.link e.flit (receiveFlit e.link e.flit) s) s

/-- LINK_IDLE_FLIT: a flit of KIND 0 carries an ACK. -/
def execLinkIdleFlit (s : State) : Host.Outcome State Fault Refusal :=
  event (fun e s => onArrival e.link e.flit id s) s

/-! ## Retry (01 R31) -/

/-- The flits of the replay buffer from a SEQ on. -/
def fromSeq (seq : BitVec 8) (l : List Flit) : List Flit := l.filter fun f => decide (((flitSeq f) - seq).toNat < 128)

/-- The LINK event of a link's new state, to every tenant (03 R93). -/
def linkEvent (l state : Nat) (s : State) : State := postAll s (srcLink l) 6 [(24, 1, l), (25, 1, state)]
/-- A retry request: the sender resends from the named flit, and retrains after eight failures of one flit in a row. -/
def retryFrom (l : Nat) (f : Flit) (s : State) : State :=
  let x := s.link l
  let n := if x.failSeq == (flitSeq f) && x.fails != 0 then x.fails + 1 else 1
  if 8 ≤ n then
    (linkEvent l 1 (s.setLink l { x with status := 1, failSeq := (flitSeq f), fails := 0 })).post .linkRetrainDone
      { link := l, ok := (Config.freeValue s.steps).getLsbD 0 }
  else s.setLink l { x with
      failSeq := (flitSeq f), fails := n
      wire := x.wire ++ (fromSeq (flitSeq f) x.replay).map fun g => stampFlit g (flitSeq g) (x.rxSeq - 1) (flitRsm g) }
/-- LINK_RETRY_REQUEST: a flit of KIND 2. -/
def execLinkRetryRequest (s : State) : Host.Outcome State Fault Refusal :=
  event (fun e s => onArrival e.link e.flit (retryFrom e.link e.flit) s) s

/-- The flits of a link, in their order per class: held, sent, to be resent, not sent. -/
def Link.traffic (x : Link) (c : Nat) : List Flit :=
  Table.get [] x.hold c ++ (x.replay.filter fun f => (flitClass f) == c) ++ Table.get [] x.resend c ++ Table.get [] x.waiting c

/-- A link that is lost gives its traffic to the first link that is up and not shutting down. -/
def reroute (l : Nat) (s : State) : State :=
  match (List.range 18).find? fun m => m != l && (s.link m).status == 0 && !(s.link m).closing with
  | none => s
  | some m =>
    let x := s.link l
    let s := onLink m (fun y => Link.pump { y with
      waiting := (List.range 4).foldl (fun t c => Table.set [] t c (Table.get [] t c ++ x.traffic c)) y.waiting }) s
    s.setLink l { x with hold := [], replay := [], resend := [], waiting := [] }

/-- Retraining ends: the link is up and resends, or it is down and its tenants learn of it (01 R31). -/
def retrained (l : Nat) (ok : Bool) (s : State) : State :=
  let x := s.link l
  if x.status != 1 then s
  else if ok then
    linkEvent l 0 (s.setLink l (Link.pump { x with
      status := 0, fails := 0, wire := x.wire ++ x.replay.map fun g => stampFlit g (flitSeq g) (x.rxSeq - 1) (flitRsm g) }))
  else reroute l (linkEvent l 2 (s.setLink l { x with status := 2 }))
/-- LINK_RETRAIN_DONE: the retraining of link has succeeded, or not. -/
def execLinkRetrainDone (s : State) : Host.Outcome State Fault Refusal := event (fun e s => retrained e.link e.ok s) s

/-! ## Refusals (01 R32, R33) -/

/-- A refusal: the named flit moves to the end of its class's hold queue; the hint of the first refusal, or of a refused
resend, sets the time of the next resend. -/
def refused (l : Nat) (f : Flit) (s : State) : State :=
  let x := s.link l
  match x.replay.find? fun g => (flitSeq g) == (flitSeq f) with
  | none => s
  | some g =>
    let c := flitClass g
    let held := Table.get [] x.hold c
    let hint := ofBytes (f.payload.take 2)
    let x := { x with
      hold := Table.set [] x.hold c (held ++ [g])
      replay := x.replay.filter fun h => (flitSeq h) != (flitSeq f)
      holdUntil := if held.isEmpty then Table.set 0 x.holdUntil c (s.deviceTime + (hint * 5 + 11) / 12) else x.holdUntil }
    let s := s.setLink l x
    if held.isEmpty then s.post .holdQueueResend { link := l, a := c } else s
/-- LINK_REFUSAL: a flit of KIND 3. -/
def execLinkRefusal (s : State) : Host.Outcome State Fault Refusal :=
  event (fun e s => onArrival e.link e.flit (refused e.link e.flit) s) s

/-- The hint has elapsed: the held flits of a class go out again in their order, ahead of those not sent yet; what finds no room
in the replay buffer follows as room comes, and the first alone carries RSM. DESIGN CHOICE (log 17): the resend waits until
every flit of the class sent before has been answered, so that all the receiver has refused are in the hold queue. -/
def resendHeld (l c : Nat) (s : State) : State :=
  let x := s.link l
  let held := Table.get [] x.hold c
  if held.isEmpty || x.off then s
  else if x.status != 0 || x.closing || s.deviceTime < Table.get 0 x.holdUntil c || x.room == 0 || x.replay.any fun f => flitClass f == c then
    s.post .holdQueueResend { link := l, a := c }
  else
    let rest := held.drop x.room ++ Table.get [] x.resend c
    s.setLink l (sendFlits true (held.take x.room) { x with
      hold := Table.set [] x.hold c [], resend := Table.set [] x.resend c rest }).pump
/-- HOLD_QUEUE_RESEND: class a of link. -/
def execHoldQueueResend (s : State) : Host.Outcome State Fault Refusal := event (fun e s => resendHeld e.link e.a s) s

/-! ## Time and management (01 R30, R34) -/

/-- A time flit of a member of the same domain: device time follows the partner's, and never goes back (01 R16). -/
def syncTime (f : Flit) (s : State) : State :=
  let t := BitVec.ofNat 64 (ofBytes (f.payload.take 8))
  if (flitKind f) = 4 && (flitSrc f) / 128 == s.package.pkg.toNat / 128 && s.now.toNat < t.toNat then
    s.withPackage fun p => { p with clockSkew := p.clockSkew + (t - s.now) }
  else s
/-- TIME_SYNC_FLIT: a flit of KIND 4. -/
def execTimeSyncFlit (s : State) : Host.Outcome State Fault Refusal :=
  event (fun e s => onArrival e.link e.flit (fun s =>
    syncTime e.flit s) s) s

/-- LINK_MANAGEMENT_FLIT: a flit of KIND 5. -/
def execLinkManagementFlit (s : State) : Host.Outcome State Fault Refusal :=
  event (fun e s => onArrival e.link e.flit (onLink e.link fun x =>
    { x with management := e.flit.payload }) s) s

/-! ## LINKEN (01 R37, R38) -/

/-- One link after a write of LINKEN: enabled, or its shutdown starts. DESIGN CHOICE (log 35): a link enabled again keeps its
sequence numbers, its hold and waiting queues and its refusing flags. -/
def linkEnable (l : Nat) (on : Bool) (s : State) : State :=
  let x := s.link l
  if on then
    let up := fun (s : State) => s.setLink l (Link.pump { x with closing := false, status := if x.status == 3 then 0 else x.status })
    if x.status == 3 then
      (List.range 4).foldl (fun s c => if (Table.get [] x.hold c).isEmpty then s else s.post .holdQueueResend { link := l, a := c })
        (linkEvent l 0 (up s))
    else up s
  else if x.status == 3 || x.closing then s
  else (s.setLink l { x with closing := true, closeFrom := s.deviceTime }).post .linkenClearEffect { link := l }

/-- LINKEN written; nothing while boot is stopped (01 R20). DESIGN CHOICE (log 35): a non-zero bit above 17 leaves all of it. -/
def linkenStore (v : W64) (s : State) : State :=
  if 2 ^ 18 ≤ v.toNat || bootStopped s then s
  else
    let s := s.withPackage fun p => { p with linken := v.setWidth 18 }
    (List.range 18).foldl (fun s l => linkEnable l (v.getLsbD l) s) s
/-- LINKEN_WRITE: LINKEN is written with v. -/
def execLinkenWrite (s : State) : Host.Outcome State Fault Refusal := event (fun e s => linkenStore e.v s) s

/-- A store that was lost with a link: a copy packet's ends it with reason REMOTE; a strand's is not performed, and its instruction
takes REMOTE_UNREACHABLE (07 R164, R172). -/
def loseStore (r : StoreReq) (s : State) : State :=
  let s := storeDone r.id s
  if r.path = 5 then packetMoved r.strand (packetFails r.strand 8 s)
  else if r.reply = 0 then s
  else complete r.strand r.reply [] (some { cause := BitVec.ofNat 8 Cause.remoteUnreachable, addr := BitVec.ofNat 64 r.va }) s
/-- A ticket fetch that was lost with a link: its TICK.LD takes REMOTE_UNREACHABLE. -/
def loseFetch (r : TicketReq) (s : State) : State :=
  complete r.strand r.id [] (some { cause := BitVec.ofNat 8 Cause.remoteUnreachable, addr := r.ticket }) (dropTicketReq r.id s)
/-- The senders of what the flits of a link carried receive error replies (01 R38). What they carried is not given: any request,
store or packet on its way to another package may have been lost (Config.lostItem; log 17). -/
def loseItems (s : State) : State :=
  let lost := fun (id : Nat) => Config.lostItem s.steps id
  let hooks := s.hookReqs.filter fun r => decide (r.stage < 3) && r.place.isRemote && lost r.id
  let stores := s.stores.filter fun r => (r.bytes.any fun b => b.1.isRemote) && lost r.id
  let fetches := s.ticketReqs.filter fun r => !r.redeem && r.ticket == 0 && (r.bytes.any Place.isRemote) && lost r.id
  let packets := s.packets.filter fun p => p.outstanding && p.outcome.isNone && lost p.id &&
    match route s true p.route with | .package _ => true | _ => false
  let s := hooks.foldl (fun s r => hookAnswer r (.error (BitVec.ofNat 8 Cause.remoteUnreachable)) s) s
  let s := stores.foldl (fun s r => loseStore r s) s
  let s := fetches.foldl (fun s r => loseFetch r s) s
  packets.foldl (fun s p => answerPacket p 2 s) s

/-- A disabled link's replay buffer is acknowledged, or 100 µs have passed: the link is held in reset, and what is still not
acknowledged is lost. -/
def linkClear (l : Nat) (s : State) : State :=
  let x := s.link l
  if !x.closing then s
  else if !x.replay.isEmpty && s.deviceTime < x.closeFrom + 100000 then s.post .linkenClearEffect { link := l }
  else
    let s := linkEvent l 3 (s.setLink l { x with status := 3, closing := false, lost := x.lost ++ x.replay, replay := [] })
    if x.replay.isEmpty then s else loseItems s
/-- LINKEN_CLEAR_EFFECT: link. -/
def execLinkenClearEffect (s : State) : Host.Outcome State Fault Refusal := event (fun e s => linkClear e.link s) s

end Sys2Proof.Machine
end

