-- ==== Sys2Proof/Machine/Matrix.lean ====
section
/-!
DEFINITION. Matrix.lean: the matrix unit at work (14 R344–R348): LOAD, MMA (09 R213–R215), MROT, STORE, ZERO, MOVE,
SCALE and MARK, one command in one step. A command whose access is held tries again.
-/
namespace Sys2Proof.Machine

/-! ## The unit's accesses (07 R167; 14 R345, R347) -/

/-- Why a command does not complete. -/
inductive UnitStop where
  /-- the unit stops with a cause -/
  | cause (c : Nat)
  | pager (f : PagerInfo)
  /-- held -/
  | later
  | kill (c : Nat)
  deriving DecidableEq, Repr

/-- A command's body: it may stop, and the machine keeps what it did before. -/
abbrev UAct (α : Type) := ExceptT UnitStop (StateM State) α

/-- The command that runs on a core. -/
structure Unit_ where
  c : CoreId
  m : Command

/-- The pushing strand. -/
def Unit_.strand (u : Unit_) : StrandId := mkStrand u.c u.m.strand
/-- The command was pushed in fixed mode. -/
def Unit_.fixed (u : Unit_) : Bool := u.m.horizon.isSome

/-- A page fault of a command. -/
def unitFault {α : Type} (u : Unit_) (acc : Acc) (va : Nat) (f : PageFault) : UAct α := do
  let a := BitVec.ofNat 64 va
  match f with
  | .cause c ev =>
    match ev with
    | some code =>
      let code := if code = 8 then 8 else acc.code
      modify fun s => postAccessFault u.m.domain (srcStrand u.strand) a code c (strandSource s u.strand) s
    | none => pure ()
    throw (.cause c)
  | .pager found => throw (.pager { addr := a, access := acc.code, found := found })
  | .hold _ => throw .later

/-- Pattern slot w of the pushing strand, as it stood at the push (14 R338). -/
def Unit_.pat (u : Unit_) (w : Nat) : BitVec 256 := u.m.pats.getD w 0
/-- The pushing strand as its command sees it: in the domain and with the pattern slots of the push. -/
def Unit_.pusher (u : Unit_) (s : State) : Strand :=
  { s.strand u.strand with domain := u.m.domain, pat := Vector.ofFn fun i => u.pat i.val }
/-- The target of n bytes that cross no line; the unit holds no PLB. -/
def unitTarget (u : Unit_) (acc : Acc) (va n : Nat) : UAct Target := do
  if 2 ^ 57 ≤ va then throw (.cause Cause.addrNoncanon)
  if va / 2 ^ 52 = 0x1F then
    match localTarget u.strand (u.pusher (← get)) acc va n with
    | .ok t => pure t
    | .error c => throw (.cause c)
  else
    match ← modifyGet (pageFor u.c.panel u.m.domain acc va) with
    | .ok p =>
      if placeHeld (← get) p || lineBusy (← get) p then
        modify (queueHeld p)
        throw .later
      pure (.page p)
    | .error f => unitFault u acc va f

/-- A chunk of bytes cut at lines, each with its target; a core-local chunk stays whole. -/
def unitPieces (u : Unit_) (acc : Acc) (va n : Nat) : UAct (List Piece) :=
  (if va / 2 ^ 52 = 0x1F then [(va, n)] else cutLines (n / 128 + 2) va n).mapM fun r => do
    pure ({ target := ← unitTarget u acc r.1 r.2, va := r.1, n := r.2 } : Piece)

/-- Another strand of the core holds buffered words in a sector of the bytes (08 R199). -/
def heldByOther (u : Unit_) (s : State) (key n : Nat) : Bool :=
  (s.core u.c).buffered.any fun b => b.strand != u.m.strand && (sectorStarts key n).any fun i => b.key / 32 == (key + i) / 32
/-- The read check of fixed mode against the horizon at the push (08 R199, R200). -/
def unitStamps (u : Unit_) (s : State) (key n : Nat) : Bool :=
  match u.m.horizon with
  | some h => (sectorStarts key n).all fun i =>
      ownPublish (s.core u.c) u.m.strand (key + i) || stampOk h (sectorOf s (key + i))
  | none => true

/-- The bytes of a piece, and whether the sector of each is poisoned. -/
def unitRead (u : Unit_) (p : Piece) : UAct (List (Byte × Bool)) := do
  let s ← get
  match p.target with
  | .scratch c off =>
    let x := s.core c
    if c = u.c then
      if overlaps x off p.n then throw .later
    else
      if u.fixed then throw (.cause Cause.fixedPath)
      match windowCause x u.m.domain with
      | some cause => throw (.cause cause)
      | none => if inZone x off p.n then throw .later
    pure ((List.range p.n).map fun i => (x.scratch.byte (off + i), scratchBad x (off + i) 1))
  | .pattern w off =>
    let x := s.core u.c
    let d := u.pat w
    let at_ := patBits d 128 64 - scratchBase
    let used := if patKind d = 3 then
        (List.range (p.n / patSize d)).map fun i => at_ + 4 * ((off / patSize d + i) % patWidth d / 2)
      else []
    if used.any fun o => overlaps x o 4 then throw .later
    let bad := used.any fun o => scratchBad x o 4
    pure ((patBytes d (fun i => x.scratch.nat (at_ + 4 * i) 4) off p.n).map fun b => (b, bad))
  | .queue _ => throw (.cause Cause.accessRights)
  | .control r _ =>
    let v ← modifyGet fun s => ctlRead s r
    pure ((toBytes 8 v.toNat).map fun b => (b, false))
  | .page pl =>
    match pl with
    | .dev key =>
      if heldByOther u s key p.n || !unitStamps u s key p.n then throw (.cause Cause.fixedConflict)
      modify (homeTouch key false)
    | _ => pure ()
    modify (countLine u.c.panel p.va pl)
    pure (runRead s [(pl, p.n)])

/-- The bytes of a chunk. -/
def unitChunk (u : Unit_) (ps : List Piece) : UAct (List (Byte × Bool)) := do
  let l ← ps.mapM (unitRead u)
  pure l.flatten

/-- The checks of a piece to be written; nothing is written. -/
def unitMayWrite (u : Unit_) (p : Piece) : UAct Unit := do
  let s ← get
  match p.target with
  | .scratch c off =>
    let x := s.core c
    if c = u.c then
      if hitsHorizon s c off p.n then throw (.cause Cause.fixedHorizon)
      if overlaps x off p.n then throw .later
    else
      if u.fixed && !armedZone x off p.n then throw (.cause Cause.fixedPath)
      match windowCause x u.m.domain with
      | some cause => throw (.cause cause)
      | none => if landingHeld s u.m.domain c off p.n then throw .later
  | .queue _ => throw (.cause Cause.accessRights)
  | .page (.dev key) =>
    if u.fixed then throw (.cause Cause.fixedPath)
    if heldByOther u s key p.n then throw (.cause Cause.fixedConflict)
  | _ => pure ()

/-- The bytes of a piece as its destination holds them, for the bits a write leaves alone. -/
def oldBytes (s : State) (p : Piece) : List Byte :=
  match p.target with
  | .scratch c off => (s.core c).scratch.bytes off p.n
  | .page pl => placeRead s pl p.n
  | _ => List.replicate p.n 0

/-- A piece written. -/
def unitWrite (u : Unit_) (p : Piece) (bs : List Byte) (s : State) : State :=
  match p.target with
  | .scratch c off =>
    let l := bs.zipIdx.map fun b => (off + b.2, b.1)
    if c = u.c then scratchStore c l s else landBytes c l [] s
  | .control _ off =>
    let e := ctlWriteEvent off (BitVec.ofNat 64 (ofBytes bs))
    s.post e.1 e.2
  | .page pl => writePlaces none (bs.zipIdx.map fun b => (pl.plus b.2, b.1)) [] (countLine u.c.panel p.va pl s)
  | _ => s

/-- A chunk written along its pieces. -/
def unitWrites (u : Unit_) : List Piece → List Byte → State → State
  | [], _, s => s
  | p :: ps, bs, s => unitWrites u ps (bs.drop p.n) (unitWrite u p (bs.take p.n) s)

/-! ## The end of a command -/

/-- What follows a command's end: the next one, a command of the swift that waited, the task's end, a handler. -/
def unitGoesOn (c : CoreId) (s : State) : State :=
  let s := stopCheck c (taskCheck c (matrixNext c s))
  if (s.core c).mailbox.isEmpty then s else s.post .handlerStart { core := c }

/-- The command has completed. -/
def commandDone (c : CoreId) (s : State) : State := unitGoesOn c (s.setCore c { s.core c with active := none })
/-- The command tries again. -/
def commandAgain (u : Unit_) (s : State) : State := s.post (matrixEvent (cmdOpc u.m.word)) { core := u.c }

/-- The unit parks on the pager (07 R175). -/
def parkUnit (u : Unit_) (f : PagerInfo) (s : State) : State :=
  let (n, s) := s.fresh
  let seq := BitVec.ofNat 32 n
  let s := s.setCore u.c { s.core u.c with mparked := some f, mparkedSeq := seq }
  pagerMessage s u.c.panel u.c.index (strandSource s u.strand) u.m.domain f seq

/-- What stops a command. -/
def unitStops (u : Unit_) (e : UnitStop) (s : State) : State :=
  match e with
  | .cause c => unitGoesOn u.c (matrixStop u.c c u.m.strand s)
  | .pager f => parkUnit u f s
  | .later => commandAgain u s
  | .kill c => killCore u.c c s

/-- A command of this opcode that runs on a core, performed in one step. -/
def performCommand (op : Nat) (body : Unit_ → UAct Unit) (c : CoreId) (s : State) : State :=
  let x := s.core c
  match x.active with
  | some m =>
    if cmdOpc m.word != op || x.mparked.isSome then s
    else
      let u : Unit_ := { c := c, m := m }
      match (body u).run s with
      | (.ok (), s) => commandDone c s
      | (.error e, s) => unitStops u e s
  | none => s

/-! ## Tiles and operands (14 R344) -/

/-- The number of a tile's cell. -/
def cellNo (tile i j : Nat) : Nat := tile * 4096 + i * 64 + j
/-- The W34 pattern of a cell. -/
def cellAt (x : Core) (tile i j : Nat) : Nat := cellValue (Table.get 0 x.tiles (cellNo tile i j))
/-- The tile is read: a cell that cannot be corrected, or whose check bits disagree with it, kills the core (05 R131; 09 R212). -/
def tileRead (c : CoreId) (tile rows cols : Nat) : UAct Unit := do
  let x := (← get).core c
  let read := fun (n : Nat) => n / 4096 == tile && decide (n / 64 % 64 < rows) && decide (n % 64 < cols)
  if x.tileBad.any read || x.tiles.any fun e => read e.1 && !cellOk e.2 then throw (.kill 3)
/-- A tile written whole. -/
def tileWrite (c : CoreId) (tile : Nat) (f : Nat → Nat → Nat) (s : State) : State :=
  let x := s.core c
  let cells := (List.range 4096).map fun n => (tile * 4096 + n, cellOf (f (n / 64) (n % 64)))
  s.setCore c { x with
    tiles := cells.foldl (fun t e => Table.set 0 t e.1 e.2) x.tiles
    tileBad := x.tileBad.filter fun n => n / 4096 != tile }

/-- n bytes of a slot. -/
def slotBytes (x : Core) (slot off n : Nat) : List Byte := x.operand.bytes (slot * 8192 + off) n
/-- A sector among the first n bytes of a slot is poisoned. -/
def slotBad (x : Core) (slot n : Nat) : Bool :=
  x.operandPoison.any fun q => slot * 8192 < q * 32 + 32 && q * 32 < slot * 8192 + n
/-- A slot's bytes from its start on, with their poison. -/
def slotWrite (c : CoreId) (slot : Nat) (bs : List (Byte × Bool)) (s : State) : State :=
  let x := s.core c
  let at_ := slot * 8192
  let bad := ((bs.zipIdx.filter fun b => b.1.2).map fun b => (at_ + b.2) / 32).dedup
  let whole := wholeSectors ((List.range bs.length).map fun i => at_ + i)
  s.setCore c { x with
    operand := x.operand.setBytes at_ (bs.map Prod.fst)
    operandPoison := bad ++ x.operandPoison.filter fun q => !whole.contains q && !bad.contains q }
/-- The whole of a slot with its poison. -/
def slotWhole (x : Core) (slot : Nat) : List (Byte × Bool) :=
  (slotBytes x slot 0 8192).mapIdx fun i b => (b, x.operandPoison.contains ((slot * 8192 + i) / 32))

/-- The elements of line r of an operand of K elements a line. -/
def operandLine (x : Core) (slot fmt k r : Nat) : List Num :=
  let w := skBits fmt
  let n := k * w / 8
  let v := ofBytes (slotBytes x slot (r * n) n)
  (List.range k).map fun i =>
    let sc := if skScaled fmt then (x.operand.byte (slot * 8192 + 64 * n + r * (k / 32) + i / 32)).toNat else 0
    skValue fmt sc (v / 2 ^ (w * i) % 2 ^ w)

/-- f32 element i of a slot. -/
def slotF32 (x : Core) (slot i : Nat) : Num := f32.decode (ofBytes (slotBytes x slot (4 * i) 4))

/-- Flags of a command gathered in MSTAT. -/
def unitFlags (c : CoreId) (fl : Nat) (s : State) : State :=
  let x := s.core c
  s.setCore c { x with mflags := x.mflags ||| BitVec.ofNat 5 fl }

/-! ## LOAD -/

/-- The skein of a command, as it stood at the push (09 R220). -/
def unitSkein (u : Unit_) : BitVec 512 := u.m.skein

/-- The bytes of a line from the bytes of its row: elements from bit off on, zero beyond the extents. -/
def slotLine (b off cnt k : Nat) (row : List (Byte × Bool)) : List (Byte × Bool) :=
  let v := ofBytes (row.map Prod.fst) / 2 ^ off % 2 ^ (b * cnt)
  (toBytes (k * b / 8) v).mapIdx fun i x =>
    (x, ((row.drop ((8 * i + off) / 8)).take ((8 * i + off + 15) / 8 - (8 * i + off) / 8)).any Prod.snd)

/-- LOAD: every page is checked before anything is read. -/
def loadCmd (u : Unit_) : UAct Unit := do
  let w := u.m.word
  let sk := unitSkein u
  let fmt := skFmt sk
  let k := 32 * cmdKc w
  if !mmaFormat fmt || 8192 < operandBytes fmt k then throw (.cause Cause.skeinInvalid)
  let b := skBits fmt
  let rows ← (List.range 64).mapM fun r =>
    match skeinRow sk w r k with
    | none => pure none
    | some (va, off, n, cnt) => do
      let ps ← unitPieces u .read va n
      let sc ← if skScaled fmt then unitPieces u .read (skeinScale sk w r) (cnt / 32) else pure []
      pure (some (ps, off, cnt, sc))
  let read ← rows.mapM fun row =>
    match row with
    | none => pure (List.replicate (k * b / 8) ((0 : Byte), false), List.replicate (k / 32) ((0 : Byte), false))
    | some (ps, off, cnt, sc) => do
      let l ← unitChunk u ps
      let t ← unitChunk u sc
      pure (slotLine b off cnt k l, t ++ List.replicate (k / 32 - t.length) ((0 : Byte), false))
  let scales := if skScaled fmt then read.flatMap Prod.snd else []
  modify (slotWrite u.c (recBits w 16 5) (read.flatMap Prod.fst ++ scales))

/-- MATRIX_LOAD: the LOAD that runs on core. -/
def execMatrixLoad (s : State) : Host.Outcome State Fault Refusal := event (fun e s => performCommand 1 loadCmd e.core s) s

/-! ## MMA (09 R213–R215) -/

/-- The significand width of an MMA format, the hidden bit counted. -/
def sigBits (fmt : Nat) : Nat :=
  match fmt with
  | 1 => 24 | 2 => 8 | 4 => 4 | 5 => 3 | 6 => 2 | 7 => 4 | 8 => 3 | 9 => 2
  | n => n - 8
/-- The array cycles of a command of K elements a line. -/
def arrayCycles (fa fb k : Nat) : Nat :=
  let a := sigBits fa
  let b := sigBits fb
  if a ≤ 2 ∧ b ≤ 2 then k / 2 else k * ((a + 7) / 8) * ((b + 3) / 4)

/-- The ramp limiter lets the array start, or does not yet (04 R112). Of its cycles those fall in this microsecond for which the
core's clock has cycles left in it beside the commands that it ran before; the others fall in later ones. -/
def rampStart (u : Unit_) (cycles : Nat) : UAct Unit := do
  let s ← get
  let p := s.panel u.c.panel
  if p.rampBalance < 1 then
    let tick : Turn := .event .rampMicrosecond { panel := u.c.panel }
    if !s.agenda.contains tick then modify fun s => s.post .rampMicrosecond { panel := u.c.panel }
    throw .later
  else
    let x := s.core u.c
    let now := if x.arrayLeft = 0 then min cycles (coreRate s u.c - x.arrayNow) else 0
    let s := s.setPanel u.c.panel { p with rampBalance := p.rampBalance - cycles, rampNow := p.rampNow + now }
    set (s.setCore u.c { x with arrayLeft := x.arrayLeft + (cycles - now), arrayNow := x.arrayNow + now })

/-- The exact sum of the finite products among these: m × 2^e. -/
def exactSum : List Exact → Int × Int
  | [] => (0, 0)
  | .val n m e _ :: r =>
    let (v, q) := exactSum r
    if m = 0 then (v, q)
    else if v = 0 then ((if n then -(m : Int) else m), e)
    else
      let e0 := min e q
      (scaled n m e e0 + v * (2 ^ (q - e0).toNat : Nat), e0)
  | _ :: r => exactSum r

/-- A chunk: the exact sum of the products of its elements (09 R214, R215). -/
def chunkSum (xs ys : List Num) : Exact :=
  let ps := List.zipWith Num.mul xs ys
  if ps.any fun p => match p with | .nan _ => true | _ => false then
    .nan (ps.any fun p => match p with | .nan nv => nv | _ => false)
  else
    let plus := ps.any fun p => p == .inf false
    let minus := ps.any fun p => p == .inf true
    if plus && minus then .nan true
    else if plus || minus then .inf minus
    else
      let (v, e) := exactSum ps
      .val (decide (v < 0)) v.natAbs e false

/-- The chunks of a line, in ascending order, into an accumulator: its pattern and flags. -/
def accumulate : Nat → List Num → List Num → Nat × Nat → Nat × Nat
  | 0, _, _, acc => acc
  | n + 1, xs, ys, (acc, fl) =>
    let (sum, f1) := (chunkSum (xs.take 32) (ys.take 32)).round w34 .ne
    let (v, f2) := ((w34.decode acc).add false (w34.decode sum)).round w34 .ne
    accumulate n (xs.drop 32) (ys.drop 32) (v, fl ||| f1 ||| f2)

/-- MMA -/
def mmaCmd (u : Unit_) : UAct Unit := do
  let w := u.m.word
  let k := 32 * cmdKc w
  rampStart u (arrayCycles (cmdFa w) (cmdFb w) k)
  let x := (← get).core u.c
  if slotBad x (cmdSa w) (operandBytes (cmdFa w) k) || slotBad x (cmdSb w) (operandBytes (cmdFb w) k) then throw (.kill 1)
  if !cmdOf w 0 then tileRead u.c (cmdTd w) 64 64
  let a := (List.range 64).map (operandLine x (cmdSa w) (cmdFa w) k)
  let b := (List.range 64).map (operandLine x (cmdSb w) (cmdFb w) k)
  let cell := fun (i j : Nat) => accumulate (cmdKc w) (a.getD i []) (b.getD j [])
    (if cmdOf w 0 then 0 else cellAt x (cmdTd w) i j, 0)
  let fl := orFlags (fun n => (cell (n / 64) (n % 64)).2) 4096
  modify fun s => unitFlags u.c fl (tileWrite u.c (cmdTd w) (fun i j => (cell i j).1) s)

/-- MATRIX_MMA: the MMA that runs on core. -/
def execMatrixMma (s : State) : Host.Outcome State Fault Refusal := event (fun e s => performCommand 2 mmaCmd e.core s) s

/-! ## STORE -/

/-- A row of a tile converted: elements with their scales, and flags. -/
def storeRow (sk w : BitVec 512) (x : Core) (i cnt : Nat) : List (Nat × Nat) × Nat :=
  let t := skFmt sk
  let b := skBits t
  let rm := fun (j : Nat) => modeOf (recBits w 32 3) b (skDorg sk + i) j
  let sat := recBits w 35 1 == 1
  let v := fun (j : Nat) => w34.decode (cellAt x (cmdTs w) i j)
  if skScaled t then
    let blocks := (List.range (cnt / 32)).map fun q =>
      let (sc, els, fl) := blockConvert t (fun c => rm (32 * q + c)) ((List.range 32).map fun c => v (32 * q + c))
      (els.map fun e => (e, sc), fl)
    (blocks.flatMap Prod.fst, blocks.foldl (fun a e => a ||| e.2) 0)
  else
    let els := (List.range cnt).map fun j => skConvert t (rm j) sat (v j)
    (els.map fun e => (e.1, 0), els.foldl (fun a e => a ||| e.2) 0)

/-- The bytes of a row: elements from bit off on; the other bits of its bytes stay. -/
def storeBytes (b off : Nat) (old : List Byte) (els : List Nat) : List Byte :=
  (packRow b off (old.map fun x => (x, false)) (els.map fun e => (e, 0, false))).map Prod.fst

/-- Rows written with their elements, in order, and their block scales. -/
def storeRows (u : Unit_) (b : Nat) : List (List Piece × Nat × Nat × List Piece) → List (Nat × Nat) → State → State
  | [], _, s => s
  | (ps, off, cnt, sc) :: rows, els, s =>
    let mine := els.take cnt
    let s := unitWrites u ps (storeBytes b off (ps.flatMap (oldBytes s)) (mine.map Prod.fst)) s
    let scales := (List.range (cnt / 32)).map fun q => BitVec.ofNat 8 (mine.getD (32 * q) (0, 0)).2
    storeRows u b rows (els.drop cnt) (unitWrites u sc scales s)

/-- The first line, of those that pieces name, whose write has to wait for the DRAM (02 R75): after is the machine with them
written. -/
def unitNeedsDram (s after : State) (ps : List Piece) : Option Nat :=
  ps.findSome? fun p =>
    match p.target with
    | .page (.dev key) => if (s.stack (keyStack key)).refresh && lineNeedsDram s after (key / 128) then some key else none
    | _ => none

/-- STORE: every page and every element is checked before any is written. -/
def storeCmd (u : Unit_) : UAct Unit := do
  let w := u.m.word
  let sk := unitSkein u
  let t := skFmt sk
  if skReserved t then throw (.cause Cause.skeinInvalid)
  let rows ← (List.range 64).mapM fun i =>
    match skeinRow sk w i 64 with
    | none => pure none
    | some (va, off, n, cnt) => do
      let ps ← unitPieces u .write va n
      let sc ← if skScaled t then unitPieces u .write (skeinScale sk w i) (cnt / 32) else pure []
      (ps ++ sc).forM (unitMayWrite u)
      pure (some (i, ps, off, cnt, sc))
  let rows := rows.filterMap id
  let x := (← get).core u.c
  tileRead u.c (cmdTs w) rows.length ((rows.map fun r => r.2.2.2.1).foldl max 0)
  let conv := rows.map fun r => storeRow sk w x r.1 r.2.2.2.1
  let fl := conv.foldl (fun a e => a ||| e.2) 0
  match bounds (skPol sk) t (skLo sk) (skHi sk) ((conv.flatMap Prod.fst).map fun e => (e.1, e.2, true)) with
  | .trap => throw (.cause Cause.bound)
  | .invalid => throw (.cause Cause.skeinInvalid)
  | .write es acted =>
    let els := List.zipWith (fun e o => (e, o.2)) es (conv.flatMap Prod.fst)
    let s ← get
    let after := storeRows u (skBits t) (rows.map Prod.snd) els s
    match unitNeedsDram s after (rows.flatMap fun r => r.2.1 ++ r.2.2.2.2) with
    | some key =>
      modify (queueParty key)
      throw .later
    | none =>
      set <|
        let s := unitFlags u.c fl after
        if acted then s.setCore u.c { s.core u.c with mbound := true } else s

/-- MATRIX_STORE: the STORE that runs on core. -/
def execMatrixStore (s : State) : Host.Outcome State Fault Refusal := event (fun e s => performCommand 4 storeCmd e.core s) s

/-! ## ZERO, MOVE, SCALE, MARK -/

/-- ZERO -/
def zeroCmd (u : Unit_) : UAct Unit := modify (tileWrite u.c (cmdTd u.m.word) fun _ _ => 0)
/-- MATRIX_ZERO: the ZERO that runs on core. -/
def execMatrixZero (s : State) : Host.Outcome State Fault Refusal := event (fun e s => performCommand 5 zeroCmd e.core s) s

/-- MOVE -/
def moveCmd (u : Unit_) : UAct Unit := do
  let w := u.m.word
  tileRead u.c (cmdTs w) 64 64
  let x := (← get).core u.c
  modify (tileWrite u.c (cmdTd w) fun i j => if cmdOf w 0 then cellAt x (cmdTs w) j i else cellAt x (cmdTs w) i j)
/-- MATRIX_MOVE: the MOVE that runs on core. -/
def execMatrixMove (s : State) : Host.Outcome State Fault Refusal := event (fun e s => performCommand 6 moveCmd e.core s) s

/-- An exact result as a value; a NaN that sets invalid stays one. -/
def Exact.num : Exact → Num
  | .nan nv => .nan nv
  | .inf n => .inf n
  | .val n m e _ => .fin n m e

/-- One cell of SCALE: T × FAC × ρ × κ + BIAS, rounded once. -/
def scaleCell (t fac rho kappa bias : Num) : Nat × Nat :=
  ((((t.mul fac).num.mul rho).num.mul kappa).num.add false bias).round w34 .ne

/-- SCALE; a poisoned factor is consumed (05 R132). -/
def scaleCmd (u : Unit_) : UAct Unit := do
  let w := u.m.word
  tileRead u.c (cmdTs w) 64 64
  let x := (← get).core u.c
  if (cmdOf w 0 && slotBad x (cmdSa w) 256) || (cmdOf w 1 && slotBad x (cmdSb w) 256) then throw (.kill 1)
  let one : Num := .fin false 1 0
  let cell := fun (i j : Nat) => scaleCell (w34.decode (cellAt x (cmdTs w) i j)) (f32.decode (recBits w 352 32))
    (if cmdOf w 0 then slotF32 x (cmdSa w) i else one) (if cmdOf w 1 then slotF32 x (cmdSb w) j else one)
    (f32.decode (recBits w 320 32))
  let fl := orFlags (fun n => (cell (n / 64) (n % 64)).2) 4096
  modify fun s => unitFlags u.c fl (tileWrite u.c (cmdTd w) (fun i j => (cell i j).1) s)
/-- MATRIX_SCALE: the SCALE that runs on core. -/
def execMatrixScale (s : State) : Host.Outcome State Fault Refusal := event (fun e s => performCommand 7 scaleCmd e.core s) s

/-- MARK -/
def markCmd (u : Unit_) : UAct Unit := do
  let w := u.m.word
  modify fun s =>
    let s := s.setCore u.c { s.core u.c with markv := BitVec.ofNat 16 (recBits w 208 16) }
    if cmdOf w 0 then signalCounter (cmdSobj w) (BitVec.ofNat 32 (recBits w 352 32)) s else s
/-- MATRIX_MARK: the MARK that runs on core. -/
def execMatrixMark (s : State) : Host.Outcome State Fault Refusal := event (fun e s => performCommand 8 markCmd e.core s) s

/-! ## MROT (14 R348) -/

/-- A core that a landing may not reach: it does not exist, it is gone, or IDLE without saved state of the domain. -/
def rotationLost (s : State) (dest : CoreId) (d : BitVec 16) : Bool :=
  let x := s.core dest
  191 < dest.index || x.gone ||
    (x.status == .idle && !(match tenantOf s d with | some t => x.savedTenants.contains t | none => false))

/-- MROT starts: a local slot copy, or a landing on its way. -/
def startRotation (u : Unit_) (s : State) : State :=
  let w := u.m.word
  let dest := mkCore u.c.panel (recBits w 48 8)
  let x := s.core u.c
  let slot := cmdSb w
  let src := slotWhole x (cmdSa w)
  let sg := if cmdOf w 0 then some (cmdSobj w) else none
  if dest = u.c then
    let s := slotWrite u.c slot src s
    commandDone u.c (match sg with | some o => signalCounter o 1 s | none => s)
  else if rotationLost s dest u.m.domain then unitStops u (.cause Cause.matrixDest) s
  else
    let (id, s) := s.fresh
    let r : Rotation :=
      { id := id, fromCore := u.c, target := dest, slot := slot
        bytes := Memory.setBytes [] 0 (src.map Prod.fst)
        poison := (List.range 256).filter fun q => x.operandPoison.contains (cmdSa w * 256 + q)
        signal := sg, domain := u.m.domain }
    ({ s with rotations := s.rotations ++ [r] } : State).post .mrotLanding { id := id }

/-- The MROT of a core, unless it is on its way already. -/
def rotateCommand (c : CoreId) (s : State) : State :=
  match (s.core c).active with
  | some m =>
    if cmdOpc m.word != 3 || s.rotations.any fun r => r.fromCore == c then s
    else startRotation { c := c, m := m } s
  | none => s
/-- MATRIX_MROT: the MROT that runs on core. -/
def execMatrixMrot (s : State) : Host.Outcome State Fault Refusal := event (fun e s => rotateCommand e.core s) s

/-- The unit that sent a rotation, if its MROT still runs. -/
def rotationUnit (s : State) (r : Rotation) : Option Unit_ :=
  match (s.core r.fromCore).active with
  | some m => if cmdOpc m.word == 3 then some { c := r.fromCore, m := m } else none
  | none => none

/-- A rotation arrives: refused until the domains match, or landed; then the command completes and the landing is
signalled. -/
def rotationArrive (id : Nat) (s : State) : State :=
  match findId Rotation.id s.rotations id with
  | none => s
  | some r =>
    let gone := { s with rotations := dropId Rotation.id s.rotations id }
    let x := s.core r.target
    let unit := rotationUnit s r
    if rotationLost s r.target r.domain then
      match unit with
      | some u => unitStops u (.cause Cause.matrixDest) gone
      | none => gone
    else if x.domain != r.domain || x.status == .idle || x.status == .quiet then s.post .requestRetry { id := id }
    else
      let bs := (r.bytes.bytes 0 8192).mapIdx fun i b => (b, r.poison.contains (i / 32))
      let s := slotWrite r.target r.slot bs gone
      let s := match r.signal with | some o => signalCounter o 1 s | none => s
      let s := stopCheck r.target s
      match unit with
      | some u => commandDone u.c s
      | none => s
/-- MROT_LANDING: rotation id reaches its core. -/
def execMrotLanding (s : State) : Host.Outcome State Fault Refusal := event (fun e s => rotationArrive e.id s) s

end Sys2Proof.Machine
end

