-- ==== Sys2Proof/Machine/Power.lean ====
section
/-!
DEFINITION. Power.lean: clock sources and regulators (05 R122–R124), droop (R125–R128), the limits of 01 R18, and what
follows a kill (05 R135, 06 R159).
-/
namespace Sys2Proof.Machine

/-! ## Sources (05 R122) -/

/-- A core of the panel runs on a source or hops to it. -/
def sourceUsed (s : State) (panel : Nat) (b : Bool) : Bool :=
  ((List.range 196).map (mkCore panel)).any fun c =>
    let x := s.core c
    x.status != .retired && (x.srcnow == b || (x.hopping && x.srcTarget == b))
/-- SRCCLK written. -/
def srcclkStore (panel : Nat) (v : W64) (s : State) : State :=
  let n := v.toNat
  let a := n % 4096
  let b := n / 65536 % 4096
  let p := s.panel panel
  let range := fun (f : Nat) => decide (600 ≤ f ∧ f ≤ 2100)
  let good := decide (n < 2 ^ 28) && n / 4096 % 16 == 0 && range a && range b &&
    !(a != p.fa.toNat && sourceUsed s panel false) && !(b != p.fb.toNat && sourceUsed s panel true)
  if !good then s.setPanel panel { p with swerr := true }
  else
    let s := s.setPanel panel { p with
      fa := BitVec.ofNat 12 a, fb := BitVec.ofNat 12 b
      settlingA := p.settlingA || a != p.fa.toNat, settlingB := p.settlingB || b != p.fb.toNat }
    let s := if a != p.fa.toNat then s.post .sourceSettled { panel := panel, a := 0 } else s
    if b != p.fb.toNat then s.post .sourceSettled { panel := panel, a := 1 } else s
/-- SRCCLK_WRITE: SRCCLK of panel is written with v. -/
def execSrcclkWrite (s : State) : Host.Outcome State Fault Refusal := event (fun e s => srcclkStore e.panel e.v (storeDone e.id s)) s

/-- A source has settled: 0 A, 1 B. -/
def sourceSettle (panel source : Nat) (s : State) : State :=
  let p := s.panel panel
  s.setPanel panel (if source = 0 then { p with settlingA := false } else { p with settlingB := false })
/-- SOURCE_SETTLED: source a of panel. -/
def execSourceSettled (s : State) : Host.Outcome State Fault Refusal := event (fun e s => sourceSettle e.panel e.a s) s

/-! ## The regulator and the hop (05 R123, R124) -/

/-- A sequence to a regulator target and a source begins, or follows the one in progress. -/
def startSequence (c : CoreId) (volt : BitVec 8) (src : Bool) (s : State) : State :=
  let x := s.core c
  if x.hopping then s.setCore c { x with pwrPending := some (volt, src) }
  else if x.vnow == volt && x.srcnow == src then s
  else (s.setCore c { x with hopping := true, vTarget := volt, srcTarget := src }).post .pwrSequenceDone { core := c }

/-- The slower of the two sources. -/
def slowerSource (p : Panel) (now : Bool) : Bool :=
  if p.fa == p.fb then now else decide (p.fb.toNat < p.fa.toNat)

/-- The source on which a core's sequences, the waiting one included, end. -/
def lastSource (x : Core) : Bool :=
  match x.pwrPending with
  | some (_, src) => src
  | none => if x.hopping then x.srcTarget else x.srcnow
/-- PWRCTL written; while FORCED is set its SRC field is ignored: the core stays on, or still hops to, the forced source, and the
write clears FORCED (05 R127). -/
def pwrctlStore (c : CoreId) (v : W64) (s : State) : State :=
  let x := s.core c
  let n := v.toNat
  let volt := n / 2 ^ 24 % 256
  let dthr := n / 2 ^ 18 % 64
  let src := if x.forced then lastSource x else v.getLsbD 17
  let good := decide (n < 2 ^ 32) && n % 2 ^ 17 == 0 && decide (20 ≤ volt ∧ volt ≤ 140) && decide (8 ≤ dthr ∧ dthr ≤ 48) &&
    decide (Config.minVolt (sourceFreq (s.panel c.panel) src) ≤ volt)
  if x.status == .retired then s
  else if !good then s.setCore c { x with pwrErr := true }
  else
    startSequence c (BitVec.ofNat 8 volt) src (s.setCore c { x with
      volt := BitVec.ofNat 8 volt, dthr := BitVec.ofNat 6 dthr, src := if x.forced then x.src else v.getLsbD 17
      pwrErr := false, forced := false })
/-- PWRCTL_WRITE: PWRCTL of core is written with v. -/
def execPwrctlWrite (s : State) : Host.Outcome State Fault Refusal := event (fun e s => pwrctlStore e.core e.v (storeDone e.id s)) s

/-- The sequence has ended; the write that waited takes effect. -/
def endSequence (c : CoreId) (s : State) : State :=
  let x := s.core c
  let s := s.setCore c { x with hopping := false, pwrPending := none }
  match x.pwrPending with
  | some (volt, src) => startSequence c volt src s
  | none => s
/-- A kill that waited for the hop proceeds (05 R137). -/
def killDue (c : CoreId) (s : State) : State :=
  match (s.core c).killWaits with
  | some cause => killCore c cause s
  | none => s
/-- One part of a sequence is done: a faster source is hopped to after the ramp, a slower one before it; a hop waits for
its source to settle. -/
def sequenceStep (c : CoreId) (s : State) : State :=
  let x := s.core c
  let p := s.panel c.panel
  let again := fun (s : State) => s.post .pwrSequenceDone { core := c }
  if !x.hopping then s
  else if x.srcnow == x.srcTarget then endSequence c (s.setCore c { x with vnow := x.vTarget })
  else if sourceFreq p x.srcnow < sourceFreq p x.srcTarget && x.vnow != x.vTarget then
    again (s.setCore c { x with vnow := x.vTarget })
  else if (if x.srcTarget then p.settlingB else p.settlingA) then again s
  else
    let s := killDue c (s.setCore c { x with srcnow := x.srcTarget })
    if x.vnow == x.vTarget then endSequence c s else again s
/-- PWR_SEQUENCE_DONE: a part of core's sequence is done. -/
def execPwrSequenceDone (s : State) : Host.Outcome State Fault Refusal := event (fun e s => sequenceStep e.core s) s

/-- PWRSTAT_READ: PWRSTAT of core is read, and DCOUNT cleared. -/
def execPwrstatRead (s : State) : Host.Outcome State Fault Refusal := event (fun e s => pwrstatTake e.core s) s

/-! ## Droop (05 R125–R127) -/

/-- A trip: the clock stops; a hop that it meets completes on its old source (R128); sixteen within any 10 µs force the slower
source. What the trip discards is issued again and performed once (R126): in this model nothing is performed before it is
clean. -/
def droopTrip (c : CoreId) (s : State) : State :=
  let x := s.core c
  if x.gone then s
  else
    let p := s.panel c.panel
    let trips := (x.trips.filter fun t => s.deviceTime - t ≤ 10000) ++ [s.deviceTime]
    let force := x.forced || decide (16 ≤ trips.length)
    let s := s.setCore c { x with
      stretch := true
      srcTarget := if hopStands p x then x.srcnow else x.srcTarget
      dcount := if x.dcount.toNat < 65535 then x.dcount + 1 else x.dcount
      trips := trips
      forced := force }
    let s := if force then startSequence c x.volt (slowerSource p x.srcnow) s else s
    killDue c (s.post .droopRecover { core := c })
/-- DROOP_TRIP: the supply of core falls. -/
def execDroopTrip (s : State) : Host.Outcome State Fault Refusal := event (fun e s => droopTrip e.core s) s
/-- The supply has risen. -/
def droopRecover (c : CoreId) (s : State) : State := s.setCore c { s.core c with stretch := false }
/-- DROOP_RECOVER: the supply of core has risen. -/
def execDroopRecover (s : State) : Host.Outcome State Fault Refusal := event (fun e s => droopRecover e.core s) s

/-! ## Limits of the package (01 R18) -/

/-- The package clamped or not. -/
def clampPackage (on : Bool) (s : State) : State := s.withPackage fun p => { p with powerClamp := on }
/-- POWER_LIMIT_CLAMP: the average input power is a mW. -/
def execPowerLimitClamp (s : State) : Host.Outcome State Fault Refusal :=
  event (fun e s => if 4800000 < e.a then clampPackage true s else s) s
/-- POWER_LIMIT_RELEASE: the average input power is a mW. -/
def execPowerLimitRelease (s : State) : Host.Outcome State Fault Refusal :=
  event (fun e s => if e.a < 4560000 then clampPackage false s else s) s
/-- A compute die clamped or not. -/
def clampDie (panel : Nat) (on : Bool) (s : State) : State := s.setPanel panel { s.panel panel with clamped := on }
/-- THERMAL_CLAMP: the junction of panel's die is at a °C. -/
def execThermalClamp (s : State) : Host.Outcome State Fault Refusal :=
  event (fun e s => if 100 ≤ e.a then clampDie e.panel true s else s) s
/-- THERMAL_CLAMP_RELEASE: the junction of panel's die is at a °C. -/
def execThermalClampRelease (s : State) : Host.Outcome State Fault Refusal :=
  event (fun e s => if e.a < 95 then clampDie e.panel false s else s) s
/-- PACKAGE_SHUTDOWN: a die's junction is at a °C. -/
def execPackageShutdown (s : State) : Host.Outcome State Fault Refusal :=
  event (fun e s => if 110 ≤ e.a then s.withPackage fun p => { p with shutdown := true } else s) s

/-! ## After a kill (05 R135, 06 R159) -/

/-- The supervisor scrubs the physical core and runs its self-test, whose result is open (log 8). -/
def scrubCore (c : CoreId) (s : State) : State :=
  let p := s.panel c.panel
  if !p.supervised || !p.kills.contains c || (s.core c).status != .killed then s
  else
    (s.setCore c { s.core c with
      scrubbing := true
      scrubFailed := false
      scratch := [], scratchPoison := [], operand := [], operandPoison := [], tiles := [], tileBad := [] }).post .scrubDone
      { core := c, ok := (Config.freeValue s.steps).getLsbD 0 }
/-- KILL_SCRUB: the killed core. -/
def execKillScrub (s : State) : Host.Outcome State Fault Refusal := event (fun e s => scrubCore e.core s) s

/-- A logical core unsealed on a scrubbed physical core: its registers move with it, its bindings are free. -/
def freshCore (x : Core) : Core :=
  { x with
    status := .idle, before := .idle, scrubbing := false, killCause := 0, isSealed := false, bindings := [], mailbox := []
    reservations := [], scratch := [], scratchPoison := [], operand := [], operandPoison := [], tiles := [], tileBad := [], skeins := []
    cmdq := [], cmdqNext := 0, active := none, markv := 0, mcause := 0, mstrand := 0, stop := false, mbound := false
    mflags := 0, mparked := none, ranges := [], stopCmd := 0, stretch := false, lawCache := []
    arrayLeft := 0, arrayNow := 0, plb := [], plbUse := [], killWaits := none, scrubFailed := false, heldBuffered := [], savedRoles := []
    savedViews := [], savedPending := [], savedQueue := [] }

/-- The task of a killed core is to be dispensed again. -/
def redispense (c : CoreId) (s : State) : State :=
  match runningRec s c with
  | none => s
  | some r =>
    let p := s.panel c.panel
    (s.setPanel c.panel { p with redispense := p.redispense ++ [(c, r)] }).post .dispatch { panel := c.panel }

/-- The scrub has ended: the core returns IDLE; or its self-test or the scrub itself failed (05 R137), its physical core is
retired, and the spare of the lowest physical index takes its identity, where there is one. -/
def scrubEnds (c : CoreId) (ok : Bool) (s : State) : State :=
  let x := s.core c
  if x.status != .killed || !x.scrubbing then s
  else
    let p := s.panel c.panel
    let kills := p.kills.filter fun k => k != c
    if ok && !x.scrubFailed then redispense c ((s.setPanel c.panel { p with kills := kills }).setCore c (freshCore x))
    else
      let lost := p.lost ++ ((physOf s c).toList)
      match p.spares with
      | [] =>
        let s := s.setPanel c.panel { p with kills := kills, lost := lost, coreMap := Table.set 0 p.coreMap c.index 0 }
        redispense c (s.setCore c { freshCore x with status := .retired, isSealed := true })
      | n :: ns =>
        let spare := ns.foldl min n
        let s := s.setPanel c.panel { p with
          kills := kills, lost := lost, spares := p.spares.erase spare
          coreMap := Table.set 0 p.coreMap c.index (spare + 1) }
        redispense c (withhold c.panel (s.setCore c (freshCore x)))
/-- SCRUB_DONE: the scrub of core has ended, and its self-test has passed or not. -/
def execScrubDone (s : State) : Host.Outcome State Fault Refusal := event (fun e s => scrubEnds e.core e.ok s) s

end Sys2Proof.Machine
end

