-- ==== Sys2Proof/Machine/Stacks.lean ====
section
/-!
DEFINITION. Stacks.lean: what happens to a stack as a whole: self-refresh (02 R75, R76), the region table and region swaps
(R52–R59), channel retirement (R60), the release of expander extents (R77), the access counters (R57, 07 R174) and errors in
storage (05 R131).
-/
namespace Sys2Proof.Machine

/-! ## Self-refresh (02 R75, R76) -/

/-- THERMAL for every resident tenant: 0 entry, 1 exit. -/
def postThermal (stack way : Nat) (s : State) : State := postAll s (srcStack stack) 5 [(24, 1, stack), (25, 1, way)]

/-- The DRAM of a stack enters self-refresh. -/
def refreshEnter (stack : Nat) (s : State) : State :=
  let x := s.stack stack
  if x.refresh then s else postThermal stack 0 (s.setStack stack { x with refresh := true })
/-- SELF_REFRESH_ENTER -/
def execSelfRefreshEnter (s : State) : Host.Outcome State Fault Refusal := event (fun e s => refreshEnter e.stack s) s

/-- A queued read of a line is served: the line is in the home cache, and in the L1 of the core that asked. Where a routine
runs on the line (02 R68) the core asks again. -/
def serveRead (r : HomeRead) (s : State) : State :=
  let s := { s with homeReads := dropId HomeRead.id s.homeReads r.id }
  match r.fill with
  | none => homeTouch r.key false s
  | some (c, va) => if lineBusy s (.dev r.key) || (s.core c).gone then s else l1Fill c va (.dev r.key) s

/-! ## Regions -/

/-- The lines of a test leave the home cache of a stack: dirty ones are written to DRAM, where keep allows it. -/
def dropHome (stack : Nat) (test : Nat → Bool) (s : State) : State :=
  (s.stack stack).home.foldl (fun s e =>
    let out := e.2.filter fun l => test l.line
    let s := out.foldl (fun s l => evictLine l s) s
    setHomeLines stack e.1 ((homeLines s stack e.1).filter fun l => !test l.line) s) s

/-- Every owner of the sectors of a test recalled. -/
def recallWhere (test : Nat → Bool) (s : State) : State :=
  s.sectors.foldl (fun s e => if test e.1 then recallSector e.1 s else s) s

/-- A promotion slot holds a row with a line of a media region. -/
def slotTouches (s : State) (media n : Nat) (v : Slot) : Bool :=
  (List.range 16384).any fun i =>
    let p := farPlace s (media * 2 ^ 21 + 128 * i)
    p.1 == n / 16 && (p.2 == v.row || v.next == some p.2)

/-- The home slices of a media region recall its owners, write its dirty lines back, and demote its slots (02 R51, R58, R77). -/
def cleanMedia (media : Nat) (s : State) : State :=
  let stack := keyStack (media * 2 ^ 21)
  let s := recallWhere (fun q => q / 65536 == media) s
  let s := dropHome stack (fun l => l / 16384 == media) s
  if keyClass (media * 2 ^ 21) = 1 then demoteWhere stack (slotTouches s media) s else s

/-- The copy is of a line of a media region. -/
def L1Line.inMedia (l : L1Line) (media : Nat) : Bool := l.media.any fun line => line / 16384 == media
/-- Every L1 copy of the lines of a media region invalidated (02 R77). -/
def dropCopies (media : Nat) (s : State) : State :=
  { s with cores := Table.mapValues {} (fun x =>
      if x.l1.any fun l => l.inMedia media then x.withL1 (x.l1.filter fun l => !l.inMedia media) else x) s.cores }

/-- Stack 11 gives up the lines of a region that is being released. -/
def releaseRegion (r : Nat) (s : State) : State :=
  let m := entryMedia (regionEntry s r)
  dropCopies m (cleanMedia m s)

/-- Some region of an extent is valid. -/
def extentValid (s : State) (a n : Nat) : Bool := (List.range n).any fun i => rgValid (regionEntry s (a + i))

/-- The region that is swapped with a region: one in STATE swapping, of its class, on another stack (02 R58). DESIGN CHOICE
(log 35): of several it is the lowest-numbered. -/
def swapPartner (s : State) (r : Nat) : Option Nat :=
  let e := regionEntry s r
  (List.range 524288).find? fun q =>
    let f := regionEntry s q
    rgValid f && rgState f == 1 && rgClass f == rgClass e && rgStack f != rgStack e

/-- A region-table entry written on all twelve slices, with what its STATE starts (02 R52, R58, R77). A reserved CLASS or
STACK, or a bit above 31, leaves it (01 R41). -/
def regionStore (r : Nat) (v : W64) (s : State) : State :=
  let e := v.setWidth 32
  if 2 ^ 32 ≤ v.toNat || rgClass e == 3 || 12 ≤ rgStack e then s
  else
    let s := setRegion s r e
    let s := s.withPackage fun p => { p with
      releasing := p.releasing.filter fun x => extentValid s x.1 x.2.1 }
    if !rgValid e then s
    else
      match rgState e with
      | 1 => match swapPartner s r with
        | some q => s.post .regionSwapDrain { a := r, b := q }
        | none => s
      | 2 => releaseRegion r s
      | _ => s
/-- REGION_WRITE: entry a is written with v. -/
def execRegionWrite (s : State) : Host.Outcome State Fault Refusal :=
  event (fun e s => regionStore e.a e.v (storeDone e.id s)) s

/-! ## Region swaps (02 R58, R59) -/

/-- A request already accepted concerns one of two media regions. A status word still to be written and an APPEND's line
while its slot store waits are requests to come: they go to the regions' new places. -/
def requestsIn (s : State) (a b : Nat) : Bool :=
  s.stores.any (fun r => r.bytes.any fun x => placeIn a b x.1) ||
    s.hookReqs.any (fun r => r.stage < 4 && placeIn a b r.place) ||
    s.ticketReqs.any (fun r => r.bytes.any (placeIn a b)) || s.homeReads.any fun r => placeIn a b (.dev r.key)
/-- The entries are those of two regions that swap (02 R58). -/
def swapping (ea eb : BitVec 32) : Bool :=
  rgValid ea && rgValid eb && rgState ea == 1 && rgState eb == 1 && rgClass ea == rgClass eb && rgStack ea != rgStack eb
/-- The stack of one of two entries is in self-refresh: no swap starts, and one under way waits (02 R59). -/
def swapHeld (s : State) (ea eb : BitVec 32) : Bool := (s.stack (rgStack ea)).refresh || (s.stack (rgStack eb)).refresh

/-- Both regions are swapping: once their accepted requests are done and neither stack is in self-refresh, their slices are
emptied of them. -/
def swapDrain (ra rb : Nat) (s : State) : State :=
  let ea := regionEntry s ra
  let eb := regionEntry s rb
  if !swapping ea eb then s
  else
    let a := entryMedia ea
    let b := entryMedia eb
    if requestsIn s a b || swapHeld s ea eb then
      s.post .regionSwapDrain { a := ra, b := rb }
    else (cleanMedia b (cleanMedia a s)).post .regionSwapExchange { a := ra, b := rb }
/-- REGION_SWAP_DRAIN: regions a and b. -/
def execRegionSwapDrain (s : State) : Host.Outcome State Fault Refusal := event (fun e s => swapDrain e.a e.b s) s

/-- A number in units of which a media region has n, with the media regions a and b exchanged. -/
def swapIn (a b n x : Nat) : Nat :=
  if x / n = a then b * n + x % n else if x / n = b then a * n + x % n else x
/-- A table whose keys are exchanged so. -/
def swapTable {α : Type} [DecidableEq α] (d : α) (a b n : Nat) (t : Table α) : Table α :=
  let hit := fun (e : Nat × α) => e.1 / n == a || e.1 / n == b
  (t.filter hit).foldl (fun t e => Table.set d t (swapIn a b n e.1) e.2) (t.filter fun e => !hit e)

/-- A place with two media regions exchanged. -/
def swapPlace (a b : Nat) : Place → Place
  | .dev key => .dev (swapIn a b (2 ^ 21) key)
  | p => p
/-- What an L1 knows of the exchanged lines. -/
def swapCore (a b : Nat) (x : Core) : Core :=
  let word := fun (w : BufByte) => { w with key := swapIn a b (2 ^ 21) w.key }
  { x with
    l1 := x.l1.map fun l => { l with home := swapPlace a b l.home }
    buffered := x.buffered.map word
    heldBuffered := x.heldBuffered.map fun e => (e.1, word e.2)
    published := x.published.map fun e => (e.1, swapIn a b 65536 e.2) }

/-- The hooks exchange two media regions line by line, with poison and stamps, once neither stack is in self-refresh. No datum
changes value for its reader. -/
def swapMedia (ra rb : Nat) (s : State) : State :=
  let ea := regionEntry s ra
  let eb := regionEntry s rb
  if !swapping ea eb then s
  else if swapHeld s ea eb then s.post .regionSwapExchange { a := ra, b := rb }
  else
    let a := entryMedia ea
    let b := entryMedia eb
    { s with
      dmem := swapTable (0 : Byte) a b (2 ^ 21) s.dmem
      sectors := swapTable 0 a b 65536 s.sectors
      hookReqs := s.hookReqs.map fun r => { r with place := swapPlace a b r.place }
      copyJobs := s.copyJobs.map fun j => { j with statPlace := j.statPlace.map (swapPlace a b) }
      cores := Table.mapValues {} (swapCore a b) s.cores }
/-- REGION_SWAP_EXCHANGE: regions a and b. -/
def execRegionSwapExchange (s : State) : Host.Outcome State Fault Refusal := event (fun e s => swapMedia e.a e.b s) s

/-! ## Channel retirement (02 R60) -/

/-- The valid regions on a stack. -/
def stackRegions (s : State) (stack : Nat) : List Nat :=
  (List.range 524288).filter fun r => rgValid (regionEntry s r) && rgStack (regionEntry s r) == stack

/-- The tickets of a slice are dropped: their generations advance, and redeems that wait for one look again. -/
def dropTickets (stack slice : Nat) (s : State) : State :=
  let mine := (s.stack stack).tickets.filter fun e => e.1 / 2048 == slice && e.2.used
  mine.foldl (fun s e =>
    let s := setTicket stack e.1 { gen := e.2.gen + 1 } s
    e.2.waiters.foldl (fun s w => s.post .ticketRedeem { id := w }) s) s

/-- Lines that could not be read are poisoned, every sector. -/
def poisonLines (errs : List StoreErr) (s : State) : State :=
  devPoison (errs.flatMap fun e => (List.range 4).map fun i => (e.addr / 4 * 4 + i) * 32) s

/-- A channel retires once its stack is quiesced: every valid region of it is in maintenance. Owners are recalled, lines
written back, slots demoted, and every line has its place under 31 channels. Device memory is keyed by media, so no byte
changes its key. A second failure leaves no valid region. -/
def retireChannel (stack channel : Nat) (errs : List StoreErr) (s : State) : State :=
  let x := s.stack stack
  if x.dead then s
  else if x.retired.isSome then
    let s := (stackRegions s stack).foldl (fun s r => setRegion s r (regionEntry s r &&& 0x7FFFFFFF)) s
    s.setStack stack { s.stack stack with dead := true }
  else
    let rs := stackRegions s stack
    if rs.any fun r => rgState (regionEntry s r) != 3 then s
    else
      let s := recallWhere (fun q => keyStack (q * 32) == stack) s
      let s := poisonLines errs s
      let s := dropTickets stack channel s
      let y := s.stack stack
      let s := s.setStack stack { y with
        home := [], slots := [], retired := some channel, lawCache := y.lawCache.filter fun e => e.1 != channel }
      rs.foldl (fun s r => setRegion s r (withRgState (regionEntry s r) 0)) s
/-- CHANNEL_RETIRE_MOVE: physical channel a of a stack; the errors name the lines that could not be read. -/
def execChannelRetireMove (s : State) : Host.Outcome State Fault Refusal :=
  event (fun e s => retireChannel e.stack e.a e.errs s) s

/-! ## Counters (02 R57, 07 R174) -/

/-- Every count of a table halved. -/
def halveTable {w : Nat} (t : Table (BitVec w)) : Table (BitVec w) :=
  Table.mapValues 0 (fun (v : BitVec w) => v >>> 1) t
/-- The region and stack counters of every panel halved. -/
def halveRegions (s : State) : State :=
  (List.range 12).foldl (fun s p =>
    let x := s.panel p
    s.setPanel p { x with regionCounts := halveTable x.regionCounts, stackCounts := halveTable x.stackCounts }) s
/-- REGION_COUNTER_HALVE -/
def execRegionCounterHalve (s : State) : Host.Outcome State Fault Refusal := event (fun _ s => halveRegions s) s
/-- Every count of the page tables halved. -/
def halvePages (s : State) : State :=
  (List.range 12).foldl (fun s p =>
    let x := s.panel p
    s.setPanel p { x with pageCounts := x.pageCounts.map fun e => (e.1, e.2.1 / 2, e.2.2.1 / 2, e.2.2.2 / 2) }) s
/-- PAGE_COUNTER_HALVE -/
def execPageCounterHalve (s : State) : Host.Outcome State Fault Refusal := event (fun _ s => halvePages s) s

/-! ## Errors in storage (05 R131) -/

/-- The number of a kind of storage: its row of R131. -/
def kindRow : StoreKind → Nat
  | .regfile => 0
  | .scratchpad => 1
  | .l1 => 1
  | .operand => 1
  | .mailbox => 1
  | .netbuf => 1
  | .acc => 2
  | .home => 3
  | .dram => 4
/-- The kind belongs to a stack. -/
def stackKind : StoreKind → Bool
  | .home => true
  | .dram => true
  | _ => false
/-- The address that the log gives for an error (01 R42). DESIGN CHOICE (log 43): for the storage of a stack, the physical
address of the sector; for an L1, its virtual address; for a scratchpad, its address in the panel window; for any other, the
byte offset of the sector in it, or the number of the cell or register. -/
def errAddress (s : State) (e : StoreErr) : Nat :=
  match e.kind with
  | .home => (keyPa s (e.addr * 32)).getD (e.addr * 32)
  | .dram => (keyPa s (e.addr * 32)).getD (e.addr * 32)
  | .scratchpad => 0x01F1000000000000 + CoreId.index e.owner * 0x100000 + e.addr * 32
  | .regfile => e.addr
  | .acc => e.addr
  | _ => e.addr * 32
/-- An error counted in its panel's log (01 R42). -/
def logError (e : StoreErr) (s : State) : State :=
  let panel := if stackKind e.kind then e.owner else CoreId.panel e.owner
  let p := s.panel panel
  let word := kindRow e.kind + (if e.corrected then 0 else 256) + s.now.toNat % 2 ^ 48 * 2 ^ 16
  s.setPanel panel { p with
    errlog := Table.set (0, 0) p.errlog p.errpos (BitVec.ofNat 64 (errAddress s e), BitVec.ofNat 64 word)
    errpos := (p.errpos + 1) % 256 }

/-- A sector (of virtual addresses) of an L1's copy is lost: owned and buffered words take their poison home, a mere copy
keeps it. -/
def l1Error (c : CoreId) (sector : Nat) (s : State) : State :=
  let x := s.core c
  let words := sectorWords (sector % 4) 0xFF
  let hit := fun (l : L1Line) => l.line == sector / 4
  let lost := (x.l1.filter fun l => hit l && l.owned &&& words != 0).filterMap L1Line.media
  let s := lost.foldl (fun s line => deregister c (line * 4 + sector % 4) 0xFF (devPoison [(line * 4 + sector % 4) * 32] s)) s
  let x := s.core c
  s.setCore c { x with
    l1 := x.l1.map fun l =>
      if !hit l then l
      else if l.owned &&& words != 0 then { l with owned := l.owned &&& ~~~words, valid := l.valid &&& ~~~words }
      else { l with bad := l.bad ||| ((1 : BitVec 4) <<< (sector % 4)) }
    buffered := x.buffered.map fun b => if b.va / 32 == sector then { b with bad := true } else b }

/-- Sector i of a packet's payload poisoned. -/
def Packet.spoil (p : Packet) (i : Nat) : Packet := { p with bad := i :: p.bad.filter fun q => q != i }
/-- The packets in a core's network interface: those of its strands, also of one that has ended, and its pager messages. -/
def sending (s : State) (c : CoreId) : List Packet :=
  s.packets.filter fun p => p.source.toNat / 64 == (strandSource s (mkStrand c 0)).toNat / 64
/-- The 32-byte sectors in the buffers of a core's network interface, in order, each as what its loss does: four for a packet, then
those of the answers to the core's loads, of its stores, of its landings at other cores, and of its rotation (05 R131). -/
def netSectors (s : State) (c : CoreId) : List (State → State) :=
  ((sending s c).flatMap fun p => (List.range 4).map fun i (s : State) =>
      { s with packets := putId Packet.id s.packets (p.spoil i) }) ++
    ((s.panelReads.filter fun r => r.strand.core == c).flatMap fun r =>
      match r.reply with
      | some (.ok _) => (((List.range r.size).map fun i => (r.off + i) / 32).dedup).map fun q (s : State) =>
          { s with panelReads := putId PanelRead.id s.panelReads { r with poison := q :: r.poison } }
      | _ => []) ++
    ((s.stores.filter fun r => r.core == c && (r.path == 0 || r.path == 4)).map fun r (s : State) =>
      { s with stores := putId StoreReq.id s.stores { r with poison := r.bytes.map Prod.fst } }) ++
    ((s.landings.filter fun l => match l.sender with | .strand k => StrandId.core k == c | _ => false).flatMap fun l =>
      ((l.bytes.map fun b => b.1 / 32).dedup).map fun q (s : State) =>
        { s with landings := s.landings.map fun m =>
            if m == l then { l with poison := ((l.bytes.map Prod.fst).filter fun o => o / 32 == q) ++ l.poison } else m }) ++
    ((s.rotations.filter fun r => r.fromCore == c).flatMap fun r => (List.range 256).map fun q (s : State) =>
      { s with rotations := putId Rotation.id s.rotations { r with poison := q :: r.poison } })
/-- An error that cannot be corrected (05 R131); one in a core that is being scrubbed makes its scrub fail (R137). -/
def spoil (e : StoreErr) (s : State) : State :=
  let s := if !stackKind e.kind && (s.core e.owner).scrubbing then s.setCore e.owner { s.core e.owner with scrubFailed := true } else s
  let x := s.core e.owner
  match e.kind with
  | .regfile => killCore e.owner 2 s
  | .scratchpad => scratchSpoil e.owner [e.addr * 32] s
  | .l1 => l1Error e.owner e.addr s
  | .operand => s.setCore e.owner { x with operandPoison := e.addr :: x.operandPoison.filter fun q => q != e.addr }
  | .mailbox => s.setCore e.owner { x with
      mailbox := x.mailbox.zipIdx.map fun p => if p.2 == e.addr / 4 then p.1.spoil (e.addr % 4) else p.1 }
  | .netbuf =>
    match (netSectors s e.owner)[e.addr]? with
    | some lose => lose s
    | none => s
  | .acc => s.setCore e.owner { x with tileBad := e.addr :: x.tileBad.filter fun q => q != e.addr }
  | .home => devPoison [e.addr * 32] s
  | .dram => devPoison [e.addr * 32] s

/-- One error of storage. -/
def storeError (e : StoreErr) (s : State) : State :=
  let s := logError e s
  if e.corrected then s else spoil e s
/-- Errors that an ECC check finds. -/
def storeErrors (errs : List StoreErr) (s : State) : State := errs.foldl (fun s e => storeError e s) s
/-- STORAGE_ERROR -/
def execStorageError (s : State) : Host.Outcome State Fault Refusal := event (fun e s => storeErrors e.errs s) s
/-- PATROL_SCRUB: what the scrub finds. -/
def execPatrolScrub (s : State) : Host.Outcome State Fault Refusal := event (fun e s => storeErrors e.errs s) s

/-! ## Release of expander extents (02 R77) -/

/-- The regions of an extent that may be released: valid, CLASS X, on stack 11. -/
def extentRegions (s : State) (a n : Nat) : List Nat :=
  ((List.range n).map fun i => a + i).filter fun r =>
    let e := regionEntry s r
    rgValid e && rgClass e == 2 && rgStack e == 11

/-- The fabric manager asks for an extent: its regions are set releasing, and stack 11 gives up their lines. -/
def releaseRequest (a n : Nat) (s : State) : State :=
  let rs := extentRegions s a n
  if rs.isEmpty then s
  else
    let s := s.withPackage fun p => { p with releasing := (p.releasing.filter fun e => e != (a, n, false)) ++ [(a, n, false)] }
    rs.foldl (fun s r => releaseRegion r (setRegion s r (withRgState (regionEntry s r) 2))) s
/-- FABRIC_RELEASE_REQUEST: b regions from a on. -/
def execFabricReleaseRequest (s : State) : Host.Outcome State Fault Refusal :=
  event (fun e s => releaseRequest e.a e.b s) s

/-- The dirty lines of a media region poisoned and not written. -/
def poisonDirty (media : Nat) (s : State) : State :=
  let stack := keyStack (media * 2 ^ 21)
  let s := recallWhere (fun q => q / 65536 == media) s
  (s.stack stack).home.foldl (fun s e =>
    let dirty := fun (l : HomeLine) => l.line / 16384 == media && l.dirty
    let s := devPoison ((e.2.filter dirty).flatMap fun l => (List.range 4).map fun i => (l.line * 4 + i) * 32) s
    setHomeLines stack e.1 ((homeLines s stack e.1).map fun l => if dirty l then { l with dirty := false } else l) s) s

/-- The release is forced before it is acknowledged: what is still dirty stays poisoned until the regions are invalid. -/
def releaseForced (a n : Nat) (s : State) : State :=
  let rs := extentRegions s a n
  if rs.isEmpty then s
  else
    let s := rs.foldl (fun s r =>
      let s := setRegion s r (withRgState (regionEntry s r) 2)
      let m := entryMedia (regionEntry s r)
      dropCopies m (poisonDirty m s)) s
    s.withPackage fun p => { p with releasing := (p.releasing.filter fun e => e.1 != a || e.2.1 != n) ++ [(a, n, true)] }
/-- FORCED_RELEASE: b regions from a on. -/
def execForcedRelease (s : State) : Host.Outcome State Fault Refusal := event (fun e s => releaseForced e.a e.b s) s

end Sys2Proof.Machine
end

