-- ==== Sys2Proof/Machine/Refresh.lean ====
section
/-!
DEFINITION. Refresh.lean: the end of self-refresh: the queued requests of every kind are served in arrival order (02 R76).
-/
namespace Sys2Proof.Machine

/-- What an event does that asks for lines of DRAM for a party. -/
def partyEvent (i : Instr) : Option (EventArg → State → State) :=
  match i with
  | .copyPacketCopy => some fun e => performPacket e.id planCopy
  | .copyPacketCopy2d => some fun e => performPacket e.id plan2d
  | .copyPacketFill => some fun e => performPacket e.id planFill
  | .copyPacketReduce => some fun e => performPacket e.id planReduce
  | .copyPacketPut => some fun e => performPacket e.id planPut
  | .copyPacketGet => some fun e => performPacket e.id planGet
  | .copyPacketComplete => some fun e => completePacket e.id
  | .copySlotRead => some fun e => readCopySlot e.tenant e.a
  | .swiftReadSlot => some fun e => readSlot e.panel e.tenant e.a
  | .taskStart => some fun e => startTask e.core
  | .handlerStart => some fun e => startHandler e.core
  | .traceDiverge => some fun e => traceLate e.core e.a
  | .matrixLoad => some fun e => performCommand 1 loadCmd e.core
  | .matrixMma => some fun e => performCommand 2 mmaCmd e.core
  | .matrixStore => some fun e => performCommand 4 storeCmd e.core
  | .requestRetry => some fun e => retryItem e.id e.a
  | .hostWindowRead => some hostRead
  | .hostWindowWrite => some windowWrite
  | .shipgo => some shipgoStore
  | .preemptSaveDone => some fun e => saveDone e.core
  | .corecmdResume => some fun e => resume e.core e.v
  | .tenantCreate => some fun _ => mailCommand 1 createTenant
  | .tenantDestroy => some fun _ => mailCommand 2 destroyTenant
  | .queueCreate => some fun _ => mailCommand 3 createQueue
  | .queueDestroy => some fun _ => mailCommand 4 destroyQueue
  | _ => none
/-- The turn is such an event with these operands. -/
def turnOf (e : EventArg) (t : Turn) : Bool :=
  match t with
  | .event i b => b == e && (partyEvent i).isSome
  | _ => false
/-- The request of a party is served: its event, which is due, runs now. -/
def serveParty (e : EventArg) (s : State) : State :=
  let run := fun (s : State) (t : Turn) =>
    match t with
    | .event i _ => match partyEvent i with | some f => f e s | none => s
    | _ => s
  let due := s.agenda.filter (turnOf e)
  { due.foldl run { s with agenda := s.agenda.filter fun t => !turnOf e t, arg := e } with arg := s.arg }

/-- A queued request is served. -/
def serveQueued (id : Nat) (s : State) : State :=
  match findId HomeRead.id s.homeReads id with
  | some r =>
    match r.party with
    | some e => serveParty e (serveRead r s)
    | none => serveRead r s
  | none =>
    match hookReq s id with
    | some r => hookNext (lineStart r.place) s
    | none => if s.stores.any fun r => r.id == id then storeArrive id s else ticketFill id s

/-- Self-refresh ends: the queued requests are served in arrival order, before any later one. -/
def refreshExit (stack : Nat) (s : State) : State :=
  let x := s.stack stack
  if !x.refresh then s
  else
    let s := s.setStack stack { x with refresh := false, queue := [] }
    postThermal stack 1 (x.queue.foldl (fun s e => serveQueued e.1 s) s)
/-- SELF_REFRESH_EXIT -/
def execSelfRefreshExit (s : State) : Host.Outcome State Fault Refusal := event (fun e s => refreshExit e.stack s) s

end Sys2Proof.Machine
end

