-- ==== Sys2Proof/Machine/Dispatch.lean ====
section
/-!
DEFINITION. Dispatch.lean: one arm per row of the opcode table: the instruction or event, and its meaning.
-/
namespace Sys2Proof.Machine

/-- One instruction of the strand in hand, or one event with the operands in hand. -/
def exec (i : Instr) (s : State) : Host.Outcome State Fault Refusal :=
  match i with
  | .hLda o => Sys2Proof.Machine.execHLda o s
  | .hSta k fmt inc p => Sys2Proof.Machine.execHSta k fmt inc p s
  | .hAdd o => Sys2Proof.Machine.execHAdd o s
  | .hSub o => Sys2Proof.Machine.execHSub o s
  | .hRsub o => Sys2Proof.Machine.execHRsub o s
  | .hMul o => Sys2Proof.Machine.execHMul o s
  | .hFma o => Sys2Proof.Machine.execHFma o s
  | .hMin o => Sys2Proof.Machine.execHMin o s
  | .hMax o => Sys2Proof.Machine.execHMax o s
  | .hAnd o => Sys2Proof.Machine.execHAnd o s
  | .hOr o => Sys2Proof.Machine.execHOr o s
  | .hXor o => Sys2Proof.Machine.execHXor o s
  | .hShl ch k inc p => Sys2Proof.Machine.execHShl ch k inc p s
  | .hShra ch k inc p => Sys2Proof.Machine.execHShra ch k inc p s
  | .hAcc o => Sys2Proof.Machine.execHAcc o s
  | .hCmplt o => Sys2Proof.Machine.execHCmplt o s
  | .illegalInstruction parcels => Sys2Proof.Machine.execIllegalInstruction parcels s
  | .variAdd sat rm o => Sys2Proof.Machine.execVariAdd sat rm o s
  | .variSub sat rm o => Sys2Proof.Machine.execVariSub sat rm o s
  | .variRsub sat rm o => Sys2Proof.Machine.execVariRsub sat rm o s
  | .variMul sat rm o => Sys2Proof.Machine.execVariMul sat rm o s
  | .variFma sat rm o => Sys2Proof.Machine.execVariFma sat rm o s
  | .variFms sat rm o => Sys2Proof.Machine.execVariFms sat rm o s
  | .variFmal sat rm o => Sys2Proof.Machine.execVariFmal sat rm o s
  | .variMin sat rm o => Sys2Proof.Machine.execVariMin sat rm o s
  | .variMax sat rm o => Sys2Proof.Machine.execVariMax sat rm o s
  | .variDiv sat rm o => Sys2Proof.Machine.execVariDiv sat rm o s
  | .variSqrt sat rm o => Sys2Proof.Machine.execVariSqrt sat rm o s
  | .variAbs sat rm o => Sys2Proof.Machine.execVariAbs sat rm o s
  | .variNeg sat rm o => Sys2Proof.Machine.execVariNeg sat rm o s
  | .variMov sat rm o => Sys2Proof.Machine.execVariMov sat rm o s
  | .variMulh sat rm o => Sys2Proof.Machine.execVariMulh sat rm o s
  | .variCpysgn sat rm o => Sys2Proof.Machine.execVariCpysgn sat rm o s
  | .vbitAnd o => Sys2Proof.Machine.execVbitAnd o s
  | .vbitOr o => Sys2Proof.Machine.execVbitOr o s
  | .vbitXor o => Sys2Proof.Machine.execVbitXor o s
  | .vbitAndn o => Sys2Proof.Machine.execVbitAndn o s
  | .vbitShl o => Sys2Proof.Machine.execVbitShl o s
  | .vbitShr o => Sys2Proof.Machine.execVbitShr o s
  | .vbitShra o => Sys2Proof.Machine.execVbitShra o s
  | .vbitRol o => Sys2Proof.Machine.execVbitRol o s
  | .vbitNot o => Sys2Proof.Machine.execVbitNot o s
  | .vbitPopc o => Sys2Proof.Machine.execVbitPopc o s
  | .vbitClz o => Sys2Proof.Machine.execVbitClz o s
  | .vcmpEq kd o => Sys2Proof.Machine.execVcmpEq kd o s
  | .vcmpNe kd o => Sys2Proof.Machine.execVcmpNe kd o s
  | .vcmpLt kd o => Sys2Proof.Machine.execVcmpLt kd o s
  | .vcmpLe kd o => Sys2Proof.Machine.execVcmpLe kd o s
  | .vcmpGt kd o => Sys2Proof.Machine.execVcmpGt kd o s
  | .vcmpGe kd o => Sys2Proof.Machine.execVcmpGe kd o s
  | .vcmpUn kd o => Sys2Proof.Machine.execVcmpUn kd o s
  | .vcmpLtu kd o => Sys2Proof.Machine.execVcmpLtu kd o s
  | .vcmpLeu kd o => Sys2Proof.Machine.execVcmpLeu kd o s
  | .vcmpGtu kd o => Sys2Proof.Machine.execVcmpGtu kd o s
  | .vcmpGeu kd o => Sys2Proof.Machine.execVcmpGeu kd o s
  | .vcvtTi64 sat rm o => Sys2Proof.Machine.execVcvtTi64 sat rm o s
  | .vcvtTi32 sat rm o => Sys2Proof.Machine.execVcvtTi32 sat rm o s
  | .vcvtTi16 sat rm o => Sys2Proof.Machine.execVcvtTi16 sat rm o s
  | .vcvtTi8 sat rm o => Sys2Proof.Machine.execVcvtTi8 sat rm o s
  | .vcvtTf64 sat rm o => Sys2Proof.Machine.execVcvtTf64 sat rm o s
  | .vcvtTf32 sat rm o => Sys2Proof.Machine.execVcvtTf32 sat rm o s
  | .vcvtTbf16 sat rm o => Sys2Proof.Machine.execVcvtTbf16 sat rm o s
  | .vcvtTf16 sat rm o => Sys2Proof.Machine.execVcvtTf16 sat rm o s
  | .vcvtTe4m3 sat rm o => Sys2Proof.Machine.execVcvtTe4m3 sat rm o s
  | .vcvtTe5m2 sat rm o => Sys2Proof.Machine.execVcvtTe5m2 sat rm o s
  | .vcvtTe2m1 sat rm o => Sys2Proof.Machine.execVcvtTe2m1 sat rm o s
  | .vcvtTsk sat rm o => Sys2Proof.Machine.execVcvtTsk sat rm o s
  | .vcvtFe4m3 o => Sys2Proof.Machine.execVcvtFe4m3 o s
  | .vcvtFe5m2 o => Sys2Proof.Machine.execVcvtFe5m2 o s
  | .vcvtFe2m1 o => Sys2Proof.Machine.execVcvtFe2m1 o s
  | .vpermBcast o => Sys2Proof.Machine.execVpermBcast o s
  | .vpermPerm o => Sys2Proof.Machine.execVpermPerm o s
  | .vpermSldn o => Sys2Proof.Machine.execVpermSldn o s
  | .vpermSlup o => Sys2Proof.Machine.execVpermSlup o s
  | .vpermZiplo o => Sys2Proof.Machine.execVpermZiplo o s
  | .vpermZiphi o => Sys2Proof.Machine.execVpermZiphi o s
  | .vpermUnzev o => Sys2Proof.Machine.execVpermUnzev o s
  | .vpermUnzod o => Sys2Proof.Machine.execVpermUnzod o s
  | .vpermCompr o => Sys2Proof.Machine.execVpermCompr o s
  | .vpermExpnd o => Sys2Proof.Machine.execVpermExpnd o s
  | .vpermRev o => Sys2Proof.Machine.execVpermRev o s
  | .vpermIota o => Sys2Proof.Machine.execVpermIota o s
  | .vredSum sat rm o => Sys2Proof.Machine.execVredSum sat rm o s
  | .vredMin o => Sys2Proof.Machine.execVredMin o s
  | .vredMax o => Sys2Proof.Machine.execVredMax o s
  | .vredAcc sat rm o => Sys2Proof.Machine.execVredAcc sat rm o s
  | .vredDot sat rm o => Sys2Proof.Machine.execVredDot sat rm o s
  | .vredAnd o => Sys2Proof.Machine.execVredAnd o s
  | .vredOr o => Sys2Proof.Machine.execVredOr o s
  | .vredXor o => Sys2Proof.Machine.execVredXor o s
  | .vfunExp2 rm o => Sys2Proof.Machine.execVfunExp2 rm o s
  | .vfunLog2 rm o => Sys2Proof.Machine.execVfunLog2 rm o s
  | .vfunSint rm o => Sys2Proof.Machine.execVfunSint rm o s
  | .vfunCost rm o => Sys2Proof.Machine.execVfunCost rm o s
  | .vfunTanh rm o => Sys2Proof.Machine.execVfunTanh rm o s
  | .vfunRecip rm o => Sys2Proof.Machine.execVfunRecip rm o s
  | .vfunRsqrt rm o => Sys2Proof.Machine.execVfunRsqrt rm o s
  | .randRaw la k inc p => Sys2Proof.Machine.execRandRaw la k inc p s
  | .randUnif la k inc p => Sys2Proof.Machine.execRandUnif la k inc p s
  | .lda o => Sys2Proof.Machine.execLda o s
  | .ldaBc o => Sys2Proof.Machine.execLdaBc o s
  | .ldaZx o => Sys2Proof.Machine.execLdaZx o s
  | .sta o => Sys2Proof.Machine.execSta o s
  | .gathGather o => Sys2Proof.Machine.execGathGather o s
  | .gathScatter o => Sys2Proof.Machine.execGathScatter o s
  | .lineMove la n sz src q d p => Sys2Proof.Machine.execLineMove la n sz src q d p s
  | .lineFill la n sz d p => Sys2Proof.Machine.execLineFill la n sz d p s
  | .ship la ord rm n p => Sys2Proof.Machine.execShip la ord rm n p s
  | .tickLd la j sz p => Sys2Proof.Machine.execTickLd la j sz p s
  | .tickRd la j p => Sys2Proof.Machine.execTickRd la j p s
  | .tickDrop la j => Sys2Proof.Machine.execTickDrop la j s
  | .tickQ la j => Sys2Proof.Machine.execTickQ la j s
  | .lawoRd la inc p => Sys2Proof.Machine.execLawoRd la inc p s
  | .lawoAdd la inc p => Sys2Proof.Machine.execLawoAdd la inc p s
  | .lawoSet la inc p => Sys2Proof.Machine.execLawoSet la inc p s
  | .lawoSwap la inc p => Sys2Proof.Machine.execLawoSwap la inc p s
  | .lawoLaw la inc p => Sys2Proof.Machine.execLawoLaw la inc p s
  | .lawoChk la inc p => Sys2Proof.Machine.execLawoChk la inc p s
  | .patnSet la w p => Sys2Proof.Machine.execPatnSet la w p s
  | .patnGet la w p => Sys2Proof.Machine.execPatnGet la w p s
  | .patnClr la w => Sys2Proof.Machine.execPatnClr la w s
  | .cachPf2 la n p => Sys2Proof.Machine.execCachPf2 la n p s
  | .cachFlush la p => Sys2Proof.Machine.execCachFlush la p s
  | .cachInv la p => Sys2Proof.Machine.execCachInv la p s
  | .cachSinv la => Sys2Proof.Machine.execCachSinv la s
  | .cachFlushall la => Sys2Proof.Machine.execCachFlushall la s
  | .dramPromote la p => Sys2Proof.Machine.execDramPromote la p s
  | .dramPin la p => Sys2Proof.Machine.execDramPin la p s
  | .dramUnpin la p => Sys2Proof.Machine.execDramUnpin la p s
  | .dramDemote la p => Sys2Proof.Machine.execDramDemote la p s
  | .fenc y x sz => Sys2Proof.Machine.execFenc y x sz s
  | .pset n src fld p => Sys2Proof.Machine.execPset n src fld p s
  | .paddImm n fld p => Sys2Proof.Machine.execPaddImm n fld p s
  | .paddSh12 n fld p => Sys2Proof.Machine.execPaddSh12 n fld p s
  | .paddStep n p => Sys2Proof.Machine.execPaddStep n p s
  | .pmovMov la src d => Sys2Proof.Machine.execPmovMov la src d s
  | .pmovToa la g p => Sys2Proof.Machine.execPmovToa la g p s
  | .pmovFroma la g p => Sys2Proof.Machine.execPmovFroma la g p s
  | .pmovGsv la c n m q => Sys2Proof.Machine.execPmovGsv la c n m q s
  | .pmovGld la c n m q => Sys2Proof.Machine.execPmovGld la c n m q s
  | .pmovZero la p => Sys2Proof.Machine.execPmovZero la p s
  | .pmovGetlink la p => Sys2Proof.Machine.execPmovGetlink la p s
  | .pmovSetlink la p => Sys2Proof.Machine.execPmovSetlink la p s
  | .aimmBcast n fld => Sys2Proof.Machine.execAimmBcast n fld s
  | .aimmLane0 n fld => Sys2Proof.Machine.execAimmLane0 n fld s
  | .aimmOnly0 n fld => Sys2Proof.Machine.execAimmOnly0 n fld s
  | .aimmAdd n fld => Sys2Proof.Machine.execAimmAdd n fld s
  | .kopsAnd d a b => Sys2Proof.Machine.execKopsAnd d a b s
  | .kopsOr d a b => Sys2Proof.Machine.execKopsOr d a b s
  | .kopsXor d a b => Sys2Proof.Machine.execKopsXor d a b s
  | .kopsAndn d a b => Sys2Proof.Machine.execKopsAndn d a b s
  | .kopsNot d a => Sys2Proof.Machine.execKopsNot d a s
  | .kopsMov d a => Sys2Proof.Machine.execKopsMov d a s
  | .kopsSet d => Sys2Proof.Machine.execKopsSet d s
  | .kopsClr d => Sys2Proof.Machine.execKopsClr d s
  | .kopsFirst d a => Sys2Proof.Machine.execKopsFirst d a s
  | .kopsFroma d => Sys2Proof.Machine.execKopsFroma d s
  | .kopsToa a => Sys2Proof.Machine.execKopsToa a s
  | .kopsPrefix d p => Sys2Proof.Machine.execKopsPrefix d p s
  | .kopsPopc a => Sys2Proof.Machine.execKopsPopc a s
  | .br n => Sys2Proof.Machine.execBr n s
  | .brCall n => Sys2Proof.Machine.execBrCall n s
  | .brCnz n src => Sys2Proof.Machine.execBrCnz n src s
  | .brCz n src => Sys2Proof.Machine.execBrCz n src s
  | .brKany n src => Sys2Proof.Machine.execBrKany n src s
  | .brKnone n src => Sys2Proof.Machine.execBrKnone n src s
  | .brNeg n => Sys2Proof.Machine.execBrNeg n s
  | .brEqz n => Sys2Proof.Machine.execBrEqz n s
  | .brNez n => Sys2Proof.Machine.execBrNez n s
  | .jumpJr p => Sys2Proof.Machine.execJumpJr p s
  | .jumpJalr p => Sys2Proof.Machine.execJumpJalr p s
  | .jumpRet => Sys2Proof.Machine.execJumpRet s
  | .jumpJa => Sys2Proof.Machine.execJumpJa s
  | .jumpJidx inc p => Sys2Proof.Machine.execJumpJidx inc p s
  | .timeRdst => Sys2Proof.Machine.execTimeRdst s
  | .timeRddev => Sys2Proof.Machine.execTimeRddev s
  | .timeSetst => Sys2Proof.Machine.execTimeSetst s
  | .timeAddst => Sys2Proof.Machine.execTimeAddst s
  | .timeSyncst => Sys2Proof.Machine.execTimeSyncst s
  | .csrRd la rm => Sys2Proof.Machine.execCsrRd la rm s
  | .csrWr la rm => Sys2Proof.Machine.execCsrWr la rm s
  | .csrSetb la rm => Sys2Proof.Machine.execCsrSetb la rm s
  | .csrClrb la rm => Sys2Proof.Machine.execCsrClrb la rm s
  | .csrSkld la src p => Sys2Proof.Machine.execCsrSkld la src p s
  | .csrSkst la src p => Sys2Proof.Machine.execCsrSkst la src p s
  | .trapSwt n => Sys2Proof.Machine.execTrapSwt n s
  | .trapBrk n => Sys2Proof.Machine.execTrapBrk n s
  | .trapRet => Sys2Proof.Machine.execTrapRet s
  | .trapRetx => Sys2Proof.Machine.execTrapRetx s
  | .trapHalt => Sys2Proof.Machine.execTrapHalt s
  | .protFlush => Sys2Proof.Machine.execProtFlush s
  | .protInvd d => Sys2Proof.Machine.execProtInvd d s
  | .protInva p => Sys2Proof.Machine.execProtInva p s
  | .protRde e => Sys2Proof.Machine.execProtRde e s
  | .protWre e => Sys2Proof.Machine.execProtWre e s
  | .ctxsStop n => Sys2Proof.Machine.execCtxsStop n s
  | .ctxsSave n p => Sys2Proof.Machine.execCtxsSave n p s
  | .ctxsLoad n p => Sys2Proof.Machine.execCtxsLoad n p s
  | .ctxsGo n => Sys2Proof.Machine.execCtxsGo n s
  | .nopsNop => Sys2Proof.Machine.execNopsNop s
  | .nopsPause n => Sys2Proof.Machine.execNopsPause n s
  | .strnStart p => Sys2Proof.Machine.execStrnStart p s
  | .strnEnd => Sys2Proof.Machine.execStrnEnd s
  | .strnJoinw h => Sys2Proof.Machine.execStrnJoinw h s
  | .strnYield => Sys2Proof.Machine.execStrnYield s
  | .strnStat => Sys2Proof.Machine.execStrnStat s
  | .strnBindh t p => Sys2Proof.Machine.execStrnBindh t p s
  | .syncArrive q p => Sys2Proof.Machine.execSyncArrive q p s
  | .syncWait q p => Sys2Proof.Machine.execSyncWait q p s
  | .syncArrwt q p => Sys2Proof.Machine.execSyncArrwt q p s
  | .syncSignal p => Sys2Proof.Machine.execSyncSignal p s
  | .syncCwait p => Sys2Proof.Machine.execSyncCwait p s
  | .syncCread p => Sys2Proof.Machine.execSyncCread p s
  | .syncCset p => Sys2Proof.Machine.execSyncCset p s
  | .ringAwait p => Sys2Proof.Machine.execRingAwait p s
  | .ringRelease p => Sys2Proof.Machine.execRingRelease p s
  | .ringPost p => Sys2Proof.Machine.execRingPost p s
  | .ringSlot p => Sys2Proof.Machine.execRingSlot p s
  | .msgSend la n p => Sys2Proof.Machine.execMsgSend la n p s
  | .msgPop la c => Sys2Proof.Machine.execMsgPop la c s
  | .msgPeek la c => Sys2Proof.Machine.execMsgPeek la c s
  | .msgBindc la c t p => Sys2Proof.Machine.execMsgBindc la c t p s
  | .msgUnbind la t => Sys2Proof.Machine.execMsgUnbind la t s
  | .msgQuota la t p => Sys2Proof.Machine.execMsgQuota la t p s
  | .copyAppend la p => Sys2Proof.Machine.execCopyAppend la p s
  | .copyExpect la p => Sys2Proof.Machine.execCopyExpect la p s
  | .copyWait la => Sys2Proof.Machine.execCopyWait la s
  | .mtrxSclaim p => Sys2Proof.Machine.execMtrxSclaim p s
  | .mtrxSrel src p => Sys2Proof.Machine.execMtrxSrel src p s
  | .mtrxWait => Sys2Proof.Machine.execMtrxWait s
  | .mtrxStat c => Sys2Proof.Machine.execMtrxStat c s
  | .mtrxSeal => Sys2Proof.Machine.execMtrxSeal s
  | .mtrxCont d => Sys2Proof.Machine.execMtrxCont d s
  | .bootStart => Sys2Proof.Machine.execBootStart s
  | .selftestReply => Sys2Proof.Machine.execSelftestReply s
  | .selftestReplyTimeout => Sys2Proof.Machine.execSelftestReplyTimeout s
  | .logicalMapBuild => Sys2Proof.Machine.execLogicalMapBuild s
  | .discoveryTimeout => Sys2Proof.Machine.execDiscoveryTimeout s
  | .supervisorImageDelivered => Sys2Proof.Machine.execSupervisorImageDelivered s
  | .deliveryTimeout => Sys2Proof.Machine.execDeliveryTimeout s
  | .fwReady => Sys2Proof.Machine.execFwReady s
  | .fwStartTimeout => Sys2Proof.Machine.execFwStartTimeout s
  | .powerLimitClamp => Sys2Proof.Machine.execPowerLimitClamp s
  | .powerLimitRelease => Sys2Proof.Machine.execPowerLimitRelease s
  | .thermalClamp => Sys2Proof.Machine.execThermalClamp s
  | .thermalClampRelease => Sys2Proof.Machine.execThermalClampRelease s
  | .packageShutdown => Sys2Proof.Machine.execPackageShutdown s
  | .selfRefreshEnter => Sys2Proof.Machine.execSelfRefreshEnter s
  | .selfRefreshExit => Sys2Proof.Machine.execSelfRefreshExit s
  | .linkFlitReceive => Sys2Proof.Machine.execLinkFlitReceive s
  | .linkIdleFlit => Sys2Proof.Machine.execLinkIdleFlit s
  | .linkRetryRequest => Sys2Proof.Machine.execLinkRetryRequest s
  | .linkRefusal => Sys2Proof.Machine.execLinkRefusal s
  | .holdQueueResend => Sys2Proof.Machine.execHoldQueueResend s
  | .timeSyncFlit => Sys2Proof.Machine.execTimeSyncFlit s
  | .linkManagementFlit => Sys2Proof.Machine.execLinkManagementFlit s
  | .linkRetrainDone => Sys2Proof.Machine.execLinkRetrainDone s
  | .linkenWrite => Sys2Proof.Machine.execLinkenWrite s
  | .linkenClearEffect => Sys2Proof.Machine.execLinkenClearEffect s
  | .rcmdErase => Sys2Proof.Machine.execRcmdErase s
  | .rcmdWrite => Sys2Proof.Machine.execRcmdWrite s
  | .rcmdRead => Sys2Proof.Machine.execRcmdRead s
  | .rcmdReboot => Sys2Proof.Machine.execRcmdReboot s
  | .rcmdInvalid => Sys2Proof.Machine.execRcmdInvalid s
  | .recoveryCommandDone => Sys2Proof.Machine.execRecoveryCommandDone s
  | .registerWrite => Sys2Proof.Machine.execRegisterWrite s
  | .pageShootdown => Sys2Proof.Machine.execPageShootdown s
  | .pageShootdownDone => Sys2Proof.Machine.execPageShootdownDone s
  | .flushEpochStart => Sys2Proof.Machine.execFlushEpochStart s
  | .lawTableShootdown => Sys2Proof.Machine.execLawTableShootdown s
  | .lawShootdownDone => Sys2Proof.Machine.execLawShootdownDone s
  | .regionWrite => Sys2Proof.Machine.execRegionWrite s
  | .regionSwapDrain => Sys2Proof.Machine.execRegionSwapDrain s
  | .regionSwapExchange => Sys2Proof.Machine.execRegionSwapExchange s
  | .channelRetireMove => Sys2Proof.Machine.execChannelRetireMove s
  | .regionCounterHalve => Sys2Proof.Machine.execRegionCounterHalve s
  | .pageCounterHalve => Sys2Proof.Machine.execPageCounterHalve s
  | .patrolScrub => Sys2Proof.Machine.execPatrolScrub s
  | .storageError => Sys2Proof.Machine.execStorageError s
  | .homeAccess => Sys2Proof.Machine.execHomeAccess s
  | .ownerRecallAck => Sys2Proof.Machine.execOwnerRecallAck s
  | .promotionFillDone => Sys2Proof.Machine.execPromotionFillDone s
  | .fabricReleaseRequest => Sys2Proof.Machine.execFabricReleaseRequest s
  | .forcedRelease => Sys2Proof.Machine.execForcedRelease s
  | .hookRequest => Sys2Proof.Machine.execHookRequest s
  | .hookAddI64 => Sys2Proof.Machine.execHookAddI64 s
  | .hookAndI64 => Sys2Proof.Machine.execHookAndI64 s
  | .hookOrI64 => Sys2Proof.Machine.execHookOrI64 s
  | .hookXorI64 => Sys2Proof.Machine.execHookXorI64 s
  | .hookMinI64 => Sys2Proof.Machine.execHookMinI64 s
  | .hookMaxI64 => Sys2Proof.Machine.execHookMaxI64 s
  | .hookMinuI64 => Sys2Proof.Machine.execHookMinuI64 s
  | .hookMaxuI64 => Sys2Proof.Machine.execHookMaxuI64 s
  | .hookAddsatI64 => Sys2Proof.Machine.execHookAddsatI64 s
  | .hookAddI32 => Sys2Proof.Machine.execHookAddI32 s
  | .hookMinI32 => Sys2Proof.Machine.execHookMinI32 s
  | .hookMaxI32 => Sys2Proof.Machine.execHookMaxI32 s
  | .hookFaddRne => Sys2Proof.Machine.execHookFaddRne s
  | .hookFaddRm => Sys2Proof.Machine.execHookFaddRm s
  | .hookFmin => Sys2Proof.Machine.execHookFmin s
  | .hookFmax => Sys2Proof.Machine.execHookFmax s
  | .hookSwapI64 => Sys2Proof.Machine.execHookSwapI64 s
  | .hookSwapI32 => Sys2Proof.Machine.execHookSwapI32 s
  | .hookCasI64 => Sys2Proof.Machine.execHookCasI64 s
  | .hookCasI32 => Sys2Proof.Machine.execHookCasI32 s
  | .hookQueueClaim => Sys2Proof.Machine.execHookQueueClaim s
  | .hookQueuePublish => Sys2Proof.Machine.execHookQueuePublish s
  | .hookHashProbe => Sys2Proof.Machine.execHookHashProbe s
  | .hookHashFind => Sys2Proof.Machine.execHookHashFind s
  | .hookLawRd => Sys2Proof.Machine.execHookLawRd s
  | .hookLawAdd => Sys2Proof.Machine.execHookLawAdd s
  | .hookLawSet => Sys2Proof.Machine.execHookLawSet s
  | .hookLawSwap => Sys2Proof.Machine.execHookLawSwap s
  | .hookLawLaw => Sys2Proof.Machine.execHookLawLaw s
  | .hookLawChk => Sys2Proof.Machine.execHookLawChk s
  | .hookLoadableRoutine => Sys2Proof.Machine.execHookLoadableRoutine s
  | .hostWindowRead => Sys2Proof.Machine.execHostWindowRead s
  | .hostWindowWrite => Sys2Proof.Machine.execHostWindowWrite s
  | .shipgo => Sys2Proof.Machine.execShipgo s
  | .hostShipReply => Sys2Proof.Machine.execHostShipReply s
  | .evconsWrite => Sys2Proof.Machine.execEvconsWrite s
  | .tenantCreate => Sys2Proof.Machine.execTenantCreate s
  | .tenantDestroy => Sys2Proof.Machine.execTenantDestroy s
  | .queueCreate => Sys2Proof.Machine.execQueueCreate s
  | .queueDestroy => Sys2Proof.Machine.execQueueDestroy s
  | .routineLoad => Sys2Proof.Machine.execRoutineLoad s
  | .routineReplace => Sys2Proof.Machine.execRoutineReplace s
  | .attest => Sys2Proof.Machine.execAttest s
  | .mailboxInvalid => Sys2Proof.Machine.execMailboxInvalid s
  | .swiftReadSlot => Sys2Proof.Machine.execSwiftReadSlot s
  | .recordReady => Sys2Proof.Machine.execRecordReady s
  | .recordAge => Sys2Proof.Machine.execRecordAge s
  | .dispatch => Sys2Proof.Machine.execDispatch s
  | .taskStart => Sys2Proof.Machine.execTaskStart s
  | .traceDiverge => Sys2Proof.Machine.execTraceDiverge s
  | .taskComplete => Sys2Proof.Machine.execTaskComplete s
  | .patchStatusChange => Sys2Proof.Machine.execPatchStatusChange s
  | .tokenBucketCycle => Sys2Proof.Machine.execTokenBucketCycle s
  | .rampMicrosecond => Sys2Proof.Machine.execRampMicrosecond s
  | .corecmdNone => Sys2Proof.Machine.execCorecmdNone s
  | .corecmdPreempt => Sys2Proof.Machine.execCorecmdPreempt s
  | .preemptSaveDone => Sys2Proof.Machine.execPreemptSaveDone s
  | .corecmdResume => Sys2Proof.Machine.execCorecmdResume s
  | .corecmdHalt => Sys2Proof.Machine.execCorecmdHalt s
  | .corecmdHaltQuiet => Sys2Proof.Machine.execCorecmdHaltQuiet s
  | .corecmdUnhalt => Sys2Proof.Machine.execCorecmdUnhalt s
  | .corecmdReject => Sys2Proof.Machine.execCorecmdReject s
  | .zoneTimeout => Sys2Proof.Machine.execZoneTimeout s
  | .trmodeWrite => Sys2Proof.Machine.execTrmodeWrite s
  | .swerrRead => Sys2Proof.Machine.execSwerrRead s
  | .srcclkWrite => Sys2Proof.Machine.execSrcclkWrite s
  | .sourceSettled => Sys2Proof.Machine.execSourceSettled s
  | .pwrctlWrite => Sys2Proof.Machine.execPwrctlWrite s
  | .pwrSequenceDone => Sys2Proof.Machine.execPwrSequenceDone s
  | .pwrstatRead => Sys2Proof.Machine.execPwrstatRead s
  | .droopTrip => Sys2Proof.Machine.execDroopTrip s
  | .droopRecover => Sys2Proof.Machine.execDroopRecover s
  | .killScrub => Sys2Proof.Machine.execKillScrub s
  | .scrubDone => Sys2Proof.Machine.execScrubDone s
  | .packetArrival => Sys2Proof.Machine.execPacketArrival s
  | .packetReply => Sys2Proof.Machine.execPacketReply s
  | .packetRetry => Sys2Proof.Machine.execPacketRetry s
  | .reservationExpire => Sys2Proof.Machine.execReservationExpire s
  | .requestRetry => Sys2Proof.Machine.execRequestRetry s
  | .handlerStart => Sys2Proof.Machine.execHandlerStart s
  | .strandWake => Sys2Proof.Machine.execStrandWake s
  | .pauseEnd => Sys2Proof.Machine.execPauseEnd s
  | .yieldEnd => Sys2Proof.Machine.execYieldEnd s
  | .pagerRetry => Sys2Proof.Machine.execPagerRetry s
  | .pagerDeliverTrap => Sys2Proof.Machine.execPagerDeliverTrap s
  | .pagerTerminate => Sys2Proof.Machine.execPagerTerminate s
  | .lookaheadCommit => Sys2Proof.Machine.execLookaheadCommit s
  | .ticketFetch => Sys2Proof.Machine.execTicketFetch s
  | .ticketFillDone => Sys2Proof.Machine.execTicketFillDone s
  | .ticketRedeem => Sys2Proof.Machine.execTicketRedeem s
  | .ticketOrphan => Sys2Proof.Machine.execTicketOrphan s
  | .landingArrive => Sys2Proof.Machine.execLandingArrive s
  | .copySlotRead => Sys2Proof.Machine.execCopySlotRead s
  | .copyPacketCopy => Sys2Proof.Machine.execCopyPacketCopy s
  | .copyPacketCopy2d => Sys2Proof.Machine.execCopyPacketCopy2d s
  | .copyPacketFill => Sys2Proof.Machine.execCopyPacketFill s
  | .copyPacketReduce => Sys2Proof.Machine.execCopyPacketReduce s
  | .copyPacketPut => Sys2Proof.Machine.execCopyPacketPut s
  | .copyPacketGet => Sys2Proof.Machine.execCopyPacketGet s
  | .copyPacketComplete => Sys2Proof.Machine.execCopyPacketComplete s
  | .matrixLoad => Sys2Proof.Machine.execMatrixLoad s
  | .matrixMma => Sys2Proof.Machine.execMatrixMma s
  | .matrixMrot => Sys2Proof.Machine.execMatrixMrot s
  | .matrixStore => Sys2Proof.Machine.execMatrixStore s
  | .matrixZero => Sys2Proof.Machine.execMatrixZero s
  | .matrixMove => Sys2Proof.Machine.execMatrixMove s
  | .matrixScale => Sys2Proof.Machine.execMatrixScale s
  | .matrixMark => Sys2Proof.Machine.execMatrixMark s
  | .mrotLanding => Sys2Proof.Machine.execMrotLanding s
  | .pf2Notify => Sys2Proof.Machine.execPf2Notify s
  | .panelWindowRead => Sys2Proof.Machine.execPanelWindowRead s

end Sys2Proof.Machine
end

