-- ==== Sys2Proof/Machine/Turn.lean ====
section
/-!
DEFINITION. Turn.lean: what the next step does (06 R143; log 4): the oldest event due, or the longest-ready strand's next
instruction, turn about; and how an instruction is placed where the next step fetches it.
-/
namespace Sys2Proof.Machine

/-- What a step does. -/
inductive Todo where
  /-- this instruction or event runs on this machine -/
  | perform (i : Instr) (s : State)
  /-- nothing but this is left to do -/
  | settled (s : State)
  /-- all clocks are stopped (01 R18) -/
  | halted
  deriving DecidableEq, Repr

/-- The tenants of which some core runs a strand or holds saved state (13 R301). -/
def activeTenants (s : State) : List Nat :=
  ((s.strands.filterMap fun e => if e.2.live then tenantOf s (s.core (StrandId.core e.1)).domain else none) ++
    s.cores.flatMap fun e => e.2.savedTenants).dedup
/-- One step taken: device time goes on (01 R16; log 5), and with it the active time of the tenants that run. -/
def tick (s : State) : State :=
  let t := Config.elapsed s.steps
  let s := { s with steps := s.steps + 1, deviceTime := s.deviceTime + t }
  (activeTenants s).foldl (fun s n => s.setTenant n { s.tenant n with activeFor := (s.tenant n).activeFor + t }) s

/-- A strand's turn: its next instruction, or what stands in its way. -/
def strandTodo (k : StrandId) (s : State) : Todo :=
  match plan k s with
  | (.issue i, s) => .perform i { s with cur := k }
  | (.hold, s) => .perform .lookaheadCommit { s with arg := { strand := k, a := 1 } }
  | (.idle, s) => .settled (requeue k s)
  | (.stop e parcels, s) => .settled (stopFetch k e parcels s)

/-- The core in whose clock an event happens: a commit, the end of a pause, a start, a command of the swift, a reply of the
pager or of a packet, a landing, or a matrix command. What only the swift, a home slice or the network does is in no core's. -/
def clockedBy (i : Instr) (arg : EventArg) (s : State) : Option CoreId :=
  match i with
  | .lookaheadCommit | .pauseEnd | .yieldEnd => some arg.strand.core
  | .handlerStart | .taskStart | .taskComplete | .corecmdPreempt | .corecmdResume | .corecmdHalt | .corecmdHaltQuiet
  | .corecmdUnhalt | .preemptSaveDone | .zoneTimeout | .landingArrive
  | .matrixLoad | .matrixMma | .matrixMrot | .matrixStore | .matrixZero | .matrixMove | .matrixScale
  | .matrixMark => some arg.core
  | .panelWindowRead => (findId PanelRead.id s.panelReads arg.id).map PanelRead.target
  | .mrotLanding => (findId Rotation.id s.rotations arg.id).map Rotation.target
  | .packetReply => (findId Packet.id s.packets arg.id).bind fun p => p.sender.map StrandId.core
  | .pagerRetry | .pagerDeliverTrap | .pagerTerminate =>
    match arg.party with
    | .strand k => some k.core
    | .matrix c => some c
    | _ => none
  | _ => none
/-- An event waits while the clock it happens in stands still (05 R125). -/
def eventStands (i : Instr) (arg : EventArg) (s : State) : Bool :=
  match clockedBy i arg s with
  | some c => stands (s.core c)
  | none => false
/-- A turn that waits for a clock. -/
def turnStands (s : State) (t : Turn) : Bool :=
  match t with
  | .strand _ => false
  | .event i arg => eventStands i arg s

/-- A turn taken. -/
def takeTurn (t : Turn) (s : State) : Todo :=
  match t with
  | .strand k => strandTodo k s
  | .event i arg => .perform i { s with arg := arg }

/-- The strand's next instruction targets port V (06 R142); one that cannot be had is a matter of port M. -/
def targetsV (s : State) (k : StrandId) : Bool :=
  match (plan k s).1 with
  | .issue i => portV i
  | _ => false
/-- The strand that a port issues: of those READY for it the one that has been READY the longest (06 R143). Where there is
none, the longest-READY strand has its turn. The strands of a core whose clock stands keep their place (05 R125). -/
def portChoice (s : State) (v : Bool) : Option StrandId :=
  match s.ready.filter fun k => !stands (s.core k.core) with
  | [] => none
  | [k] => some k
  | k :: ks => some (((k :: ks).find? fun j => targetsV s j == v).getD k)

/-- The channel that an instruction pops: a channel operand (10 R225 ch, R227 cb) or MSG.POP (14 R325). -/
def channelPop (i : Instr) : Option (BitVec 3) :=
  let w := parcelsOf i
  match i with
  | .msgPop _ c => some c
  | _ =>
    if !laneMajor i then none
    else if w.getLsbD 0 then (if w.getLsbD 15 then some (w.extractLsb' 11 3) else none)
    else if w.getLsbD 13 then some (w.extractLsb' 5 3) else none
/-- The channel that a strand's next instruction pops. -/
def popOf (s : State) (k : StrandId) : Option (BitVec 3) :=
  match (plan k s).1 with
  | .issue i => channelPop i
  | _ => none
/-- A port's strand, unless the other port's pops the same channel and is the lower-numbered of the two strands: of two pops
that issue in one cycle the lower strand's takes the older packet (12 R270), so its turn comes first. -/
def popTurn (s : State) (v : Bool) : Option StrandId :=
  match portChoice s v, portChoice s (!v) with
  | some a, some b =>
    if a.core == b.core && decide (b.num < a.num) && (popOf s a).isSome && popOf s a == popOf s b then some b else some a
  | a, _ => a

/-- The oldest event due whose clock runs, and the agenda without it: those that wait keep their order (05 R125). -/
def dueFrom (s : State) : List Turn → Option (Turn × List Turn)
  | [] => none
  | t :: ts => if turnStands s t then (dueFrom s ts).map fun e => (e.1, t :: e.2) else some (t, ts)
/-- The next turn: on even steps the oldest event due, on odd ones a strand, ports V and M turn about; where there is none,
the other. -/
def nextTurn (s : State) : Option (Turn × State) :=
  let ev := (dueFrom s s.agenda).map fun e => (e.1, { s with agenda := e.2 })
  let st := (popTurn s (s.steps / 2 % 2 == 0)).map fun k => (Turn.strand k, s)
  if s.steps % 2 = 0 then ev.or st else st.or ev

/-- What the next step does. With nothing due, a package that has not booted boots (01 R20); else time goes on. -/
def todo (s : State) : Todo :=
  if s.package.shutdown then .halted
  else
    match nextTurn s with
    | some (t, u) => takeTurn t (tick u)
    | none =>
      match s.package.boot.phase with
      | .notStarted => .perform .bootStart { tick s with arg := {} }
      | _ => .settled (tick s)

/-- Where an instruction is placed for the next step: virtual address 4,096, host address 4,096. -/
def placeAddr : Nat := 4096

/-- The machine with these bytes where its next step fetches. The package is past boot; strand 0 of core 0, in the
service domain, is the only strand ready and nothing else is due; its page is a host page of 1 GiB at the virtual and
host address 0, so that no cache takes part in the fetch. -/
def placeBytes (bs : List Byte) (s : State) : State :=
  let s := { s with dmem := (s.dmem.setBytes (mediaKey 0 0 0 0) (toBytes 8 (2 ^ 60 + 0x2000))).setBytes
                      (mediaKey 0 0 1 0) (toBytes 8 (4 * 2 ^ 60)) }
  let s := { s with package := { s.package with
    boot := { s.package.boot with phase := .ready }
    shutdown := false
    ptroot := 0
    regionRecord := none
    regions := s.package.regions.drop 0 2
    windows := Table.set (0, 0, false) s.package.windows 0 (0, 0xFFFF, true)
    hostMem := s.package.hostMem.setBytes placeAddr bs } }
  let s := { s with sectors := s.sectors.filter fun e => e.1 != mediaKey 0 0 0 0 / 32 && e.1 != mediaKey 0 0 1 0 / 32 }
  let s := s.setStack 0 { s.stack 0 with dead := false, refresh := false }
  let s := s.setPanel 0 { s.panel 0 with tlb := [], walkCache := [] }
  let c := s.core 0
  let s := s.setCore 0 { c with
    status := .running, domain := 0, plb := [], plbUse := [], l1 := [], buffered := [], ranges := []
    stretch := false, killWaits := none }
  let x := s.strand 0
  let s := s.setStrand 0 { x with
    pc := BitVec.ofNat 64 placeAddr, domain := 0, state := .ready, role := .lead, fixed := 0, pending := [], faults := []
    redo := none, paused := false, yielded := false, stopping := none, view := none }
  { s with agenda := [], ready := [0], stores := [], held := [] }

end Sys2Proof.Machine
end

