-- ==== Sys2Proof/Machine/Step.lean ====
section
/-!
DEFINITION. Step.lean: one step of the package: it calls what Turn.lean chooses.
-/
namespace Sys2Proof.Machine

/-- One step: the meaning of the instruction or event whose turn it is. -/
def step (s : State) : Host.Outcome State Fault Refusal :=
  match todo s with
  | .perform i t => exec i t
  | .settled t => .next t
  | .halted => .fault .shutdown

/-- The machine with the instruction of nbits bits w placed where the next step fetches it (log 4). -/
def State.withFetchWord (s : State) (nbits w : Nat) : State := placeBytes (toBytes 4 (w % 2 ^ nbits)) s

end Sys2Proof.Machine
end

