-- ==== Sys2Proof/Safety.lean ====
section
/-!
DEFINITION. Safety.lean: the terms that claims use: a strand that issues with nothing in its way, what one issued
instruction leaves, operands in the own scratchpad, and the canonical form of what the machine lists.
-/
namespace Sys2Proof.Machine

/-- The strand in hand may issue with nothing in its way: it is READY (06 R139), nothing of it is pending, repeated, kept or
waiting to be performed (10 R233, R236), and no command stops it. -/
def plain (s : State) : Bool :=
  let x := s.strand s.cur
  x.state == .ready && !x.paused && !x.yielded && x.pending.isEmpty && x.redo.isNone && x.stopping.isNone &&
    x.faults.isEmpty && x.view.isNone

/-- The strand in hand. -/
def own (s : State) : Strand := s.strand s.cur
/-- The core of the strand in hand. -/
def ownCore (s : State) : Core := s.core s.cur.core

/-- The strand after an instruction of lookahead la has issued with these results (10 R233): with la = 0 they have
committed, else the instruction is pending with them. -/
def issued (i : Instr) (la : Nat) (ws : List RegWrite) (next : W64) (x : Strand) : Strand :=
  if la = 0 then { ws.foldl Strand.write x with pc := next }
  else { x with
    pc := next
    pending := [{ parcels := parcelsOf i, pc := x.pc, left := la, dests := destsOf i, state := .done ws }] }

/-- The machine after the strand in hand has come to x and gone to the end of the ready list; nothing else has changed. -/
def cameTo (s : State) (x : Strand) : State :=
  { s with
    strands := Table.set {} s.strands s.cur x
    ready := (s.ready.filter fun j => j != s.cur) ++ [s.cur] }

/-- The machine after the strand in hand has come to x and gone to the end of the ready list (06 R143); the answers to
its loads through the panel window are used up, and its accesses held at a translation slice are over; nothing else has
changed. -/
def ranTo (s : State) (x : Strand) : State :=
  { s with
    strands := Table.set {} s.strands s.cur x
    ready := (s.ready.filter fun j => j != s.cur) ++ [s.cur]
    panelReads := s.panelReads.filter fun r => r.strand != s.cur
    held := s.held.filter fun e => e.1 != .strand s.cur }

/-- The machine after an instruction of the strand in hand with these results; it goes on at the next instruction. -/
def ran (i : Instr) (la : Nat) (ws : List RegWrite) (s : State) : State :=
  ranTo s (issued i la ws (nextPc i s) (own s))

/-- The same, for an instruction that goes on at an address. -/
def ranAt (i : Instr) (la : Nat) (ws : List RegWrite) (next : W64) (s : State) : State :=
  ranTo s (issued i la ws next (own s))

/-- The strand after an instruction of lookahead la has issued that is not complete: it is pending in this state. -/
def staying (i : Instr) (la : Nat) (st : PendState) (next : W64) (x : Strand) : Strand :=
  { x with
    pc := next
    pending := [{ parcels := parcelsOf i, pc := x.pc, left := la, dests := destsOf i, state := st }] }

/-- The machine after an instruction of the strand in hand that stays pending: the strand may issue while the lookahead lasts
(10 R233). -/
def stays (i : Instr) (la : Nat) (st : PendState) (s : State) : State :=
  let rest := s.ready.filter fun j => j != s.cur
  { s with
    strands := Table.set {} s.strands s.cur (staying i la st (nextPc i s) (own s))
    ready := if la = 0 then rest else rest ++ [s.cur]
    panelReads := s.panelReads.filter fun r => r.strand != s.cur
    held := s.held.filter fun e => e.1 != .strand s.cur }

/-- The machine after an instruction that completes with the reply to item id, and then has these results. -/
def launched (i : Instr) (la id : Nat) (ws : List RegWrite) (s : State) : State := stays i la (.waiting id ws) s

/-- An instruction that completes at once, or with the reply to an item. -/
def ranOr (i : Instr) (la : Nat) (id : Option Nat) (ws : List RegWrite) (s : State) : State :=
  match id with
  | some n => launched i la n ws s
  | none => ran i la ws s

/-- The machine after an instruction of lookahead la ≠ 0 whose fault is found at issue: the fault is pending, and taken at its
commit (10 R236); the strand may issue the instructions of its window. -/
def faultLater (i : Instr) (la : Nat) (f : FaultInfo) (s : State) : State :=
  let x := own s
  ranTo s { x with
    pc := nextPc i s
    pending := [{ parcels := parcelsOf i, pc := x.pc, left := la, dests := destsOf i, state := .faulted f }] }

/-- The machine after an instruction of the strand in hand that waits (06 R145): the strand is WAITING and in no ready list, and
the instruction is pending until its wake (10 R233). -/
def waitsOn (i : Instr) (w : WaitOn) (s : State) : State :=
  let x := own s
  { s with
    strands := Table.set {} s.strands s.cur { x with
      pc := nextPc i s
      pending := [{ parcels := parcelsOf i, pc := x.pc, left := 0, dests := destsOf i, state := .waits [] }]
      state := .waiting, wait := w, satisfied := false, deposit := none, waitParcels := parcelsOf i, waitPc := x.pc }
    ready := s.ready.filter fun j => j != s.cur
    panelReads := s.panelReads.filter fun r => r.strand != s.cur
    held := s.held.filter fun e => e.1 != .strand s.cur }

/-- The strand in hand has taken a trap (11 R259) at an instruction of one commit: cause, address and XAUX of the fault,
the parcels, XPC at the instruction, XRESUME at the one after it; XIN is set and PC is XVEC. -/
def trapped (f : FaultInfo) (parcels : BitVec 32) (resume : W64) (s : State) : State :=
  let x := own s
  { s with
    strands := Table.set {} s.strands s.cur { x with
      xcause := f.cause, xparcels := parcels, xaddr := f.addr, xaux := f.aux, xpc := x.pc, xresume := resume
      xin := true, pc := x.xvec }
    ready := (s.ready.filter fun j => j != s.cur) ++ [s.cur]
    panelReads := s.panelReads.filter fun r => r.strand != s.cur
    held := s.held.filter fun e => e.1 != .strand s.cur }

/-- The strand in hand has escalated (11 R260) at an instruction of one commit: ERROR TRAPPED with the cause and XPC is
posted, and its task, or its handler alone, ends. -/
def escalated (i : Instr) (cause : BitVec 8) (s : State) : State :=
  requeue s.cur (escalate s.cur cause (own s).pc ((clearReads s.cur s).setStrand s.cur { own s with pc := nextPc i s }))

/-- The instruction is of a privileged major: PROT or CTXS (10 R228). -/
def isPrivileged : Instr → Bool
  | .protFlush | .protInvd _ | .protInva _ | .protRde _ | .protWre _ => true
  | .ctxsStop _ | .ctxsSave _ _ | .ctxsLoad _ _ | .ctxsGo _ => true
  | _ => false

/-- The instruction has an encoding (10 R225, R227): an event and an encoding that is no instruction have none. -/
def hasEncoding (i : Instr) : Bool :=
  match i with
  | .illegalInstruction _ => false
  | _ => i.len == 2 || opcode i % 2 == 1

/-- A handler is there and does not run (11 R258, R260). -/
def canTrap (s : State) : Bool := (own s).xvec != 0 && !(own s).xin

/-- A body that succeeds on a machine: its value, and the machine after it. -/
def Act.gives {α : Type} (m : Act α) (s : State) (v : α) (t : State) : Prop := ExceptT.run m s = (.ok v, t)
/-- A body that stops on a machine: why, and the machine it leaves. -/
def Act.stops {α : Type} (m : Act α) (s : State) (e : Stop) (t : State) : Prop := ExceptT.run m s = (.error e, t)

/-- A format-V instruction completes wherever its operands are read: its strand takes the result and the
post-increments, and goes on; beside what reading changed, nothing else differs. -/
def laneRuns (i : Instr) (o : LaneOps) (ra rb : LaneOps → Strand → Option (List Nat)) (f : LaneResult) : Prop :=
  ∀ (s t : State) (v : (Nat → Nat) × (Nat → Nat)), plain s = true → (operandsOf o ra rb s.cur (own s)).gives s v t →
    exec i s = .next (ran i 0 (f (own s) v.1 v.2 ++ laneBumps o (own s)) t)

/-- n bytes at an offset of the own scratchpad that a load finds at once: inside, with no landing or zone over them,
not poisoned (07 R162; 08 R191; 05 R132). -/
def scratchReads (x : Core) (off n : Nat) : Bool :=
  decide (off + n ≤ scratchSize) && !overlaps x off n && !scratchBad x off n

/-- No acquire of a strand is pending: its accesses need not wait for one (10 R235). -/
def acquired (s : State) (k : StrandId) : Bool := !(s.hookReqs.any fun h => h.requester == .strand k && h.acquire)
/-- The lanes of width w at P⟨p⟩ lie in the own scratchpad, aligned, and can be read (12 R269). -/
def lanesReady (s : State) (p : BitVec 3) (w : Nat) (lanes : List Nat) : Bool :=
  let base := ((own s).ptr p).base.toNat
  decide (scratchBase ≤ base ∧ base % (w / 8) = 0) && acquired s s.cur && (s.panelReads.all fun r => r.strand != s.cur) &&
    lanes.all fun i => scratchReads (ownCore s) (base - scratchBase + i * (w / 8)) (w / 8)

/-- Lane i of width w at P⟨p⟩ in the own scratchpad. -/
def laneAt (s : State) (p : BitVec 3) (w i : Nat) : Nat :=
  (ownCore s).scratch.nat (((own s).ptr p).base.toNat - scratchBase + i * (w / 8)) (w / 8)

/-- The lanes listed, as they stand in the own scratchpad; a lane not listed reads as zero. -/
def laneFrom (s : State) (p : BitVec 3) (w : Nat) (lanes : List Nat) (i : Nat) : Nat :=
  if lanes.contains i then laneAt s p w i else 0

/-- The bytes of stores to the own scratchpad, by offset. -/
def scratchBytes (reqs : List (Nat × List Byte)) : List (Nat × Byte) :=
  reqs.flatMap fun r => r.2.zipIdx.map fun b => (r.1 - scratchBase + b.2, b.1)
/-- Runs of the own scratchpad that a store writes at once: no acquire is pending; inside, over no horizon of a fixed-mode
strand, under no landing or zone (07 R162; 08 R191, R196; 10 R235). -/
def scratchWrites (s : State) (reqs : List (Nat × List Byte)) : Bool :=
  acquired s s.cur && reqs.all fun r => decide (scratchBase ≤ r.1 ∧ r.1 - scratchBase + r.2.length ≤ scratchSize) &&
    !hitsHorizon s s.cur.core (r.1 - scratchBase) r.2.length && !overlaps (ownCore s) (r.1 - scratchBase) r.2.length
/-- The checks of format M before its bytes are looked at (13 R288; 08 R200): aligned, where a lane is enabled; no
acquire or release in fixed mode. -/
def memOk (o : MemOps) (x : Strand) (lanes : List Nat) : Bool :=
  (lanes.isEmpty || aligned o (x.ptr o.p).base) && (o.ord == 0 || !x.isFixed)

/-- Every memory that the machine lists is in canonical form (log 2). -/
def memoriesWf (s : State) : Bool :=
  s.dmem.wf && s.package.hostMem.wf && s.package.remoteMem.wf &&
    s.cores.all fun e => e.2.scratch.wf && e.2.operand.wf

end Sys2Proof.Machine
end

