-- ==== Sys2Proof/Certificates/Slice0/Obligations.lean ====
section
/-!
DEFINITION. Obligations.lean: the model's statements: a step runs what is decoded; every instruction and every event
completes, with its own effect, under conditions on the state and its operands; frames; traps; and the encodings.
-/
open Sys2Proof Sys2Proof.Machine

/-- 06 R143, 10 R223, R229: a step runs the decoded instruction. Where a strand has its turn (on an odd step, or where nothing
else is due: the one its port chooses, or the one whose pop comes first, 12 R270) and may issue, and the parcels at its address
are read, the step is exec of the instruction that they decode to, on the machine after the fetch with that strand in hand;
parcels that decode to nothing are ILLEGAL_INSTRUCTION with these parcels. Where an event has its turn, the step is exec of the
oldest event due whose clock runs; those of cores whose clock stands still stay due, in their order (05 R125). Around exec a
step only counts itself and lets device time go on. The turn about of events and of strands of either port is the model's choice
(log 4). -/
def Obligations.StepRunsDecoded : Prop := ∀ s : State, s.package.shutdown = false →
  (∀ (k : StrandId) (lo hi : Nat) (t u : State), popTurn s (s.steps / 2 % 2 == 0) = some k →
    (s.steps % 2 = 1 ∨ ∀ t ∈ s.agenda, turnStands s t = true) → let x := s.strand k
    x.canIssue = true → x.view = none → x.pending = [] →
    (fetchParcel k x.here).gives (dropIfGone k.core (x.here.toNat / 128) (tick s)) lo t → lo < 2 ^ 16 →
    (∀ i, decode (leBytes 2 lo) = .ok (i, 2) → step s = exec i { t with cur := k }) ∧
    (lo % 2 = 0 → ∀ e, decode (leBytes 2 lo) = .error e →
      step s = exec (.illegalInstruction (BitVec.ofNat 32 lo)) { t with cur := k }) ∧
    (lo % 2 = 1 → (fetchParcel k (x.here + 2)).gives t hi u → hi < 2 ^ 16 → let w := lo + hi * 2 ^ 16
      (∀ i, decode (leBytes 4 w) = .ok (i, 4) → step s = exec i { u with cur := k }) ∧
      (∀ e, decode (leBytes 4 w) = .error e →
        step s = exec (.illegalInstruction (BitVec.ofNat 32 w)) { u with cur := k }))) ∧
  (∀ (i : Instr) (a : EventArg) (still rest : List Turn), s.agenda = still ++ .event i a :: rest →
    (∀ t ∈ still, turnStands s t = true) → turnStands s (.event i a) = false →
    (s.steps % 2 = 0 ∨ ∀ k ∈ s.ready, stands (s.core k.core) = true) →
    step s = exec i { tick { s with agenda := still ++ rest } with arg := a })

/-- 01 R18: a step ends in a fault only where all clocks are stopped, and is never refused; exec itself always answers a
next state. -/
def Obligations.StepAnswers : Prop :=
  (∀ s : State, s.package.shutdown = true → step s = .fault .shutdown) ∧
  (∀ s : State, s.package.shutdown = false → ∃ t, step s = .next t) ∧
  ∀ (i : Instr) (s : State), ∃ t, exec i s = .next t

/-- 10 R225–R229, 11 to 15: words of the spec's encoding examples decode to the instructions they stand for, and words with
one must-be-zero bit set, or of a major that is none, decode to nothing. -/
def Obligations.DecodeWords : Prop :=
  decodeTableWord 32 0x448D11A7 = some (.pset 0x11234 1 0 3) ∧
  decodeTableWord 32 0xFFF003A9 = some (.paddImm 0x3FFC0 0 7) ∧
  decodeTableWord 32 0x3FF0082D = some (.aimmBcast 0x0FFC0 2) ∧
  decodeTableWord 32 0x203413AB = some (.pmovGld 2 false 6 4 7) ∧
  decodeTableWord 32 0x06C0002F = some (.kopsAnd 1 2 3) ∧
  decodeTableWord 32 0x00000833 = some .jumpRet ∧
  decodeTableWord 32 0x00010045 = some (.csrRd 0 1) ∧
  decodeTableWord 32 0x00070047 = some (.trapSwt 7) ∧
  decodeTableWord 32 0x0064044D = some (.nopsPause 100) ∧
  decodeTableWord 16 0x0ADE = some (.hCmplt { ch := false, k := 1, fmt := 1, inc := false, p := 6 }) ∧
  decodeTableWord 32 0x06C1002F = none ∧ decodeTableWord 16 0x0000 = none ∧ decodeTableWord 32 0x00000001 = none ∧
  decodeTableWord 32 0x0000004F = none

/-- 10 R223–R229: decode and encode agree: the encoding of every well-formed instruction that has one, whatever bytes
stand after it, decodes to that instruction and its length. -/
def Obligations.RoundTrip : Prop := ∀ (i : Instr) (rest : List Byte), i.wf = true → hasEncoding i = true →
  decode (encodeBytes i ++ rest) = .ok (i, i.len)

/-- 10 R230: every PROT and CTXS instruction of a strand in a user domain raises PRIV_INSTR and does nothing else: the trap
is taken, or, where no handler can run, the strand escalates. An encoding of these majors that is illegal is fetched as
ILLEGAL_INSTRUCTION, which raises ILLEGAL_INSTR in every domain. That both resume at the next instruction is the model's
reading (log 19). -/
def Obligations.PrivilegedTraps : Prop := ∀ s : State, plain s = true →
  let x := own s
  let raises := fun (i : Instr) (cause : BitVec 8) =>
    (canTrap s = true →
      exec i s = .next (trapped { cause := cause, addr := x.pc } (parcelsOf i) (nextPc i s) s)) ∧
    (canTrap s = false → exec i s = .next (escalated i cause s))
  (privileged x.domain = false → ∀ i, isPrivileged i = true → raises i 0x02) ∧
  (∀ w : Nat, w % 2 = 1 → (w / 2 % 64 = 36 ∨ w / 2 % 64 = 37) → w < 2 ^ 32 →
    (∃ i, isPrivileged i = true ∧ decodeWord w = .ok i) ∨ (∃ e, decodeWord w = .error e)) ∧
  (∀ (k : StrandId) (va : W64) (t u v : State) (lo hi : Nat) (e : DecodeError), lo % 2 = 1 →
    (fetchParcel k va).gives (dropIfGone k.core (va.toNat / 128) t) lo u → (fetchParcel k (va + 2)).gives u hi v →
    decodeWord (lo + hi * 2 ^ 16) = .error e →
    (fetchInstr k va).gives t (.illegalInstruction (BitVec.ofNat 32 (lo + hi * 2 ^ 16))) v) ∧
  ∀ w : BitVec 32, (canTrap s = true →
      exec (.illegalInstruction w) s = .next (trapped { cause := 0x01, addr := x.pc } w
        (nextPc (.illegalInstruction w) s) s)) ∧
    (canTrap s = false → exec (.illegalInstruction w) s = .next (escalated (.illegalInstruction w) 0x01 s))

/-- 11 R251: in fixed mode RDDEV and SYNCST raise FIXED_PATH and do nothing else; RDST, SETST and ADDST have their
effects. -/
def Obligations.FixedModeTime : Prop := ∀ s : State, plain s = true → (own s).isFixed = true →
  let x := own s
  (∀ i, (i = .timeRddev ∨ i = .timeSyncst) →
    (canTrap s = true → exec i s = .next (trapped { cause := 0x36, addr := x.pc } (parcelsOf i) (x.pc + 4) s)) ∧
    (canTrap s = false → exec i s = .next (escalated i 0x36 s))) ∧
  exec .timeRdst s = .next (ran .timeRdst 0 [.a (setLane64 x.a 0 x.stime)] s) ∧
  exec .timeSetst s = .next (ran .timeSetst 0 [.stime (lane64 x.a 0)] s) ∧
  exec .timeAddst s = .next (ran .timeAddst 0 [.stime (x.stime + lane64 x.a 0)] s)

/-- 11 R256: a WR, SETB or CLRB whose value holds a reserved code or a non-zero must-be-zero bit of FPCTL, DROW or FIXED,
or that would make XVEC or XRESUME odd, changes nothing and sets SST.CSRIGN (bit 9); a write to SST drops its must-be-zero
bits and writes the rest. -/
def Obligations.DiscardedControlWrites : Prop := ∀ (s : State) (la : BitVec 4) (rm : BitVec 12) (i : Instr) (v : W64),
  plain s = true →
  let x := own s
  let a0 := lane64 x.a 0
  (i = .csrWr la rm ∧ v = a0 ∨ i = .csrSetb la rm ∧ v = csrValue s x rm.toNat ||| a0 ∨
    i = .csrClrb la rm ∧ v = csrValue s x rm.toNat &&& ~~~a0) →
  ((rm = 0x001 ∧ 5 ≤ v.toNat ∨ rm = 0x002 ∧ 2 ^ 16 ≤ v.toNat ∨
      rm = 0x003 ∧ (v.toNat / 2 % 32 ≠ 0 ∨ 2 ^ 19 ≤ v.toNat) ∨ (rm = 0x010 ∨ rm = 0x014) ∧ v.toNat % 2 = 1) →
    exec i s = .next (ran i la.toNat [.flags 0x200] s)) ∧
  (rm = 0x000 → exec i s = .next (ran i la.toNat [.sst (v &&& 0x3FF)] s))

/-- 11 R245, R249, R259–R262, 13 R288, R290, R291: where traps are raised: RET and RETX outside a handler (RET_NOTRAP), a jump
to an odd target (FETCH_ALIGN, the jump does not happen and LINK keeps its value), HALT in a user domain (PRIV_INSTR), and
MISALIGNED, with the address that is not aligned: LDA, LDA.BC, LDA.ZX and STA (with an enabled lane), GATH (the first enabled
lane whose element is not), LINE (the destination, then the source), GSV and GLD. With la = 0 the trap is taken with nothing
else changed; where XVEC is 0 or a handler runs already, ERROR is posted and the task ends. With la > 0 the fault is pending,
and the strand may issue the instructions of its window. The resume address after RET_NOTRAP, FETCH_ALIGN and PRIV_INSTR is the
model's reading (log 19). -/
def Obligations.TrapsRaised : Prop := ∀ (s : State) (p q m : BitVec 3) (c : BitVec 12) (la : BitVec 4) (n : BitVec 6)
    (sz : BitVec 3) (d e : Bool) (o : MemOps), plain s = true →
  let x := own s
  let raises := fun (i : Instr) (f : FaultInfo) =>
    (canTrap s = true → exec i s = .next (trapped f (parcelsOf i) (nextPc i s) s)) ∧
    (canTrap s = false → exec i s = .next (escalated i f.cause s))
  let misaligned := fun (i : Instr) (la : BitVec 4) (va : W64) =>
    (la = 0 → raises i { cause := 0x07, addr := va }) ∧
    (la ≠ 0 → exec i s = .next (faultLater i la.toNat { cause := 0x07, addr := va } s))
  let odd := fun (i : Instr) (t : W64) => t.toNat % 2 = 1 → raises i { cause := 0x03, addr := x.pc }
  let element := fun (j : Nat) => let w := laneBytes o.fmt
    ((x.ptr o.p).base + BitVec.ofInt 64 (toSigned (8 * w) (lane (8 * w) x.a j) * w)).toNat
  let width := 128 / laneBytes o.fmt
  let on := (List.range width).filter (x.guard o.k)
  let half := (List.range (width / 2)).filter (x.guard o.k)
  let first := fun (l : List Nat) (va : Nat) => (l.find? fun a => a % laneBytes o.fmt != 0) = some va
  let base := (x.ptr o.p).base
  let apart := base.toNat % (if size o.sz ≤ 8 then size o.sz else laneBytes o.fmt) ≠ 0
  (x.xin = false → raises .trapRet { cause := 0x06, addr := x.pc } ∧ raises .trapRetx { cause := 0x06, addr := x.pc }) ∧
  odd (.jumpJr p) (x.ptr p).base ∧ odd (.jumpJalr p) (x.ptr p).base ∧ odd .jumpRet x.link ∧
  odd .jumpJa (lane64 x.a 0) ∧ odd (.jumpJidx c p) ((x.ptr p).base + BitVec.ofNat 64 (2 * c.toNat)) ∧
  (privileged x.domain = false → raises .trapHalt { cause := 0x02, addr := x.pc }) ∧
  (apart → coveredOn o x ≠ [] →
    misaligned (.lda o) o.la base ∧ misaligned (.ldaZx o) o.la base ∧ misaligned (.sta o) o.la base) ∧
  (apart → on ≠ [] → misaligned (.ldaBc o) o.la base) ∧
  (∀ va, (first (on.map element) va → misaligned (.gathGather o) o.la (BitVec.ofNat 64 va)) ∧
    (first (half.map fun j => element (width / 2 + j)) va → misaligned (.gathScatter o) o.la (BitVec.ofNat 64 va))) ∧
  ((x.ptr p).base.toNat % size sz ≠ 0 →
    misaligned (.lineMove la n sz e q d p) la (x.ptr p).base ∧ misaligned (.lineFill la n sz d p) la (x.ptr p).base) ∧
  ((x.ptr p).base.toNat % size sz = 0 → (x.ptr q).base.toNat % size sz ≠ 0 →
    misaligned (.lineMove la n sz e q d p) la (x.ptr q).base) ∧
  ((x.ptr q).base.toNat % 16 ≠ 0 →
    misaligned (.pmovGsv la d p m q) la (x.ptr q).base ∧ misaligned (.pmovGld la d p m q) la (x.ptr q).base)

/-- 11 R241, R243: the post-increment adds the sign-extended stride to the base modulo 2^64 and takes one from the count
modulo 2^32, and PADD.STEP with j has the effect of j post-increments. -/
def Obligations.PointerSteps : Prop :=
  (∀ x : Pointer, x.step.base.toNat = (x.base.toNat + (x.stride.signExtend 64).toNat) % 2 ^ 64 ∧
    x.step.stride = x.stride ∧ x.step.count.toNat = (x.count.toNat + (2 ^ 32 - 1)) % 2 ^ 32) ∧
  ∀ (s : State) (p : BitVec 3) (n : BitVec 18), plain s = true → n.toNat < 2 ^ 17 →
    exec (.paddStep n p) s = .next (ran (.paddStep n p) 0 [.p p (Pointer.step^[n.toNat] ((own s).ptr p))] s)

/-- 01 R20; 11 R253–R258: the machine after reset: every memory is in canonical form and reads as 0 where nothing is
written (log 2); every strand's control and trap registers are 0 (log 1) and none is live; nothing is ready and nothing is
due; and the first step starts the boot (log 4: the agenda and the step that boots are the model's form). -/
def Obligations.ResetState : Prop :=
  let s := State.reset
  memoriesWf s = true ∧ (∀ a, s.dmem.byte a = 0) ∧ s.ready = [] ∧ s.agenda = [] ∧ s.package.shutdown = false ∧
  (∀ k, let x := s.strand k
    x.live = false ∧ x.sst = 0 ∧ x.fpctl = 0 ∧ x.drow = 0 ∧ x.fixed = 0 ∧ x.xvec = 0 ∧ x.xstat = 0 ∧ x.xaddr = 0 ∧
    x.xpc = 0 ∧ x.xresume = 0 ∧ x.xaux = 0) ∧
  step s = exec .bootStart { tick s with arg := {} }

/-- 12 R285: each 16-bit form of format H has the effect of its 32-bit form: the result of that form's function on the
guarded lanes, the post-increment, and nothing else beside what reading the operand changed. -/
def Obligations.HalfFormsComplete : Prop := ∀ o : HOps,
  laneRuns (.hLda o) (halfOps o) notRead lanesRead (mapResult (halfOps o) false 0 laneMov) ∧
  laneRuns (.hAdd o) (halfOps o) notRead lanesRead (mapResult (halfOps o) false 0 laneAdd) ∧
  laneRuns (.hSub o) (halfOps o) notRead lanesRead (mapResult (halfOps o) false 0 laneSub) ∧
  laneRuns (.hRsub o) (halfOps o) notRead lanesRead (mapResult (halfOps o) false 0 laneRsub) ∧
  laneRuns (.hMul o) (halfOps o) notRead lanesRead (mapResult (halfOps o) false 0 laneMul) ∧
  laneRuns (.hFma o) (halfOps o) notRead lanesRead (fmalResult (halfOps o) false 0) ∧
  laneRuns (.hMin o) (halfOps o) notRead lanesRead (mapResult (halfOps o) false 0 laneMin) ∧
  laneRuns (.hMax o) (halfOps o) notRead lanesRead (mapResult (halfOps o) false 0 laneMax) ∧
  laneRuns (.hAnd o) (halfBits o) notRead lanesRead (mapResult (halfBits o) false 0 laneAnd) ∧
  laneRuns (.hOr o) (halfBits o) notRead lanesRead (mapResult (halfBits o) false 0 laneOr) ∧
  laneRuns (.hXor o) (halfBits o) notRead lanesRead (mapResult (halfBits o) false 0 laneXor) ∧
  laneRuns (.hAcc o) (halfOps o) notRead lanesRead
    (redResult (halfOps o) bLeaf (addNode false 0 (halfOps o)) (rootInto false 0 (halfOps o))) ∧
  laneRuns (.hCmplt o) (halfOps o) notRead lanesRead (cmpResult 1 (halfOps o) cmpLt) ∧
  ∀ (ch : Bool) (k : BitVec 2) (inc : Bool) (p : BitVec 3),
    laneRuns (.hShl ch k inc p) (halfShift ch k inc p) notRead lanesRead (mapResult (halfShift ch k inc p) false 0 laneShl) ∧
    laneRuns (.hShra ch k inc p) (halfShift ch k inc p) notRead lanesRead (mapResult (halfShift ch k inc p) false 0 laneShra)

/-- 12 R274, R275: VARI completes wherever its operands are read: each enabled lane of A takes its function's result, and
the flags its lanes raise; FMA and FMS read both operands, ABS and NEG none. -/
def Obligations.VariCompletes : Prop := ∀ (sat : Bool) (rm : BitVec 2) (o : LaneOps),
  laneRuns (.variAdd sat rm o) o notRead lanesRead (mapResult o sat rm laneAdd) ∧
  laneRuns (.variSub sat rm o) o notRead lanesRead (mapResult o sat rm laneSub) ∧
  laneRuns (.variRsub sat rm o) o notRead lanesRead (mapResult o sat rm laneRsub) ∧
  laneRuns (.variMul sat rm o) o notRead lanesRead (mapResult o sat rm laneMul) ∧
  laneRuns (.variFma sat rm o) o lanesRead lanesRead (mapResult o sat rm laneFma) ∧
  laneRuns (.variFms sat rm o) o lanesRead lanesRead (mapResult o sat rm laneFms) ∧
  laneRuns (.variFmal sat rm o) o notRead lanesRead (fmalResult o sat rm) ∧
  laneRuns (.variMin sat rm o) o notRead lanesRead (mapResult o sat rm laneMin) ∧
  laneRuns (.variMax sat rm o) o notRead lanesRead (mapResult o sat rm laneMax) ∧
  laneRuns (.variDiv sat rm o) o notRead lanesRead (mapResult o sat rm laneDiv) ∧
  laneRuns (.variSqrt sat rm o) o notRead lanesRead (mapResult o sat rm laneSqrt) ∧
  laneRuns (.variAbs sat rm o) o notRead notRead (mapResult o sat rm laneAbs) ∧
  laneRuns (.variNeg sat rm o) o notRead notRead (mapResult o sat rm laneNeg) ∧
  laneRuns (.variMov sat rm o) o notRead lanesRead (mapResult o sat rm laneMov) ∧
  laneRuns (.variMulh sat rm o) o notRead lanesRead (mapResult o sat rm laneMulh) ∧
  laneRuns (.variCpysgn sat rm o) o notRead lanesRead (mapResult o sat rm laneCpysgn)

/-- 12 R276: VBIT completes wherever its operand is read; NOT, POPC and CLZ read none. -/
def Obligations.VbitCompletes : Prop := ∀ o : LaneOps,
  laneRuns (.vbitAnd o) o notRead lanesRead (mapResult o false 0 laneAnd) ∧
  laneRuns (.vbitOr o) o notRead lanesRead (mapResult o false 0 laneOr) ∧
  laneRuns (.vbitXor o) o notRead lanesRead (mapResult o false 0 laneXor) ∧
  laneRuns (.vbitAndn o) o notRead lanesRead (mapResult o false 0 laneAndn) ∧
  laneRuns (.vbitShl o) o notRead lanesRead (mapResult o false 0 laneShl) ∧
  laneRuns (.vbitShr o) o notRead lanesRead (mapResult o false 0 laneShr) ∧
  laneRuns (.vbitShra o) o notRead lanesRead (mapResult o false 0 laneShra) ∧
  laneRuns (.vbitRol o) o notRead lanesRead (mapResult o false 0 laneRol) ∧
  laneRuns (.vbitNot o) o notRead notRead (mapResult o false 0 laneNot) ∧
  laneRuns (.vbitPopc o) o notRead notRead (mapResult o false 0 lanePopc) ∧
  laneRuns (.vbitClz o) o notRead notRead (mapResult o false 0 laneClz)

/-- 12 R277: VCMP completes wherever its operand is read: the enabled lanes' bits of K⟨kd⟩ take the relation, and A is
left alone. -/
def Obligations.VcmpCompletes : Prop := ∀ (kd : BitVec 2) (o : LaneOps),
  laneRuns (.vcmpEq kd o) o notRead lanesRead (cmpResult kd o cmpEq) ∧
  laneRuns (.vcmpNe kd o) o notRead lanesRead (cmpResult kd o cmpNe) ∧
  laneRuns (.vcmpLt kd o) o notRead lanesRead (cmpResult kd o cmpLt) ∧
  laneRuns (.vcmpLe kd o) o notRead lanesRead (cmpResult kd o cmpLe) ∧
  laneRuns (.vcmpGt kd o) o notRead lanesRead (cmpResult kd o cmpGt) ∧
  laneRuns (.vcmpGe kd o) o notRead lanesRead (cmpResult kd o cmpGe) ∧
  laneRuns (.vcmpUn kd o) o notRead lanesRead (cmpResult kd o cmpUn) ∧
  laneRuns (.vcmpLtu kd o) o notRead lanesRead (cmpResult kd o cmpLtu) ∧
  laneRuns (.vcmpLeu kd o) o notRead lanesRead (cmpResult kd o cmpLeu) ∧
  laneRuns (.vcmpGtu kd o) o notRead lanesRead (cmpResult kd o cmpGtu) ∧
  laneRuns (.vcmpGeu kd o) o notRead lanesRead (cmpResult kd o cmpGeu)

/-- 12 R278–R280: VCVT completes: the conversions of A always, the conversion through a skein where the skein is valid and
no enabled element breaks its bound policy. -/
def Obligations.VcvtCompletes : Prop := ∀ (sat : Bool) (rm : BitVec 2) (o : LaneOps),
  laneRuns (.vcvtTi64 sat rm o) o notRead notRead (cvtResult o 64 rm fun m v => cvtInt 64 o.fmt sat m v) ∧
  laneRuns (.vcvtTi32 sat rm o) o notRead notRead (cvtResult o 32 rm fun m v => cvtInt 32 o.fmt sat m v) ∧
  laneRuns (.vcvtTi16 sat rm o) o notRead notRead (cvtResult o 16 rm fun m v => cvtInt 16 o.fmt sat m v) ∧
  laneRuns (.vcvtTi8 sat rm o) o notRead notRead (cvtResult o 8 rm fun m v => cvtInt 8 o.fmt sat m v) ∧
  laneRuns (.vcvtTf64 sat rm o) o notRead notRead (cvtResult o 64 rm fun m v => cvtFloat f64 o.fmt m v) ∧
  laneRuns (.vcvtTf32 sat rm o) o notRead notRead (cvtResult o 32 rm fun m v => cvtFloat f32 o.fmt m v) ∧
  laneRuns (.vcvtTbf16 sat rm o) o notRead notRead (cvtResult o 16 rm fun m v => cvtFloat bf16 o.fmt m v) ∧
  laneRuns (.vcvtTf16 sat rm o) o notRead notRead (cvtResult o 16 rm fun m v => cvtFloat f16 o.fmt m v) ∧
  laneRuns (.vcvtTe4m3 sat rm o) o notRead notRead (cvtResult o 8 rm fun m v => narrow e4m3 m sat (fval o.fmt v)) ∧
  laneRuns (.vcvtTe5m2 sat rm o) o notRead notRead (cvtResult o 8 rm fun m v => narrow e5m2 m sat (fval o.fmt v)) ∧
  laneRuns (.vcvtTe2m1 sat rm o) o notRead notRead (cvtResult o 4 rm fun m v => narrow e2m1 m sat (fval o.fmt v)) ∧
  laneRuns (.vcvtFe4m3 o) o notRead notRead (fromResult o 8 e4m3) ∧
  laneRuns (.vcvtFe5m2 o) o notRead notRead (fromResult o 8 e5m2) ∧
  laneRuns (.vcvtFe2m1 o) o notRead notRead (fromResult o 4 e2m1) ∧
  ∀ (s : State) (a : Strip) (fl : Nat), plain s = true →
    tsk (Table.get 0 (ownCore s).skeins o.pa.toNat) o.fmt sat (codeOf rm (own s).fpctl) ((own s).drow.toNat % 65536)
      (laneGuard o (own s)) (own s).a = .ok a fl →
    exec (.vcvtTsk sat rm o) s = .next (ran (.vcvtTsk sat rm o) 0 (resultWrites (a, fl)) s)

/-- 12 R281: VPERM completes wherever the lanes of b that its enabled lanes consume are read; BCAST, REV and IOTA read
none. -/
def Obligations.VpermCompletes : Prop := ∀ o : LaneOps,
  laneRuns (.vpermBcast o) o notRead notRead (moveResult o permBcast) ∧
  laneRuns (.vpermRev o) o notRead notRead (moveResult o permRev) ∧
  laneRuns (.vpermIota o) o notRead notRead (moveResult o fun _ => permIota o.fmt) ∧
  laneRuns (.vpermPerm o) o notRead lanesRead (move2Result o fun _ => permPerm) ∧
  laneRuns (.vpermSldn o) o notRead sldnReads (move2Result o fun x w => permSldn w (slide o x)) ∧
  laneRuns (.vpermSlup o) o notRead slupReads (move2Result o fun x w => permSlup w (slide o x)) ∧
  laneRuns (.vpermZiplo o) o notRead (zipReads 0) (move2Result o fun _ w => permZip w 0) ∧
  laneRuns (.vpermZiphi o) o notRead (zipReads 1) (move2Result o fun _ w => permZip w (1024 / w / 2)) ∧
  laneRuns (.vpermUnzev o) o notRead (unzReads 0) (move2Result o fun _ w => permUnz w 0) ∧
  laneRuns (.vpermUnzod o) o notRead (unzReads 1) (move2Result o fun _ w => permUnz w 1) ∧
  laneRuns (.vpermCompr o) o notRead lanesRead (move2Result o fun _ w g _ b => permCompr w g b) ∧
  laneRuns (.vpermExpnd o) o notRead expndReads (move2Result o fun _ => permExpnd)

/-- 12 R282, R283: VRED leaves in lane 0 the tree of its leaves, VFUN in each enabled lane its function of A. -/
def Obligations.VredVfunComplete : Prop := ∀ (sat : Bool) (rm : BitVec 2) (o : LaneOps),
  laneRuns (.vredSum sat rm o) o notRead notRead (redResult o (ownLeaf o) (addNode sat rm o) (rootOr 0)) ∧
  laneRuns (.vredMin o) o notRead notRead (redResult o (ownLeaf o) (exactNode laneMin o) (rootOr (topValue o.fmt))) ∧
  laneRuns (.vredMax o) o notRead notRead (redResult o (ownLeaf o) (exactNode laneMax o) (rootOr (bottomValue o.fmt))) ∧
  laneRuns (.vredAcc sat rm o) o notRead lanesRead (redResult o bLeaf (addNode sat rm o) (rootInto sat rm o)) ∧
  laneRuns (.vredDot sat rm o) o lanesRead lanesRead
    (redResult o (dotLeaf sat rm o) (addNode sat rm o) (rootInto sat rm o)) ∧
  laneRuns (.vredAnd o) o notRead notRead (redResult o (ownLeaf o) (exactNode laneAnd o) (rootOr (2 ^ laneBits o.fmt - 1))) ∧
  laneRuns (.vredOr o) o notRead notRead (redResult o (ownLeaf o) (exactNode laneOr o) (rootOr 0)) ∧
  laneRuns (.vredXor o) o notRead notRead (redResult o (ownLeaf o) (exactNode laneXor o) (rootOr 0)) ∧
  laneRuns (.vfunExp2 rm o) o notRead notRead (mapResult o false rm fun fmt _ m a _ _ => funExp2 fmt m a) ∧
  laneRuns (.vfunLog2 rm o) o notRead notRead (mapResult o false rm fun fmt _ m a _ _ => funLog2 fmt m a) ∧
  laneRuns (.vfunSint rm o) o notRead notRead (mapResult o false rm fun fmt _ m a _ _ => funTurn false fmt m a) ∧
  laneRuns (.vfunCost rm o) o notRead notRead (mapResult o false rm fun fmt _ m a _ _ => funTurn true fmt m a) ∧
  laneRuns (.vfunTanh rm o) o notRead notRead (mapResult o false rm fun fmt _ m a _ _ => funTanh fmt m a) ∧
  laneRuns (.vfunRecip rm o) o notRead notRead (mapResult o false rm fun fmt _ m a _ _ => funRecip fmt m a) ∧
  laneRuns (.vfunRsqrt rm o) o notRead notRead (mapResult o false rm fun fmt _ m a _ _ => funRsqrt fmt m a)

/-- 12 R269: an operand whose lanes lie aligned in the own scratchpad, unpoisoned and under no landing or zone, is read as
it stands there, and reading it changes nothing: operand b of every form; and operand a, which FMA, FMS and DOT take from
P⟨pa⟩, so that these complete with both. -/
def Obligations.ScratchOperandRead : Prop := ∀ (s : State) (o : LaneOps) (lanes : List Nat), o.cb = false →
  lanesReady s o.pb (laneBits o.fmt) lanes = true →
  let w := laneBits o.fmt
  (operandB s.cur (own s) o w lanes).gives s (laneFrom s o.pb w lanes) s ∧
  (plain s = true → lanes = guardLanes o (own s) → lanesReady s o.pa w lanes = true → ∀ (sat : Bool) (rm : BitVec 2),
    let done := fun (i : Instr) (f : LaneResult) =>
      exec i s = .next (ran i 0 (f (own s) (laneFrom s o.pa w lanes) (laneFrom s o.pb w lanes) ++ laneBumps o (own s)) s)
    (operandsOf o lanesRead lanesRead s.cur (own s)).gives s (laneFrom s o.pa w lanes, laneFrom s o.pb w lanes) s ∧
    done (.variFma sat rm o) (mapResult o sat rm laneFma) ∧ done (.variFms sat rm o) (mapResult o sat rm laneFms) ∧
    done (.vredDot sat rm o) (redResult o (dotLeaf sat rm o) (addNode sat rm o) (rootInto sat rm o)))

/-- 06 R153, 12 R270: a channel operand out of fixed mode takes the oldest packet of the channel, as a strip, out of the
mailbox; the read is an acquire (08 R183). Where the channel is empty the strand waits on it. -/
def Obligations.ChannelOperandRead : Prop := ∀ (s : State) (o : LaneOps) (lanes : List Nat), o.cb = true →
  (own s).isFixed = false →
  (∀ (m : Packet) (ms : List Packet), channelOf (ownCore s) o.pb.toNat = m :: ms → m.bad = [] →
    (operandB s.cur (own s) o (laneBits o.fmt) lanes).gives s (lane (laneBits o.fmt) (ofStripBytes m.payload))
      (acquire s.cur.core (s.setCore s.cur.core
        (Core.freeClosed { ownCore s with mailbox := (ownCore s).mailbox.filter fun q => q.id != m.id })))) ∧
  (channelOf (ownCore s) o.pb.toNat = [] →
    (operandB s.cur (own s) o (laneBits o.fmt) lanes).stops s (.wait (.channel o.pb.toNat)) s)

/-- 13 R288–R290, 12 R284: LDA, LDA.BC, LDA.ZX, GATHER and RAND complete wherever their checks pass and their loads are
answered: A takes the loaded lanes, an acquire is performed, the pointer takes its post-increment, and nothing else
differs beside what the load changed in caches and counts. -/
def Obligations.LoadsComplete : Prop := ∀ (o : MemOps) (s t : State) (l : List (Nat × List Byte)), plain s = true →
  let x := own s
  let n := laneBytes o.fmt
  let base := (x.ptr o.p).base
  let v := fun i => ofBytes (gathered l (laneVa base n i) n)
  let done := if o.ord = 1 then acquire s.cur.core t else t
  let reqs := fun lanes => (runs lanes).map fun r => (laneVa base n r.1, r.2 * n)
  (memOk o x (coveredOn o x) = true → (load s.cur .read (reqs (coveredOn o x))).gives s l t →
    exec (.lda o) s = .next (ran (.lda o) o.la.toNat (.a (loadMerge o x v) :: memBump o x) done) ∧
    exec (.ldaZx o) s = .next (ran (.ldaZx o) o.la.toNat (.a (loadZero o x v) :: memBump o x) done)) ∧
  (memOk o x (firstIfAny o x) = true → (load s.cur .read (reqs (firstIfAny o x))).gives s l t →
    exec (.ldaBc o) s = .next (ran (.ldaBc o) o.la.toNat (.a (loadBroadcast o x v) :: memBump o x) done)) ∧
  (let w := laneBits o.fmt
   let va := fun i => elementVa o x (lane w x.a i)
   let lanes := lanesOn o x (1024 / w)
   (∀ i ∈ lanes, va i % n = 0) → (load s.cur .read (lanes.map fun i => (va i, n))).gives s l t →
    exec (.gathGather o) s = .next (ran (.gathGather o) o.la.toNat
      (.a (mapLanes w (x.guard o.k) x.a fun i => (ofBytes (gathered l (va i) n), 0)).1 :: memBump o x) t)) ∧
  ∀ (la : BitVec 4) (k : BitVec 2) (inc : Bool) (p : BitVec 3) (key : Nat),
    (pick 32 (x.guard k) = [] ∧ t = s ∨ pick 32 (x.guard k) ≠ [] ∧ (x.ptr p).base.toNat % 4 = 0 ∧
      (load s.cur .read [((x.ptr p).base.toNat, 8)]).gives s l t ∧
      key = ofBytes (gathered l (x.ptr p).base.toNat 8)) →
    exec (.randRaw la k inc p) s = .next (ran (.randRaw la k inc p) la.toNat
      (.a (mapLanes 32 (x.guard k) x.a fun i => (randWord x.a key i, 0)).1 :: bump x inc p) t) ∧
    exec (.randUnif la k inc p) s = .next (ran (.randUnif la k inc p) la.toNat
      (.a (mapLanes 32 (x.guard k) x.a fun i => (unif (randWord x.a key i), 0)).1 :: bump x inc p) t)

/-- 13 R288, R289: LDA of lanes that lie in the own scratchpad gives each enabled covered lane the bytes that stand there,
leaves the other lanes of A, steps the pointer if asked, and changes nothing else: no byte of any memory. -/
def Obligations.LdaScratchValue : Prop := ∀ (o : MemOps) (s : State), plain s = true → o.ord = 0 →
  aligned o ((own s).ptr o.p).base = true → lanesReady s o.p (laneBits o.fmt) (coveredOn o (own s)) = true →
  exec (.lda o) s = .next (ran (.lda o) o.la.toNat
    (.a (loadMerge o (own s) (laneAt s o.p (laneBits o.fmt))) :: memBump o (own s)) s)

/-- 13 R289–R291, 11 R245, R257; 08 R183: STA, H_STA, SCATTER, FILL, MOVE, GSV and PATN.GET complete wherever their checks
pass and their bytes may be stored: what they store is the pieces listed (for MOVE, the source's bytes), their pointers
take their post-increments, and an instruction with bytes for another core or package completes with its answer. -/
def Obligations.StoresComplete : Prop := ∀ (s t : State) (id : Option Nat), plain s = true →
  let x := own s
  (∀ o : MemOps, memOk o x (coveredOn o x) = true → pushes o x = false → (o.ord = 2 → corePerformed s s.cur = true) →
    (store s.cur (staReqs o x)).gives s id t →
    exec (.sta o) s = .next (ranOr (.sta o) o.la.toNat id (memBump o x) t)) ∧
  (∀ (k fmt : BitVec 2) (inc : Bool) (p : BitVec 3), let o := halfSta k fmt inc p
    memOk o x (coveredOn o x) = true → (store s.cur (staReqs o x)).gives s id t →
    exec (.hSta k fmt inc p) s = .next (ranOr (.hSta k fmt inc p) 0 id (memBump o x) t)) ∧
  (∀ o : MemOps, (∀ r ∈ scatterReqs o x, r.1 % laneBytes o.fmt = 0) → (store s.cur (scatterReqs o x)).gives s id t →
    exec (.gathScatter o) s = .next (ranOr (.gathScatter o) o.la.toNat id (memBump o x) t)) ∧
  (∀ (la : BitVec 4) (n : BitVec 6) (sz : BitVec 3) (d : Bool) (p : BitVec 3), let dst := (x.ptr p).base
    dst.toNat % 2 ^ sz.toNat = 0 → (store s.cur [(dst.toNat, fillBytes x (lineLength n sz))]).gives s id t →
    exec (.lineFill la n sz d p) s = .next (ranOr (.lineFill la n sz d p) la.toNat id (bump x d p) t)) ∧
  (∀ (la : BitVec 4) (n : BitVec 6) (sz : BitVec 3) (si : Bool) (q : BitVec 3) (d : Bool) (p : BitVec 3),
    let dst := (x.ptr p).base
    let src := (x.ptr q).base
    dst.toNat % 2 ^ sz.toNat = 0 → src.toNat % 2 ^ sz.toNat = 0 →
    (moveBytes s.cur dst.toNat src.toNat (lineLength n sz)).gives s id t →
    exec (.lineMove la n sz si q d p) s =
      .next (ranOr (.lineMove la n sz si q d p) la.toNat id (moveBumps x d p si q) t)) ∧
  (∀ (la : BitVec 4) (c : Bool) (n m q : BitVec 3), (x.ptr q).base.toNat % 16 = 0 →
    (store s.cur [((x.ptr q).base.toNat, (groupOf n m).flatMap fun i => toBytes 16 (x.ptr i).image)]).gives s id t →
    exec (.pmovGsv la c n m q) s = .next (ranOr (.pmovGsv la c n m q) la.toNat id (bump x c q) t)) ∧
  (∀ (la : BitVec 4) (w : BitVec 2) (p : BitVec 3), let va := (x.ptr p).base
    inScratch va 32 = true → va.toNat % 32 = 0 →
    (store s.cur [(va.toNat, toBytes 32 (x.pat.toList.getD w.toNat 0).toNat)]).gives s id t →
    exec (.patnGet la w p) s = .next (ranOr (.patnGet la w p) la.toNat id [] t))

/-- 13 R289, 08 R191: STA whose bytes all lie in the own scratchpad, where it may write, is performed at once: the covered
enabled lanes' bytes stand at their addresses, and beside the pointer's post-increment nothing else differs. -/
def Obligations.StaScratchStores : Prop := ∀ (o : MemOps) (s : State), plain s = true → o.ord = 0 →
  memOk o (own s) (coveredOn o (own s)) = true → pushes o (own s) = false →
  scratchWrites s (staReqs o (own s)) = true →
  exec (.sta o) s = .next (ran (.sta o) o.la.toNat (memBump o (own s))
    (scratchStore s.cur.core (scratchBytes (staReqs o (own s))) s))

/-- 13 R289, R290; 08 R191: a store to a scratchpad writes the last byte given for each offset; every other byte of that
scratchpad, every byte of every other scratchpad, device memory, the host's and other packages' memory read as before. The table
of cores is canonical (log 2). -/
def Obligations.ScratchStoreFrame : Prop := ∀ (s : State) (c : CoreId) (bs : List (Nat × Byte)),
  Table.wf {} s.cores = true → (s.core c).scratch.wf = true →
  let t := scratchStore c bs s
  (∀ a, a ∉ bs.map Prod.fst → (t.core c).scratch.byte a = (s.core c).scratch.byte a) ∧
  (∀ (l r : List (Nat × Byte)) (a : Nat) (v : Byte), bs = l ++ (a, v) :: r → a ∉ r.map Prod.fst →
    (t.core c).scratch.byte a = v) ∧
  (∀ d, d ≠ c → t.core d = s.core d) ∧
  (t.core c).scratch.wf = true ∧ Table.wf {} t.cores = true ∧
  t.dmem = s.dmem ∧ t.package = s.package ∧ t.strands = s.strands ∧ t.stores = s.stores

/-- 13 R289, 08 R183: where a load or the operands of a format-V instruction are read, no byte of a scratchpad, of device
memory, of the host's or other packages' memory changes, and no strand does. The table of cores is canonical (log 2). -/
def Obligations.ReadsStoreNothing : Prop := ∀ (s t : State) (k : StrandId), Table.wf {} s.cores = true →
  ((∃ acc reqs v, (load k acc reqs).gives s v t) ∨ ∃ o ra rb v, (operandsOf o ra rb k (s.strand k)).gives s v t) →
  (∀ c a, (t.core c).scratch.byte a = (s.core c).scratch.byte a) ∧ (∀ a, t.dmem.byte a = s.dmem.byte a) ∧
  (∀ a, t.package.hostMem.byte a = s.package.hostMem.byte a) ∧
  (∀ a, t.package.remoteMem.byte a = s.package.remoteMem.byte a) ∧ t.strands = s.strands

/-- 11 R242–R246: PSET, PADD, PMOV (GSV and GLD apart) and AIMM complete in every state: the named pointer, A or LINK takes
its value and nothing else changes; GLD completes wherever its load is answered, its post-increment discarded where it
loads its own pointer. -/
def Obligations.PointersComplete : Prop := ∀ s : State, plain s = true →
  let x := own s
  (∀ (n : BitVec 18) (sub fld : BitVec 2) (p : BitVec 3),
    exec (.pset n sub fld p) s = .next (ran (.pset n sub fld p) 0
      [.p p (mapField (x.ptr p) fld (setChunk sub.toNat (n.toNat % 65536) (n.toNat / 65536)))] s) ∧
    exec (.paddImm n fld p) s = .next (ran (.paddImm n fld p) 0
      [.p p (mapField (x.ptr p) fld fun w f => ofInt w ((f : Int) + n.toInt * 1))] s) ∧
    exec (.paddSh12 n fld p) s = .next (ran (.paddSh12 n fld p) 0
      [.p p (mapField (x.ptr p) fld fun w f => ofInt w ((f : Int) + n.toInt * 4096))] s) ∧
    exec (.paddStep n p) s = .next (ran (.paddStep n p) 0
      [.p p { x.ptr p with base := (x.ptr p).base + BitVec.ofInt 64 (n.toInt * (x.ptr p).stride.toInt)
                           count := (x.ptr p).count - BitVec.ofInt 32 n.toInt }] s)) ∧
  (∀ (la : BitVec 4) (g p d : BitVec 3),
    exec (.pmovMov la p d) s = .next (ran (.pmovMov la p d) la.toNat [.p d (x.ptr p)] s) ∧
    exec (.pmovToa la g p) s = .next (ran (.pmovToa la g p) la.toNat
      [.a (setBits x.a (128 * g.toNat) 128 (x.ptr p).image)] s) ∧
    exec (.pmovFroma la g p) s = .next (ran (.pmovFroma la g p) la.toNat [.p p (ofImage (lane 128 x.a g.toNat))] s) ∧
    exec (.pmovZero la p) s = .next (ran (.pmovZero la p) la.toNat [.p p {}] s) ∧
    exec (.pmovGetlink la p) s = .next (ran (.pmovGetlink la p) la.toNat [.p p { x.ptr p with base := x.link }] s) ∧
    exec (.pmovSetlink la p) s = .next (ran (.pmovSetlink la p) la.toNat [.link (x.ptr p).base] s)) ∧
  (∀ (n : BitVec 18) (fld : BitVec 2) (f : Bool),
    exec (.aimmBcast n fld) s = .next (ran (.aimmBcast n fld) 0
      [.a (ofLanes (aimmWidth fld) (1024 / aimmWidth fld) fun _ => aimmConst fld n)] s) ∧
    exec (.aimmLane0 n fld) s = .next (ran (.aimmLane0 n fld) 0
      [.a (setLane0 (aimmWidth fld) x.a (aimmConst fld n))] s) ∧
    exec (.aimmOnly0 n fld) s = .next (ran (.aimmOnly0 n fld) 0
      [.a (setLane0 (aimmWidth fld) 0 (aimmConst fld n))] s) ∧
    let e : BitVec 2 := if f then 1 else 0
    let w := aimmWidth e
    exec (.aimmAdd n f) s = .next (ran (.aimmAdd n f) 0
      [.a (ofLanes w (1024 / w) fun i => (lane w x.a i + aimmConst e n) % 2 ^ w)] s)) ∧
  ∀ (la : BitVec 4) (c : Bool) (n m q : BitVec 3) (t : State) (l : List (Nat × List Byte)),
    let va := (x.ptr q).base.toNat
    va % 16 = 0 → (load s.cur .read [(va, 16 * (groupOf n m).length)]).gives s l t →
    exec (.pmovGld la c n m q) s = .next (ran (.pmovGld la c n m q) la.toNat
      (((groupOf n m).zipIdx.map fun e => RegWrite.p e.1 (ofImage (ofBytes (gathered l (va + 16 * e.2) 16)))) ++
        bump x (c && !(groupOf n m).contains q) q) t)

/-- 11 R247: KOPS completes in every state: the named mask, or A, takes its value, K0 discards it, and nothing else
changes. -/
def Obligations.KopsComplete : Prop := ∀ (s : State) (d a b : BitVec 2) (p : BitVec 3), plain s = true →
  let x := own s
  let sets := fun (i : Instr) (m : Mask) => exec i s = .next (ran i 0 [.k d m] s)
  sets (.kopsAnd d a b) (x.k a &&& x.k b) ∧ sets (.kopsOr d a b) (x.k a ||| x.k b) ∧
  sets (.kopsXor d a b) (x.k a ^^^ x.k b) ∧ sets (.kopsAndn d a b) (x.k a &&& ~~~(x.k b)) ∧
  sets (.kopsNot d a) (~~~(x.k a)) ∧ sets (.kopsMov d a) (x.k a) ∧ sets (.kopsSet d) (BitVec.allOnes 128) ∧
  sets (.kopsClr d) 0 ∧ sets (.kopsFirst d a) (x.k a &&& -(x.k a)) ∧ sets (.kopsFroma d) (x.a.setWidth 128) ∧
  sets (.kopsPrefix d p) (BitVec.ofNat 128 (2 ^ min (x.ptr p).count.toNat 128 - 1)) ∧
  exec (.kopsToa a) s = .next (ran (.kopsToa a) 0 [.a (setBits x.a 0 128 (x.k a).toNat)] s) ∧
  exec (.kopsPopc a) s = .next (ran (.kopsPopc a) 0
    [.a (setLane64 x.a 0 (BitVec.ofNat 64 (countBits (x.k a).toNat 128)))] s)

/-- 11 R248, R249: branches and jumps complete: a branch goes to its own address and twice its offset where its condition
holds, and else to the next instruction; CALL and JALR leave the address of the next instruction in LINK; a jump goes to
its even target; nothing else changes. -/
def Obligations.BranchesComplete : Prop := ∀ (s : State) (n : BitVec 19) (p : BitVec 3) (k : BitVec 2) (c : BitVec 12),
  plain s = true →
  let x := own s
  let target := x.pc + BitVec.ofInt 64 (2 * n.toInt)
  let goes := fun (i : Instr) (taken : Bool) =>
    exec i s = .next (ranAt i 0 [] (if taken then target else x.pc + 4) s)
  let jumps := fun (i : Instr) (ws : List RegWrite) (t : W64) =>
    t.getLsbD 0 = false → exec i s = .next (ranAt i 0 ws t s)
  goes (.br n) true ∧ goes (.brCnz n p) ((x.ptr p).count != 0) ∧ goes (.brCz n p) ((x.ptr p).count == 0) ∧
  goes (.brKany n k) (x.k k != 0) ∧ goes (.brKnone n k) (x.k k == 0) ∧ goes (.brNeg n) ((lane64 x.a 0).getLsbD 63) ∧
  goes (.brEqz n) (lane64 x.a 0 == 0) ∧ goes (.brNez n) (lane64 x.a 0 != 0) ∧
  exec (.brCall n) s = .next (ranAt (.brCall n) 0 [.link (x.pc + 4)] target s) ∧
  jumps (.jumpJr p) [] (x.ptr p).base ∧ jumps (.jumpJalr p) [.link (x.pc + 4)] (x.ptr p).base ∧
  jumps .jumpRet [] x.link ∧ jumps .jumpJa [] (lane64 x.a 0) ∧
  jumps (.jumpJidx c p) [] ((x.ptr p).base + BitVec.ofNat 64 (2 * c.toNat))

/-- 11 R250–R256: TIME and CSR complete: time is read and written (device time out of fixed mode only), a control register
is read into lane 0 of A, and a register that may be written takes the value at once (FPCTL, DROW: log 33) or as a result.
FIXED (08 R196): a write that sets EN from 0 to 1 also fills the strand's horizon area with BASE of its tenant's palette when
it commits; one that leaves EN = 0 changes FIXED alone. In fixed mode a write of the value that stands changes nothing and any
other with EN = 1 is discarded (SST.CSRIGN); one that clears EN ends the mode, or raises FIXED_PENDING while the strand holds
buffered words (08 R200). -/
def Obligations.TimeCsrComplete : Prop := ∀ (s : State) (la : BitVec 4), plain s = true →
  let x := own s
  let a0 := lane64 x.a 0
  let reads := fun (i : Instr) (n : Nat) (v : W64) => exec i s = .next (ran i n [.a (setLane64 x.a 0 v)] s)
  reads .timeRdst 0 x.stime ∧ (x.isFixed = false → reads .timeRddev 0 s.now) ∧
  exec .timeSetst s = .next (ran .timeSetst 0 [.stime a0] s) ∧
  exec .timeAddst s = .next (ran .timeAddst 0 [.stime (x.stime + a0)] s) ∧
  (x.isFixed = false → exec .timeSyncst s =
    .next (ran .timeSyncst 0 [.stime (if x.stime.toNat < s.now.toNat then s.now else x.stime)] s)) ∧
  (∀ rm : BitVec 12, reads (.csrRd la rm) la.toNat (csrValue s x rm.toNat)) ∧
  ∀ (i : Instr) (rm : BitVec 12) (v : W64),
    (i = .csrWr la rm ∧ v = a0 ∨ i = .csrSetb la rm ∧ v = csrValue s x rm.toNat ||| a0 ∨
      i = .csrClrb la rm ∧ v = csrValue s x rm.toNat &&& ~~~a0) →
    let sets := fun (w : RegWrite) => exec i s = .next (ran i la.toNat [w] s)
    (rm = 0x000 → sets (.sst (v &&& 1023))) ∧ (rm = 0x004 → sets (.link v)) ∧
    (rm = 0x010 → v.getLsbD 0 = false → sets (.xvec v)) ∧ (rm = 0x014 → v.getLsbD 0 = false → sets (.xresume v)) ∧
    (rm = 0x003 → v.toNat / 2 % 32 = 0 → v.toNat < 2 ^ 19 → x.isFixed = false →
      (v.getLsbD 0 = false → sets (.fixed v)) ∧
      (v.getLsbD 0 = true → la ≠ 0 → sets (.fixed v)) ∧
      (v.getLsbD 0 = true → la = 0 → exec i s = .next
        (setHorizonAt (ran i 0 [.fixed v] s) s.cur.core (v.toNat / 64 % 2 ^ 13 * 64) (baseHorizon s x.domain)))) ∧
    (rm = 0x003 → v.toNat / 2 % 32 = 0 → v.toNat < 2 ^ 19 → x.isFixed = true →
      (v = x.fixed → sets (.fixed v)) ∧
      (v.getLsbD 0 = true → v ≠ x.fixed → sets (.flags 0x200)) ∧
      (v.getLsbD 0 = false → holdsWords s s.cur = false → sets (.fixed v)) ∧
      (v.getLsbD 0 = false → holdsWords s s.cur = true → let f : FaultInfo := { cause := 0x37, addr := x.pc }
        (la = 0 → canTrap s = true → exec i s = .next (trapped f (parcelsOf i) (nextPc i s) s)) ∧
        (la = 0 → canTrap s = false → exec i s = .next (escalated i f.cause s)) ∧
        (la ≠ 0 → exec i s = .next (faultLater i la.toNat f s)))) ∧
    (rm = 0x001 → v.toNat < 5 → exec i s = .next (ran i la.toNat [] (s.setStrand s.cur { x with fpctl := v }))) ∧
    (rm = 0x002 → v.toNat < 65536 → exec i s = .next (ran i la.toNat [] (s.setStrand s.cur { x with drow := v })))

/-- 13 R310, 11 R257, 14 R338: PATN.SET, PATN.CLR, CSR.SKLD and CSR.SKST complete where their place lies aligned in the own
scratchpad, what is loaded is valid, and no matrix command uses the slot or the skein: the slot or the skein takes the
image loaded, CLR empties the slot's KIND (and is pending while a command may use it), and SKST stores the skein with a fresh
CRC. -/
def Obligations.PatternSkeinComplete : Prop := ∀ (s t : State) (la : BitVec 4) (w : BitVec 2) (n : BitVec 6) (p : BitVec 3)
  (l : List (Nat × List Byte)), plain s = true →
  let x := own s
  let va := (x.ptr p).base
  let image := fun n => ofBytes (gathered l va.toNat n)
  (inScratch va 32 = true → va.toNat % 32 = 0 → (load s.cur .read [(va.toNat, 32)]).gives s l t →
    patInvalid (BitVec.ofNat 256 (image 32)) = false → slotsHeld t s.cur.core s.cur.num = false →
    exec (.patnSet la w p) s = .next (ran (.patnSet la w p) la.toNat [.pat w (BitVec.ofNat 256 (image 32))] t)) ∧
  (let cleared := RegWrite.pat w (BitVec.ofNat 256 ((x.pat.toList.getD w.toNat 0).toNat % 2 ^ 252))
   (slotsHeld s s.cur.core s.cur.num = false → exec (.patnClr la w) s = .next (ran (.patnClr la w) la.toNat [cleared] s)) ∧
   (slotsHeld s s.cur.core s.cur.num = true →
    exec (.patnClr la w) s = .next (stays (.patnClr la w) la.toNat (.held [cleared]) s))) ∧
  (inScratch va 64 = true → va.toNat % 64 = 0 → (load s.cur .read [(va.toNat, 64)]).gives s l t →
    skeinBad (ofRecBytes (gathered l va.toNat 64)) = false → skeinHeld t s.cur.core n.toNat = false →
    let r := ofRecBytes (gathered l va.toNat 64)
    ∃ u, exec (.csrSkld la n p) s = .next u ∧
      (u.strand s.cur).pc = x.pc + 4 ∧ (la = 0 → Table.get 0 (u.core s.cur.core).skeins n.toNat = r ∨ r = 0) ∧
      (la ≠ 0 → (u.strand s.cur).pending = [{ parcels := parcelsOf (.csrSkld la n p), pc := x.pc, left := la.toNat,
                                              dests := [.skein n], state := .done [.skein n r] }])) ∧
  ∀ id, inScratch va 64 = true → va.toNat % 64 = 0 →
    (store s.cur [(va.toNat, recBytes (skeinImage s s.cur n.toNat))]).gives s id t →
    exec (.csrSkst la n p) s = .next (ranOr (.csrSkst la n p) la.toNat id [] t)

/-- 11 R261, R259; 10 R231: SWT, BRK and an encoding that is no instruction take their traps: the saved registers and XIN
are written and PC is XVEC; SWT and BRK resume at the next instruction with imm12 as their address, and
ILLEGAL_INSTRUCTION has its own address. That a trap precise at issue resumes after the instruction is the model's
reading of R259 (log 19). -/
def Obligations.TrapsTaken : Prop := ∀ (s : State) (n : BitVec 12) (w : BitVec 32), plain s = true → canTrap s = true →
  let x := own s
  exec (.trapSwt n) s = .next (trapped { cause := 0x04, addr := n.setWidth 64 } (parcelsOf (.trapSwt n)) (x.pc + 4) s) ∧
  exec (.trapBrk n) s = .next (trapped { cause := 0x05, addr := n.setWidth 64 } (parcelsOf (.trapBrk n)) (x.pc + 4) s) ∧
  exec (.illegalInstruction w) s =
    .next (trapped { cause := 0x01, addr := x.pc } w (nextPc (.illegalInstruction w) s) s)

/-- 11 R261, R262; 10 R236: RET leaves the handler and goes on at XRESUME; where a fault is kept it is taken instead, with
XRESUME unchanged; RETX leaves the handler and runs the instruction at XPC again before it goes on at XRESUME. -/
def Obligations.TrapReturns : Prop := ∀ s : State,
  let x := own s
  x.canIssue = true → x.xin = true →
  (x.faults = [] → exec .trapRet s = .next (cameTo s { x with xin := false, pc := x.xresume })) ∧
  (∀ f fs, x.faults = f :: fs → f.pager = none → f.fault.cause ≠ 0 → x.xvec ≠ 0 →
    exec .trapRet s = .next (cameTo s { x with
      faults := fs, xcause := f.fault.cause, xparcels := f.parcels, xaddr := f.fault.addr, xaux := f.fault.aux, xpc := f.pc
      pc := x.xvec })) ∧
  exec .trapRetx s = .next (cameTo s { x with xin := false, redo := some { pc := x.xpc, resume := x.xresume } })

/-- 11 R261, R264, 10 R230: in a privileged domain HALT halts a core whose only strand it is, and FLUSH, INVD, INVA, RDE
and WRE act on the core's PLB: the entries they name lose V, an entry is read into A, or takes A. -/
def Obligations.PrivilegedComplete : Prop := ∀ (s : State) (d : BitVec 12) (p : BitVec 3) (e : BitVec 6), plain s = true →
  let x := own s
  let c := s.cur.core
  let y := ownCore s
  privileged x.domain = true →
  (let f := plbInvalidate c (fun _ => true) s
   exec .protFlush s = .next (ran .protFlush 0 [] (checkEpoch (f.setCore c { f.core c with flushed := true })))) ∧
  exec (.protInvd d) s = .next (ran (.protInvd d) 0 [] (plbInvalidate c (fun e => e.extractLsb' 113 12 == d) s)) ∧
  exec (.protInva p) s = .next (ran (.protInva p) 0 []
    (plbInvalidate c (fun e => plbCovers e (x.ptr p).base.toNat) s)) ∧
  exec (.protRde e) s = .next (ran (.protRde e) 0 [.a (setBits x.a 0 128 (Table.get 0 y.plb e.toNat).toNat)] s) ∧
  exec (.protWre e) s = .next (ran (.protWre e) 0 []
    (plbUsed c e.toNat (s.setCore c { y with plb := Table.set 0 y.plb e.toNat (plbWritten (x.a.setWidth 128)) }))) ∧
  (s.cur.num ≤ 10 → y.status = .running → y.active = none →
    (∀ n, n ≤ 10 → n ≠ s.cur.num → (s.strand (mkStrand c n)).live = false) →
    ∃ t, exec .trapHalt s = .next t ∧ (t.core c).status = .halted ∧ (t.strand s.cur).state = .stopped ∧
      (t.strand s.cur).pc = x.pc + 4)

/-- 11 R265: in a privileged domain CTXS completes on another strand of its core: STOP leaves a strand that is FREE or
STOPPED as it is, and stops and holds one with nothing pending; SAVE stores the record of a FREE or STOPPED strand; LOAD
brings a record into a FREE strand, stopped and held; GO lets a held strand go on. -/
def Obligations.ContextComplete : Prop := ∀ (s : State) (n : BitVec 4) (p : BitVec 3), plain s = true →
  let x := own s
  let k := mkStrand s.cur.core n.toNat
  let y := s.strand k
  let va := (x.ptr p).base
  privileged x.domain = true → n.toNat ≠ s.cur.num →
  ((y.live = false ∨ y.state = .stopped) → exec (.ctxsStop n) s = .next (ran (.ctxsStop n) 0 [] s)) ∧
  (y.live = true → y.state ≠ .stopped → y.pending = [] → y.redo = none →
    ∃ u, exec (.ctxsStop n) s = .next (ran (.ctxsStop n) 0 [] u) ∧ (u.strand k).state = .stopped ∧
      (u.strand k).held = true ∧ u.strand s.cur = x) ∧
  (va.toNat % 64 = 0 → (y.live = false ∨ y.state = .stopped) →
    ∀ id t, (store s.cur [(va.toNat, strandRecord y)]).gives s id t →
      exec (.ctxsSave n p) s = .next (ranOr (.ctxsSave n p) 0 id [] t)) ∧
  (va.toNat % 64 = 0 → y.live = false → ∀ l t, (load s.cur .read [(va.toNat, 768)]).gives s l t →
    let bs := gathered l va.toNat 768
    recordReserved bs = false → slotsHeld t k.core n.toNat = false →
    exec (.ctxsLoad n p) s = .next (ran (.ctxsLoad n p) 0 []
      (keepStart k (t.setStrand k (ofRecord bs (t.core k.core).domain n.toNat (16 * t.steps) y))))) ∧
  (y.state = .stopped → y.held = true →
    exec (.ctxsGo n) s = .next (ran (.ctxsGo n) 0 [] (recheck k (goOn k s))))

/-- 14 R317–R320, 11 R267, 06 R140: NOP and STAT only advance or report; PAUSE and YIELD complete and keep the strand from
issue until their end is due; START gives the lowest free helper its start and reports its number; END frees the strand;
JOINW waits for a helper that was started and is live, and else goes on as an acquire; BINDH adds a binding. -/
def Obligations.StrandsComplete : Prop := ∀ (s : State), plain s = true →
  let x := own s
  let k := s.cur
  let y := ownCore s
  exec .nopsNop s = .next (ran .nopsNop 0 [] s) ∧ exec (.nopsPause 0) s = .next (ran (.nopsPause 0) 0 [] s) ∧
  (∀ n : BitVec 12, n ≠ 0 → ∃ t, exec (.nopsPause n) s = .next t ∧
    t.strand k = { x with pc := x.pc + 4, paused := true } ∧ k ∉ t.ready ∧
    t.agenda = s.agenda ++ [.event .pauseEnd { strand := k, a := n.toNat }]) ∧
  (∃ t, exec .strnYield s = .next t ∧ t.strand k = { x with pc := x.pc + 4, yielded := true } ∧ k ∉ t.ready ∧
    t.agenda = s.agenda ++ [.event .yieldEnd { strand := k }]) ∧
  (∀ p h, k.num = 0 → x.isFixed = false → badEntry (x.ptr p).base = false → corePerformed s k = true →
    freeHelper s k.core = some h → slotsHeld s k.core h.num = false →
    exec (.strnStart p) s = .next (ran (.strnStart p) 0 [.a (setLane64 x.a 0 (BitVec.ofNat 64 h.num))]
      (acquire k.core (startStrand h
        { pc := (x.ptr p).base, bases := [(x.ptr 0).base, (x.ptr 1).base, (x.ptr 2).base, (x.ptr 3).base]
          stime := x.stime, domain := x.domain, role := .helper, started := true }
        (startTaken k.core s))))) ∧
  ((x.isFixed = false ∨ holdsWords s k = false) → corePerformed s k = true →
    ∃ t, exec .strnEnd s = .next t ∧ (t.strand k).live = false ∧ k ∉ t.ready) ∧
  (∀ h : BitVec 4, k.num = 0 → x.isFixed = false →
    let z := s.strand (mkStrand k.core h.toNat)
    ((z.live && z.started) = false → exec (.strnJoinw h) s = .next (ran (.strnJoinw h) 0 [] (acquire k.core s))) ∧
    ((z.live && z.started) = true → exec (.strnJoinw h) s = .next (waitsOn (.strnJoinw h) (.join h.toNat) s))) ∧
  exec .strnStat s = .next (ran .strnStat 0 [.a (setLane64 x.a 0 (BitVec.ofNat 64
    (strandMask s k.core Strand.live + strandMask s k.core (fun y => y.live && y.isHandler) * 2 ^ 16 +
      k.num * 2 ^ 32)))] s) ∧
  (∀ t p, let e := (x.ptr p).base
    let q := (x.ptr p).count.toNat
    e ≠ 0 → badEntry e = false → 1 ≤ q → q ≤ 64 → (∀ b ∈ y.bindings, b.tag ≠ t) → y.bindings.length < 32 →
    exec (.strnBindh t p) s = .next (ran (.strnBindh t p) 0 [] (s.setCore k.core { y with bindings := y.bindings ++
      [{ tag := t, kind := 1, chan := 0, quota := q, domain := x.domain, entry := e }] })))

/-- 14 R323–R326, 06 R153: MSG completes: SEND gives the packet to the network, POP takes the oldest packet of a channel
into A as an acquire, PEEK reports the head, BINDC binds a tag to a channel, UNBIND removes a binding no packet or handler
uses, and QUOTA sets a binding's quota. -/
def Obligations.MessagesComplete : Prop := ∀ (s : State) (la : BitVec 4) (t : BitVec 8) (p c : BitVec 3), plain s = true →
  let x := own s
  let k := s.cur
  let y := ownCore s
  let q := (x.ptr p).count.toNat
  let bound := fun (l : List Binding) => s.setCore k.core { y with bindings := l }
  (∀ n : BitVec 5, let r := (x.ptr p).base
    x.isFixed = false → route s (privileged x.domain) r ≠ .invalid → route s (privileged x.domain) r ≠ .priv →
    sendFull s k = false → corePerformed s k = true →
    exec (.msgSend la n p) s = .next (ran (.msgSend la n p) la.toNat [] (sendPacket s
      { id := 0, route := r, time := x.stime, source := strandSource s k
        payload := (stripBytes x.a).take (8 * n.toNat), sender := some k
        domain := x.domain, trusted := privileged x.domain }))) ∧
  (∀ h l, x.isFixed = false → channelOf y c.toNat = h :: l → h.bad = [] →
    exec (.msgPop la c) s = .next (ran (.msgPop la c) la.toNat [.a (ofStripBytes h.payload)]
      (acquire k.core (s.setCore k.core (Core.freeClosed { y with mailbox := y.mailbox.filter fun o => o.id != h.id }))))) ∧
  (x.isFixed = false → channelOf y c.toNat = [] →
    exec (.msgPeek la c) s = .next (ran (.msgPeek la c) la.toNat [.a (setLanesFrom x.a 0 [0, 0, 0])] s)) ∧
  (∀ h l, x.isFixed = false → channelOf y c.toNat = h :: l →
    exec (.msgPeek la c) s = .next (ran (.msgPeek la c) la.toNat [.a (setLanesFrom x.a 0
      [h.source.setWidth 64, h.time, BitVec.ofNat 64 (2 ^ 16 + h.payload.length * 256 + h.pair.2.toNat)])] s)) ∧
  (1 ≤ q → q ≤ 64 → (∀ b ∈ y.bindings, b.tag ≠ t) → y.bindings.length < 32 →
    exec (.msgBindc la c t p) s = .next (ran (.msgBindc la c t p) la.toNat [] (bound (y.bindings ++
      [{ tag := t, kind := 2, chan := c, quota := q, domain := x.domain, entry := 0 }])))) ∧
  ((∃ b ∈ y.bindings, b.tag = t) → (∀ m ∈ y.mailbox, m.pair.2 ≠ t) → handlerLive s k.core t = false →
    exec (.msgUnbind la t) s = .next (ran (.msgUnbind la t) la.toNat [] (bound (y.bindings.filter fun b => b.tag != t)))) ∧
  ((∃ b ∈ y.bindings, b.tag = t) → 1 ≤ q → q ≤ 64 →
    exec (.msgQuota la t p) s = .next (ran (.msgQuota la t p) la.toNat []
      (bound (y.bindings.map fun b => if b.tag == t then { b with quota := q } else b))))

/-- 14 R321, 06 R155–R157: out of fixed mode SYNC completes on an object of the strand's own domain that is in no palette:
arrivals and signals take effect, a wait whose condition holds goes on as an acquire and else the strand waits on the
object, CREAD reads the counter and CSET writes it. -/
def Obligations.SyncComplete : Prop := ∀ (s : State) (p : BitVec 3) (d : BitVec 1), plain s = true →
  let x := own s
  let k := s.cur
  let id := (x.ptr p).base.toNat
  let w := (x.ptr p).count
  let q := d == 1
  let free := fun (kind : ObjKind) => id < 65536 ∧ objCause s kind id x.domain = none ∧
    inPalette s (kind == .barrier) id = false
  x.isFixed = false →
  (free .barrier → corePerformed s k = true → overruns (barrierOf s id) q = false →
    let t := arriveBarrier id q none 0 s
    exec (.syncArrive d p) s = .next (ran (.syncArrive d p) 0 [] t) ∧
    exec (.syncArrwt d p) s = .next (if (barrierOf t id).phase != q then ran (.syncArrwt d p) 0 [] (acquire k.core t)
      else waitsOn (.syncArrwt d p) (.barrier id q) t)) ∧
  (free .barrier →
    exec (.syncWait d p) s = .next (if (barrierOf s id).phase != q then ran (.syncWait d p) 0 [] (acquire k.core s)
      else waitsOn (.syncWait d p) (.barrier id q) s)) ∧
  (free .counter → corePerformed s k = true →
    exec (.syncSignal p) s = .next (ran (.syncSignal p) 0 [] (signalCounter id w s)) ∧
    exec (.syncCset p) s = .next (ran (.syncCset p) 0 []
      (counterMoved id none (setCounter id { counterOf s id with value := w } s)))) ∧
  (free .counter →
    exec (.syncCwait p) s = .next (if w.toNat ≤ (counterOf s id).value.toNat
      then ran (.syncCwait p) 0 [] (acquire k.core s) else waitsOn (.syncCwait p) (.counter id w) s) ∧
    exec (.syncCread p) s = .next (ran (.syncCread p) 0
      [.a (setLane64 x.a 0 ((counterOf s id).value.setWidth 64))] s))

/-- 14 R322, 06 R158: out of fixed mode RING completes on a ring of the strand's own domain: AWAIT of a filled slot reports
it as an acquire, RELEASE empties it, POST fills the next where the ring is not full, SLOT reports the next to fill. -/
def Obligations.RingsComplete : Prop := ∀ (s : State) (p : BitVec 3), plain s = true →
  let x := own s
  let k := s.cur
  let id := (x.ptr p).base.toNat
  let r := ringOf s id
  x.isFixed = false → id < 65536 → objCause s .ring id x.domain = none →
  (r.wr ≠ r.rd → exec (.ringAwait p) s = .next (ran (.ringAwait p) 0
    [.a (setLanesFrom x.a 0 [slotAddress k.core r r.rd, r.rd.setWidth 64])] (acquire k.core s))) ∧
  (r.wr ≠ r.rd → corePerformed s k = true →
    exec (.ringRelease p) s = .next (ran (.ringRelease p) 0 [] (setRing id { r with rd := r.rd + 1 } s))) ∧
  ((r.wr - r.rd).toNat ≠ r.slots.toNat → corePerformed s k = true →
    exec (.ringPost p) s = .next (ran (.ringPost p) 0 [] (postRing id s))) ∧
  exec (.ringSlot p) s = .next (ran (.ringSlot p) 0
    [.a (setLanesFrom x.a 0 [slotAddress k.core r r.wr, (r.wr - r.rd).setWidth 64])] s)

/-- 14 R328–R331, R338–R341: COPY and MTRX complete: APPEND sends its claim to the queue's hook once its checks pass, EXPECT
enters a zone into the scoreboard, WAIT is complete where nothing of the strand's is under way, and else pending; SCLAIM takes
the lowest free bit of a claim word or reports that there is none, SREL clears a bit, STAT reports MSTAT (and may clear its
flags), SEAL writes the CRC of A, CONT restarts a stopped unit (06 R160: packets of the core that wait may start), WAIT goes on
when the unit is idle; STA of a whole strip to the command window pushes it, and is pending where the queue is full. -/
def Obligations.EnginesComplete : Prop := ∀ (s : State) (la : BitVec 4) (p : BitVec 3), plain s = true →
  let x := own s
  let k := s.cur
  let c := s.cur.core
  let y := ownCore s
  let va := (x.ptr p).base
  let off := va.toNat - scratchBase
  let claim := fun (v : Nat) => scratchStore c ((toBytes 4 v).zipIdx.map fun b => (off + b.2, b.1)) s
  let w := y.scratch.nat off 4
  (∀ place hdr l leaves t t' u v, va.toNat % 128 = 0 → (hookPlace k .ship va).gives s place t →
    (x.isFixed = true ∨ (bufferCheck k va.toNat place 0 128).gives t () t) →
    (headerBytes k x (va.toNat + 32) 9).gives t hdr t' →
    let base := ofBytes (hdr.take 8)
    let logcap := min (ofBytes (hdr.drop 8)) 16
    let pages := pagesOf base (2 ^ logcap * 64)
    (resolve k .write (pages.map fun a => (a, 1))).gives t' l u → (slotLeaves k pages).gives u leaves v →
    (x.isFixed = true ∨ corePerformed v k = true ∧ ∀ j ∈ v.copyJobs, j.appender ≠ some k) →
    let word := BitVec.ofNat 512 (x.a.toNat % 2 ^ 448)
    let skein := fun (at_ : Nat) => skeinSeen v k (recBits word at_ 6)
    exec (.copyAppend la p) s = .next (launched (.copyAppend la p) la.toNat v.nextId [] (sendHook
      { id := v.nextId, routine := 20, place := place, va := va, h0 := 0, h1 := BitVec.ofNat 64 base
        h3 := BitVec.ofNat 64 logcap, rm := 0, tenant := requestTenant v x.domain, requester := .append k
        acquire := false, carrier := true, stage := 0, domain := x.domain, packet := word, skeinS := skein 24
        skeinD := skein 32, horizon := if x.isFixed then some (horizon v k) else none, leaves := leaves }
      { v with nextId := v.nextId + 1 }))) ∧
  (let n := (x.ptr p).count.toNat
   inScratch va n = true → n ≠ 0 → overlaps y off n = false → y.ranges.length < 16 →
    ∃ t, exec (.copyExpect la p) s = .next t ∧ (t.strand k).pc = x.pc + 4 ∧
      ({ off := off, len := n, zone := true, id := s.nextId, landed := 0, strand := k.num
         armed := decide (la = 0) } : Range) ∈ (t.core c).ranges) ∧
  ((∀ j ∈ s.copyJobs, j.appender ≠ some k) → (∀ h ∈ s.hookReqs, h.requester ≠ .append k) →
    (∀ r ∈ y.ranges, r.zone = true → r.strand ≠ k.num) →
    exec (.copyWait la) s = .next (ran (.copyWait la) la.toNat [] s)) ∧
  (copiesBusy s k s.nextId = true →
    exec (.copyWait la) s = .next (stays (.copyWait la) la.toNat (.copies s.nextId) (copiesAgain k s))) ∧
  (acquired s k = true → inScratch va 4 = true → va.toNat % 4 = 0 → hitsHorizon s c off 4 = false → overlaps y off 4 = false →
    scratchBad y off 4 = false →
    (∀ i, (List.range 32).find? (fun i => !w.testBit i) = some i →
      exec (.mtrxSclaim p) s = .next (ran (.mtrxSclaim p) 0 [.a (setLane64 x.a 0 (BitVec.ofNat 64 i))] (claim (w + 2 ^ i)))) ∧
    ((List.range 32).find? (fun i => !w.testBit i) = none →
      exec (.mtrxSclaim p) s = .next (ran (.mtrxSclaim p) 0 [.a (setLane64 x.a 0 (-1))] s)) ∧
    ∀ b : BitVec 5, exec (.mtrxSrel b p) s = .next (ran (.mtrxSrel b p) 0 []
      (claim (if w.testBit b.toNat then w - 2 ^ b.toNat else w)))) ∧
  (y.stop = false → matrixBusy y = false → exec .mtrxWait s = .next (ran .mtrxWait 0 [] s)) ∧
  (exec (.mtrxStat false) s = .next (ran (.mtrxStat false) 0 [.a (setLane64 x.a 0 (mstat y))] s) ∧
    exec (.mtrxStat true) s = .next (ran (.mtrxStat true) 0 [.a (setLane64 x.a 0 (mstat y))]
      (s.setCore c { y with mflags := 0, mbound := false }))) ∧
  exec .mtrxSeal s = .next (ran .mtrxSeal 0 [.a (setBits x.a 480 32 (crc32 ((stripBytes x.a).take 60)).toNat)] s) ∧
  (∀ d : Bool, exec (.mtrxCont d) s = .next (ran (.mtrxCont d) 0 []
    (if y.stop then
       let u := s.setCore c { y with stop := false, mcause := 0, cmdq := if d then [] else y.cmdq }
       matrixNext c (if d then commandsGone c u else u)
     else s))) ∧
  (∀ o : MemOps, memOk o x (coveredOn o x) = true → pushes o x = true → acquired s k = true →
    let word := BitVec.ofNat 512 x.a.toNat
    (queueFull s c = false →
      exec (.sta o) s = .next (ran (.sta o) o.la.toNat (memBump o x) (matrixPush k word s))) ∧
    (queueFull s c = true →
      exec (.sta o) s = .next (stays (.sta o) o.la.toNat (.pushes (commandOf k word s) (memBump o x)) s.fresh.2)))

/-- 13 R292, R293, R297–R301, R305, R309; 08 R200: SHIP, TICK and LAWO complete once their addresses resolve: a shipped
operation, a law operation on device memory, a fetch and a redeem go out and the instruction completes with the reply; a law
operation on a scratchpad word is served at once where the entries of its laws are had; DROP frees the ticket's entry unless it
is stale; Q reports the ticket's state. TICK runs out of fixed mode; in it DROP of any ticket and Q raise FIXED_PATH (08 R200
before 13 R300; LAWO raises the faults of R309 alone: log 40). The panel counts the line that a request of a hook or a fetch
names. -/
def Obligations.RequestsComplete : Prop := ∀ (s : State) (la : BitVec 4) (p : BitVec 3), plain s = true →
  let x := own s
  let k := s.cur
  let va := (x.ptr p).base
  (∀ (ord rm : BitVec 2) (n : BitVec 8) (place : Place) (t : State), x.isFixed = false → va.toNat % shipAlign n.toNat = 0 →
    (hookPlace k .ship va).gives s place t → let extent := shipExtent n.toNat va.toNat
    (bufferCheck k va.toNat place extent.1 extent.2).gives t () t → acquired t k = true →
    (ord.getLsbD 1 = true → corePerformed t k = true ∧
      ∀ h ∈ t.hookReqs, h.mine k = true → lawRoutine h.routine = true) →
    exec (.ship la ord rm n p) s = .next (launched (.ship la ord rm n p) la.toNat t.nextId [] (sendHook
      { id := t.nextId, routine := n.toNat, place := place, va := va, h0 := lane64 x.a 0, h1 := lane64 x.a 1
        h3 := lane64 x.a 2, rm := rm, tenant := requestTenant t x.domain, requester := .strand k
        acquire := ord.getLsbD 0, carrier := ord != 0, stage := 0, domain := x.domain } { t with nextId := t.nextId + 1 }))) ∧
  (∀ (j : BitVec 4) (sz : BitVec 2) (piece : Piece) (place : Place) (t : State), let n := ticketBytes sz.toNat
    let places := (List.range n).map (placePlus place)
    x.isFixed = false → va.toNat % n = 0 → (resolve k .ticket [(va.toNat, n)]).gives s [piece] t →
    piece.target = .page place → (bufferCheck k va.toNat place 0 n).gives t () t →
    (∀ q ∈ places, ownStore t k q = none) →
    exec (.tickLd la j sz p) s = .next (launched (.tickLd la j sz p) la.toNat t.nextId []
      ((countLine k.core.panel va.toNat place { t with
          nextId := t.nextId + 1
          ticketReqs := t.ticketReqs ++ [{ id := t.nextId, strand := k, lane := j.toNat, bytes := places, size := sz
                                           stack := (ticketHome t k place).1, slice := (ticketHome t k place).2
                                           ticket := 0, off := 0, redeem := false }] }).post
        .ticketFetch { id := t.nextId }))) ∧
  (∀ j : BitVec 4, let v := lane64 x.a j.toNat
    let n := ticketBytes (tkSize v)
    let off := va.toNat - scratchBase
    let y := ownCore s
    x.isFixed = false → tkGood v = true → inScratch va n = true → va.toNat % 32 = 0 →
    hitsHorizon s k.core off n = false → overlaps y off n = false → y.ranges.length < 16 →
    ∃ t, exec (.tickRd la j p) s = .next t ∧ (t.strand k).pc = x.pc + 4 ∧
      (t.strand k).pending = [{ parcels := parcelsOf (.tickRd la j p), pc := x.pc, left := la.toNat
                                dests := destsOf (.tickRd la j p), state := .waiting s.nextId [] }] ∧
      (t.core k.core).ranges = y.ranges ++ [{ off := off, len := n, zone := false, id := s.nextId, landed := 0
                                              strand := k.num }] ∧
      t.agenda = s.agenda ++ [.event .ticketRedeem { id := s.nextId }]) ∧
  (∀ j : BitVec 4, let v := lane64 x.a j.toNat
    (∀ i, (i = .tickDrop la j ∨ i = .tickQ la j) → x.isFixed = true →
      let f : FaultInfo := { cause := 0x36, addr := x.pc }
      (la = 0 → canTrap s = true → exec i s = .next (trapped f (parcelsOf i) (x.pc + 4) s)) ∧
      (la = 0 → canTrap s = false → exec i s = .next (escalated i f.cause s)) ∧
      (la ≠ 0 → exec i s = .next (faultLater i la.toNat f s))) ∧
    (x.isFixed = false → tkStale s v = true → exec (.tickDrop la j) s = .next (ran (.tickDrop la j) la.toNat [] s)) ∧
    (x.isFixed = false → tkStale s v = false → tkDomain v = x.domainId →
      exec (.tickDrop la j) s = .next (ran (.tickDrop la j) la.toNat [] (freeTicket v s))) ∧
    (x.isFixed = false → exec (.tickQ la j) s = .next (ran (.tickQ la j) la.toNat
      [.a (setLane64 x.a 0 (BitVec.ofNat 64 (ticketState s x v)))] s))) ∧
  ∀ (i : Instr) (form : LawForm) (inc : Bool) (piece : Piece) (t : State),
    (i = .lawoRd la inc p ∧ form = .rd ∨ i = .lawoAdd la inc p ∧ form = .add ∨ i = .lawoSet la inc p ∧ form = .set ∨
      i = .lawoSwap la inc p ∧ form = .swap ∨ i = .lawoLaw la inc p ∧ form = .law ∨ i = .lawoChk la inc p ∧ form = .chk) →
    va.toNat % 16 = 0 → (resolve k .law [(va.toNat, 16)]).gives s [piece] t →
    let index := (lane64 x.a 3).toNat % 256
    (∀ place, piece.target = .page place → x.isFixed = false →
      exec i s = .next (launched i la.toNat t.nextId (bump x inc p) (sendHook
        { id := t.nextId, routine := form.routine, place := place, va := va, h0 := lane64 x.a 0
          h1 := BitVec.ofNat 64 (index * 2 ^ 32 + (lane64 x.a 1).toNat % 2 ^ 32)
          h3 := x.stime, rm := 0, tenant := requestTenant t x.domain, requester := .strand k
          acquire := false, stage := 0, domain := x.domain } { t with nextId := t.nextId + 1 }))) ∧
    ∀ c off r w, piece.target = .scratch c off → overlaps (t.core c) off 16 = false → scratchBad (t.core c) off 16 = false →
      let tn := tenantOf t x.domain
      let word := (t.core c).scratch.nat off 16
      (lawFetch k va tn (form.reads (lawWord word).law index)).gives t () w →
      lawOp (unitEntry t c tn) form word (lane64 x.a 0).toNat ((lane64 x.a 1).toNat % 2 ^ 32) index x.stime = .ok r →
      let u := unitCache c tn (if form == .set then index else (lawWord word).law) w
      let v := scratchStore c ((toBytes 16 r.word.image).zipIdx.map fun b => (off + b.2, b.1)) u
      exec i s = .next (ran i la.toNat (lawWrites x.a r.report r.flags ++ bump x inc p)
        (sendCrossings r va (sourceId v.package.pkg.toNat c.panel c.index 15) x.domain v))

/-- 13 R313–R315, 02 R47–R50, 08 R189: CACH, DRAM and FENC complete: PF2 fetches its lines (and its notification follows),
FLUSH, INV, SINV and FLUSHALL act on the core's L1, DRAM reports the outcome of its operation in lane 0, and a fence goes
on once the accesses of its paths are performed. -/
def Obligations.CachesComplete : Prop := ∀ (s : State) (la : BitVec 4) (p : BitVec 3), plain s = true →
  let x := own s
  let k := s.cur
  let c := s.cur.core
  let ptr := x.ptr p
  let v := lane64 x.a 0
  let pf := prefetchLines c.panel (ptr.base.toNat / 128) ptr.count.toNat s
  (pf.1 = false → exec (.cachPf2 la false p) s = .next (ran (.cachPf2 la false p) la.toNat [] pf.2)) ∧
  (x.isFixed = false → objCause s (pf2Kind v) (v.toNat % 65536) x.domain = none →
    inPalette s (v.getLsbD 17) (v.toNat % 65536) = false → pf.1 = false →
    exec (.cachPf2 la true p) s = .next (launched (.cachPf2 la true p) la.toNat pf.2.nextId []
      (({ pf.2 with
          nextId := pf.2.nextId + 1
          prefetches := pf.2.prefetches ++ [{ id := pf.2.nextId, notify := some v, lines := ptr.count.toNat }] } : State).post
        .pf2Notify { id := pf.2.nextId, strand := k }))) ∧
  (x.isFixed = false →
    exec (.cachFlush la p) s = .next (ran (.cachFlush la p) la.toNat [] (flushLines c (inRange ptr) s)) ∧
    exec (.cachInv la p) s = .next (ran (.cachInv la p) la.toNat []
      (dropLines c (inRange ptr) (flushLines c (inRange ptr) s))) ∧
    exec (.cachFlushall la) s = .next (ran (.cachFlushall la) la.toNat [] (flushLines c (fun _ => true) s))) ∧
  exec (.cachSinv la) s = .next (ran (.cachSinv la) la.toNat [] (acquire c s)) ∧
  (∀ (i : Instr) (op : Option Nat → Nat → Nat → Nat → State → Nat × State) (pa : Option Nat) (t : State),
    (i = .dramPromote la p ∧ op = promote ∨ i = .dramPin la p ∧ op = pinRow ∨ i = .dramUnpin la p ∧ op = unpinRow ∨
      i = .dramDemote la p ∧ op = demoteRow) →
    (dramPa k ptr.base).gives s pa t →
    let reports := fun (n : Nat) (u : State) =>
      exec i s = .next (ran i la.toNat [.a (setLane64 x.a 0 (BitVec.ofNat 64 n))] u)
    (pa = none → reports 3 t) ∧
    ∀ a, pa = some a →
      (∀ n, dramCases t a = .error n → reports n t) ∧
      ∀ stack sub row, dramCases t a = .ok (stack, sub, row) →
        let r := op (tenantOf t x.domain) stack sub row t
        reports r.1 r.2) ∧
  ∀ (b : BitVec 5) (m : BitVec 7) (sz : BitVec 2), (m.getLsbD 4 = true → (ownCore s).stop = false) →
    (b = 0 ∧ sz = 0 ∨ pathsPerformed s k m = true ∧ (m.getLsbD 4 = true → busyBefore s k.core (issueMark s k) = false)) →
    exec (.fenc b m sz) s = .next (ran (.fenc b m sz) 0 [] s)

/-- 01 R19–R26: the boot events take effect. BOOT_START before boot runs stages 1–4 up to the flood, or stops at the stage
that fails; a core's first reply counts, late ones have failed; a panel whose cores all have results gets its logical map,
or boot stops where fewer than 196 pass; times without a result stop boot; an image that arrives within 10 ms of
the start of delivery starts its core (at the even address below its entry, which is open: log 16); the firmware's report
completes stage 6 where it comes within 100 ms of the firmware's start; later ones change nothing. -/
def Obligations.BootEvents : Prop := ∀ s : State,
  let e := s.arg
  let b := s.package.boot
  let started := { s with deviceTime := 0, package := { s.package with clockSkew := 0 } }
  (b.phase = .notStarted →
    (∀ stage reason, earlyStages started = .error (stage, reason) →
      exec .bootStart s = .next (bootStop stage reason 0 started)) ∧
    ∀ key, earlyStages started = .ok key →
      let t := withBoot (fun b => { b with
        phase := .discovery, identity := some key, results := [], mapped := [], delivered := [], since := 0 })
        (stageEnter 4 (started.withPackage fun p => { p with regions := [], regionRecord := some (configRecord started) }))
      exec .bootStart s = .next (if Config.flashReadable t.steps 4 then (List.range 12).foldl (fun u p => flood p u) t
        else bootStop 4 8 0 t)) ∧
  (b.phase = .discovery → e.a < 208 → testResult s e.panel e.a = 0 → s.deviceTime < b.since + 2000000 →
    exec .selftestReply s = .next (resultsCheck e.panel (withBoot (fun b => { b with
      results := Table.set 0 b.results (e.panel * 256 + e.a) (if e.ok then 1 else 2) }) s))) ∧
  (b.phase = .discovery → b.mapped.contains e.panel = false → b.since + 2000000 ≤ s.deviceTime →
    ((List.range 208).all fun n => testResult s e.panel n == 0) = false →
    exec .selftestReplyTimeout s = .next (resultsCheck e.panel ((List.range 208).foldl (fun u n =>
      if testResult u e.panel n = 0 then
        withBoot (fun b => { b with results := Table.set 0 b.results (e.panel * 256 + n) 2 }) u
      else u) s))) ∧
  (b.phase = .discovery → b.mapped.contains e.panel = false → allResults s e.panel = true →
    let l := usableCores s e.panel
    (l.length < 196 → exec .logicalMapBuild s = .next (bootStop 4 4 e.panel s)) ∧
    (196 ≤ l.length →
      let t := withBoot (fun b => { b with mapped := b.mapped ++ [e.panel] }) (s.setPanel e.panel { s.panel e.panel with
        coreMap := (l.take 196).zipIdx.foldl (fun t e => Table.set 0 t e.2 (e.1 + 1)) []
        spares := l.drop 196
        lost := [] })
      exec .logicalMapBuild s = .next (if (List.range 12).all (fun p => t.package.boot.mapped.contains p) then deliver t else t))) ∧
  (b.phase = .discovery → ((List.range 208).any fun n => testResult s e.panel n != 0) = false →
    b.since + 10000000 ≤ s.deviceTime → exec .discoveryTimeout s = .next (bootStop 4 5 e.panel s)) ∧
  (b.phase = .delivery → b.delivered.contains e.core = false → 192 ≤ e.core.index → e.core.index < 196 → e.core.panel < 12 →
    (b.since + 10000000 ≤ s.deviceTime → exec .supervisorImageDelivered s = .next s) ∧
    (s.deviceTime < b.since + 10000000 →
    let d := BitVec.ofNat 16 (16 * ((Config.supervisorDomain e.core).val + 1))
    let pair := e.core.panel / 2
    let w := setPaBytes (withBoot (fun b => { b with delivered := b.delivered ++ [e.core] }) s) (Config.imageAddress e.core)
      ((imageBytes s 2).getD [])
    let t := startStrand (mkStrand e.core 0)
      { pc := Config.supervisorEntry e.core &&& ~~~1, bases := [], stime := 0, domain := d, role := .lead }
      (w.setCore e.core { w.core e.core with status := .running, domain := d })
    let u := if panelDelivered t (2 * pair) && panelDelivered t (2 * pair + 1) then
        withBoot (fun b => { b with bootst := b.bootst ||| BitVec.ofNat 32 (2 ^ (16 + pair)) }) t
      else t
    exec .supervisorImageDelivered s = .next (if (List.range 12).all (panelDelivered u) then startFirmware u else u))) ∧
  (b.phase = .delivery → panelDelivered s e.panel = false → b.since + 10000000 ≤ s.deviceTime →
    exec .deliveryTimeout s = .next (bootStop 5 6 e.panel s)) ∧
  (b.phase = .firmware →
    (s.deviceTime < b.since + 100000000 →
      exec .fwReady s = .next (withBoot (fun b => { b with phase := .ready, bootst := b.bootst ||| 1 }) s)) ∧
    (b.since + 100000000 ≤ s.deviceTime → exec .fwReady s = .next s ∧ exec .fwStartTimeout s = .next (bootStop 6 7 0 s)))

/-- 01 R40: with boot stopped and no flash operation in progress (log 47), ERASE, WRITE and READ start one over 4,096 or
RLEN bytes where those lie in the flash, and set error 1 where they do not, and REBOOT starts stage 1 again with the flash as
it is; a reserved command, or one written while busy, sets error 4 and changes nothing else. The operation's end leaves RSTAT
at done with its effect, or the error of a failed ERASE or WRITE. Whether an operation fails and the size of the flash are open
(log 9), and that an operation uses RADDR, RLEN and RBUF as they stand at its end is the model's choice (log 35). -/
def Obligations.RecoveryEvents : Prop := ∀ s : State, bootStopped s = true →
  let e := s.arg
  let b := s.package.boot
  let starts := fun (cmd : Nat) => (withBoot (fun b => { b with rstat := 1, rerr := 0, rcmd := cmd }) s).post
    .recoveryCommandDone { ok := !Config.flashFails s.steps }
  let ends := fun (f : Boot → Boot) => withBoot (fun b => { f b with rstat := 2, rerr := 0, rcmd := 0 }) s
  let errs := fun (code : Nat) => withBoot (fun b => { b with rstat := 3, rerr := BitVec.ofNat 8 code }) s
  let fails := fun (code : Nat) => withBoot (fun b => { b with rstat := 3, rerr := BitVec.ofNat 8 code, rcmd := 0 }) s
  (recoveryBusy s = false →
    exec .rcmdErase s = .next (if b.raddr.toNat + 4096 ≤ Config.flashSize then starts 1 else errs 1) ∧
    exec .rcmdWrite s = .next (if b.raddr.toNat + b.rlen.toNat ≤ Config.flashSize then starts 2 else errs 1) ∧
    exec .rcmdRead s = .next (if b.raddr.toNat + b.rlen.toNat ≤ Config.flashSize then starts 3 else errs 1) ∧
    exec .rcmdReboot s = .next ((s.withPackage fun p => { p with boot := { flash := p.boot.flash } }).post .bootStart {})) ∧
  exec .rcmdInvalid s = .next (errs 4) ∧
  (b.rcmd = 1 → exec .recoveryCommandDone s = .next (if e.ok then
      ends fun y => { y with flash := y.flash.setBytes b.raddr.toNat erasedSector }
    else fails 2)) ∧
  (b.rcmd = 2 → exec .recoveryCommandDone s = .next (if e.ok then
      ends fun y => { y with flash := y.flash.setBytes b.raddr.toNat (y.rbuf.bytes 0 b.rlen.toNat) }
    else fails 3)) ∧
  (b.rcmd = 3 → exec .recoveryCommandDone s = .next
    (ends fun y => { y with rbuf := y.rbuf.setBytes 0 (y.flash.bytes b.raddr.toNat b.rlen.toNat) }))

/-- 01 R18; 05 R122–R128, R137: the limits of the package clamp and release at their thresholds and shut the package down; SRCCLK
takes two frequencies that the panel may change to, and a source settles; PWRCTL takes good fields (VOLT at least the open
value of log 10) and starts its sequence; a trip stops the clock, counts itself, and the sixteenth within 10 µs forces the
slower source; the clock runs again when the supply has risen; a read of PWRSTAT clears DCOUNT. That a trip which meets a hop
ends it on its old source, that trips stay counted, and what a kill in hand makes of the trip are the model's reading of R128
and R137 (log 49). -/
def Obligations.PowerEvents : Prop := ∀ s : State,
  let e := s.arg
  let c := e.core
  let x := s.core c
  let p := s.panel e.panel
  let a := e.v.toNat % 4096
  let b := e.v.toNat / 65536 % 4096
  let w := storeDone e.id s
  (4800000 < e.a → exec .powerLimitClamp s = .next (s.withPackage fun p => { p with powerClamp := true })) ∧
  (e.a < 4560000 → exec .powerLimitRelease s = .next (s.withPackage fun p => { p with powerClamp := false })) ∧
  (100 ≤ e.a → exec .thermalClamp s = .next (s.setPanel e.panel { p with clamped := true })) ∧
  (e.a < 95 → exec .thermalClampRelease s = .next (s.setPanel e.panel { p with clamped := false })) ∧
  (110 ≤ e.a → exec .packageShutdown s = .next (s.withPackage fun p => { p with shutdown := true })) ∧
  (e.v.toNat < 2 ^ 28 → e.v.toNat / 4096 % 16 = 0 → 600 ≤ a → a ≤ 2100 → 600 ≤ b → b ≤ 2100 →
    (a ≠ p.fa.toNat → sourceUsed s e.panel false = false) → (b ≠ p.fb.toNat → sourceUsed s e.panel true = false) →
    let t := w.setPanel e.panel { p with
      fa := BitVec.ofNat 12 a, fb := BitVec.ofNat 12 b
      settlingA := p.settlingA || a != p.fa.toNat, settlingB := p.settlingB || b != p.fb.toNat }
    let u := if a = p.fa.toNat then t else t.post .sourceSettled { panel := e.panel, a := 0 }
    exec .srcclkWrite s = .next (if b = p.fb.toNat then u else u.post .sourceSettled { panel := e.panel, a := 1 })) ∧
  exec .sourceSettled s = .next
    (s.setPanel e.panel (if e.a = 0 then { p with settlingA := false } else { p with settlingB := false })) ∧
  (x.status ≠ .retired → x.forced = false →
    let volt := e.v.toNat / 2 ^ 24 % 256
    let dthr := e.v.toNat / 2 ^ 18 % 64
    let src := e.v.getLsbD 17
    e.v.toNat < 2 ^ 32 → e.v.toNat % 2 ^ 17 = 0 → 20 ≤ volt → volt ≤ 140 → 8 ≤ dthr → dthr ≤ 48 →
    Config.minVolt (sourceFreq (s.panel c.panel) src) ≤ volt →
    exec .pwrctlWrite s = .next (startSequence c (BitVec.ofNat 8 volt) src (w.setCore c { x with
      volt := BitVec.ofNat 8 volt, dthr := BitVec.ofNat 6 dthr, src := src, pwrErr := false, forced := false }))) ∧
  (x.hopping = true → x.srcnow = x.srcTarget →
    exec .pwrSequenceDone s = .next (endSequence c (s.setCore c { x with vnow := x.vTarget }))) ∧
  exec .pwrstatRead s = .next (s.setCore c { x with dcount := 0 }) ∧
  (x.gone = false →
    let trips := (x.trips.filter fun t => s.deviceTime - t ≤ 10000) ++ [s.deviceTime]
    let force := x.forced || decide (16 ≤ trips.length)
    let t := s.setCore c { x with
      stretch := true
      srcTarget := if hopStands (s.panel c.panel) x then x.srcnow else x.srcTarget
      dcount := if x.dcount.toNat < 65535 then x.dcount + 1 else x.dcount
      trips := trips
      forced := force }
    let u := if force then startSequence c x.volt (slowerSource (s.panel c.panel) x.srcnow) t else t
    exec .droopTrip s = .next (killDue c (u.post .droopRecover { core := c }))) ∧
  exec .droopRecover s = .next (s.setCore c { x with stretch := false })

/-- 02 R48, R52–R60, R75–R77; 07 R174: what happens to a stack as a whole. Self-refresh is entered and left with its event, and
what waited is served in order; a region entry with good fields is written, and STATE 0 and 3 start nothing; a swap drains once
its accepted requests are done, and exchanges; a quiesced stack loses its channel; the counters are halved; an extent asked back
is released, or forced; a copy-back that ends hands its slot to the promotion that waits for it; a promotion that ends leaves
its slot CLEAN, or DIRTY where a write waited. -/
def Obligations.StackEvents : Prop := ∀ s : State,
  let e := s.arg
  let x := s.stack e.stack
  let w := e.v.setWidth 32
  let ea := regionEntry s e.a
  let eb := regionEntry s e.b
  let rs := extentRegions s e.a e.b
  let v := Table.get {} x.slots e.a
  (x.refresh = false →
    exec .selfRefreshEnter s = .next (postThermal e.stack 0 (s.setStack e.stack { x with refresh := true }))) ∧
  (x.refresh = true →
    exec .selfRefreshExit s = .next (postThermal e.stack 1 (x.queue.foldl (fun u q => serveQueued q.1 u)
      (s.setStack e.stack { x with refresh := false, queue := [] })))) ∧
  (e.v.toNat < 2 ^ 32 → rgClass w ≠ 3 → rgStack w < 12 → (rgState w = 0 ∨ rgState w = 3) →
    let t := setRegion (storeDone e.id s) e.a w
    exec .regionWrite s = .next (t.withPackage fun p => { p with
      releasing := p.releasing.filter fun q => extentValid t q.1 q.2.1 })) ∧
  (rgValid ea = true → rgValid eb = true → rgState ea = 1 → rgState eb = 1 → rgClass ea = rgClass eb →
    rgStack ea ≠ rgStack eb →
    let a := entryMedia ea
    let b := entryMedia eb
    (requestsIn s a b = false → (s.stack (rgStack ea)).refresh = false → (s.stack (rgStack eb)).refresh = false →
      exec .regionSwapDrain s = .next ((cleanMedia b (cleanMedia a s)).post .regionSwapExchange { a := e.a, b := e.b })) ∧
    ((s.stack (rgStack ea)).refresh = false → (s.stack (rgStack eb)).refresh = false →
      exec .regionSwapExchange s = .next { s with
      dmem := swapTable (0 : Byte) a b (2 ^ 21) s.dmem
      sectors := swapTable 0 a b 65536 s.sectors
      hookReqs := s.hookReqs.map fun r => { r with place := swapPlace a b r.place }
      copyJobs := s.copyJobs.map fun j => { j with statPlace := j.statPlace.map (swapPlace a b) }
      cores := Table.mapValues {} (swapCore a b) s.cores })) ∧
  (x.dead = false → x.retired = none → (∀ r ∈ stackRegions s e.stack, rgState (regionEntry s r) = 3) →
    let t := dropTickets e.stack e.a (poisonLines e.errs (recallWhere (fun q => keyStack (q * 32) == e.stack) s))
    let y := t.stack e.stack
    exec .channelRetireMove s = .next ((stackRegions s e.stack).foldl
      (fun u r => setRegion u r (withRgState (regionEntry u r) 0))
      (t.setStack e.stack { y with
        home := [], slots := [], retired := some e.a, lawCache := y.lawCache.filter fun l => l.1 != e.a }))) ∧
  exec .regionCounterHalve s = .next ((List.range 12).foldl (fun u p => u.setPanel p { u.panel p with
    regionCounts := halveTable (u.panel p).regionCounts, stackCounts := halveTable (u.panel p).stackCounts }) s) ∧
  exec .pageCounterHalve s = .next ((List.range 12).foldl (fun u p => u.setPanel p { u.panel p with
    pageCounts := (u.panel p).pageCounts.map fun q => (q.1, q.2.1 / 2, q.2.2.1 / 2, q.2.2.2 / 2) }) s) ∧
  (rs ≠ [] →
    exec .fabricReleaseRequest s = .next (rs.foldl (fun u r => releaseRegion r (setRegion u r (withRgState (regionEntry u r) 2)))
      (s.withPackage fun p => { p with
        releasing := (p.releasing.filter fun q => q != (e.a, e.b, false)) ++ [(e.a, e.b, false)] })) ∧
    exec .forcedRelease s = .next ((rs.foldl (fun u r =>
        let u := setRegion u r (withRgState (regionEntry u r) 2)
        let m := entryMedia (regionEntry u r)
        dropCopies m (poisonDirty m u)) s).withPackage fun p => { p with
      releasing := (p.releasing.filter fun q => q.1 != e.a || q.2.1 != e.b) ++ [(e.a, e.b, true)] })) ∧
  (∀ f, v.state = .filling → v.next = some f →
    exec .promotionFillDone s = .next ((setSlot e.stack e.a
      { v with row := f, tenant := v.heir, next := none, emptying := false, wrote := false } s).post
      .promotionFillDone { stack := e.stack, a := e.a })) ∧
  (v.state = .filling → v.next = none →
    (v.emptying = false → exec .promotionFillDone s = .next (setSlot e.stack e.a
      { v with state := if v.wrote then .dirty else .clean, wrote := false } s)) ∧
    (v.emptying = true → exec .promotionFillDone s = .next (setSlot e.stack e.a {} s)))

/-- 01 R20, R29–R34, R37, R38: a link that is up and receives an intact flit takes what its kind does: data whose turn it is goes
to its class, every ACK empties the replay buffer and lets the link send, a retry request makes it resend (and retrain at the
eighth failure of one flit in a row; how the retraining ends is open: log 8), a refusal moves the named flit to its hold
queue, and a time flit of the own domain puts device time forward. That the hint stands in the first two payload bytes and the
time in the first eight, and that time goes only forward, is the model's reading (log 17). A hint that has elapsed sends the
held flits again (log 17: once those sent are answered); retraining ends with the link up or down; LINKEN enables and shuts
down links, but not while boot is stopped (R20), and a link that is shut down is held in reset once its replay buffer is empty
or 100 µs have passed, with an error for each sender whose flits are lost. -/
def Obligations.LinkEvents : Prop := ∀ s : State,
  let e := s.arg
  let l := e.link
  let f := e.flit
  let x := s.link l
  let heard := fun (t : State) => markReachable f (onLink l (fun x => (takeAck (flitAck f) x).pump) t)
  (x.status = 0 → flitIntact f = true →
    exec .linkFlitReceive s = .next (heard (receiveFlit l f s)) ∧
    exec .linkIdleFlit s = .next (heard s) ∧
    (let n := if x.failSeq == flitSeq f && x.fails != 0 then x.fails + 1 else 1
     (8 ≤ n → exec .linkRetryRequest s = .next (heard ((linkEvent l 1 (s.setLink l { x with
       status := 1, failSeq := flitSeq f, fails := 0 })).post .linkRetrainDone
         { link := l, ok := (Config.freeValue s.steps).getLsbD 0 }))) ∧
     (n < 8 → exec .linkRetryRequest s = .next (heard (s.setLink l { x with
       failSeq := flitSeq f, fails := n
       wire := x.wire ++ (fromSeq (flitSeq f) x.replay).map fun g => stampFlit g (flitSeq g) (x.rxSeq - 1) (flitRsm g) })))) ∧
    (∀ g, x.replay.find? (fun g => flitSeq g == flitSeq f) = some g →
      let c := flitClass g
      let held := Table.get [] x.hold c
      let moved : Link := { x with
        hold := Table.set [] x.hold c (held ++ [g])
        replay := x.replay.filter fun h => flitSeq h != flitSeq f }
      (held.isEmpty = false → exec .linkRefusal s = .next (heard (s.setLink l moved))) ∧
      (held.isEmpty = true → exec .linkRefusal s = .next (heard ((s.setLink l { moved with
        holdUntil := Table.set 0 x.holdUntil c (s.deviceTime + (ofBytes (f.payload.take 2) * 5 + 11) / 12) }).post
          .holdQueueResend { link := l, a := c })))) ∧
    (flitKind f = 4 → flitSrc f / 128 = s.package.pkg.toNat / 128 →
      s.now.toNat < (BitVec.ofNat 64 (ofBytes (f.payload.take 8))).toNat →
      let u := s.withPackage fun p => { p with
        clockSkew := p.clockSkew + (BitVec.ofNat 64 (ofBytes (f.payload.take 8)) - s.now) }
      exec .timeSyncFlit s = .next (heard u)) ∧
    exec .linkManagementFlit s = .next (heard (s.setLink l { x with management := f.payload }))) ∧
  (let held := Table.get [] x.hold e.a
   x.status = 0 → x.closing = false → held.isEmpty = false → Table.get 0 x.holdUntil e.a ≤ s.deviceTime →
   x.replay.length < 128 → (∀ g ∈ x.replay, flitClass g ≠ e.a) →
    exec .holdQueueResend s = .next (s.setLink l (sendFlits true (held.take x.room) { x with
      hold := Table.set [] x.hold e.a []
      resend := Table.set [] x.resend e.a (held.drop x.room ++ Table.get [] x.resend e.a) }).pump)) ∧
  (x.status = 1 →
    (e.ok = true → exec .linkRetrainDone s = .next (linkEvent l 0 (s.setLink l (Link.pump { x with
      status := 0, fails := 0
      wire := x.wire ++ x.replay.map fun g => stampFlit g (flitSeq g) (x.rxSeq - 1) (flitRsm g) })))) ∧
    (e.ok = false → exec .linkRetrainDone s = .next (reroute l (linkEvent l 2 (s.setLink l { x with status := 2 }))))) ∧
  (bootStopped s = true → exec .linkenWrite s = .next s) ∧
  (e.v.toNat < 2 ^ 18 → bootStopped s = false →
    exec .linkenWrite s = .next ((List.range 18).foldl (fun u n => linkEnable n (e.v.getLsbD n) u)
      (s.withPackage fun p => { p with linken := e.v.setWidth 18 }))) ∧
  (x.closing = true → (x.replay = [] ∨ x.closeFrom + 100000 ≤ s.deviceTime) →
    let t := linkEvent l 3 (s.setLink l { x with status := 3, closing := false, lost := x.lost ++ x.replay, replay := [] })
    exec .linkenClearEffect s = .next (if x.replay.isEmpty then t else loseItems t))

/-- 01 R40–R42; 03 R79; 04 R101, R113; 07 R168, R173; 13 R303: the register events take effect. A register of the control
space is stored, with what follows its write; a page shootdown drops what its range covers, and ends once the accesses
that used the old translation are done; FLUSHEP starts an epoch if none is in progress; LAWINV drops the named law entries
everywhere, and ends; TRMODE takes one of its codes, clears DIVERGED and begins its counts again; a read of SWERR clears
it. That the MSI-X table is written through space 3 of REGISTER_WRITE is presumed (log 36), and that a PGINV base is rounded
down to its page is the model's reading (log 31). -/
def Obligations.RegisterEvents : Prop := ∀ s : State,
  let e := s.arg
  let n := e.v.toNat % 2 ^ 63
  let w := storeDone e.id s
  (∀ r, e.a = 2 → ctlReg e.b = some r → exec .registerWrite s = .next (ctlFollow r (ctlStore r e.v w))) ∧
  (e.a = 0 → hostSizeOk e.b e.c = true → exec .registerWrite s = .next (hostcbWrite e.b e.c e.v w)) ∧
  (e.a = 1 → hostSizeOk e.b e.c = true → bootStopped s = false → exec .registerWrite s = .next (pageWrite e.b e.c e.v w)) ∧
  (e.a = 3 → bootStopped s = false → exec .registerWrite s = .next (msixWrite e.b e.c e.v w)) ∧
  (s.package.pgBusy = false → n % 4 ≠ 3 → n / 4 % 2 ^ 14 = 0 → n < 2 ^ 57 →
    let t := (shootDown (shootRange w e.v) w).withPackage fun p => { p with
      pginv := BitVec.ofNat 64 (2 ^ 63 + n), pgBusy := true }
    let r := shootRange t e.v
    exec .pageShootdown s = .next (t.post .pageShootdownDone { a := r.1, b := r.2, id := t.nextId })) ∧
  (s.package.pgBusy = true → oldAccess s (e.a, e.b) e.id = false →
    exec .pageShootdownDone s = .next ((shootLines (e.a, e.b) s).withPackage fun p => { p with
      pginv := BitVec.ofNat 64 (p.pginv.toNat % 2 ^ 63), pgBusy := false })) ∧
  (n = 1 → s.package.flushBusy = false →
    exec .flushEpochStart s = .next (checkEpoch { w with
      package := { w.package with
        flushBusy := true
        epoch := w.package.gens.foldl (fun t g => Table.set 0 t g.1 g.2.1) [] }
      cores := Table.mapValues {} (fun (x : Core) => { x with flushed := false }) w.cores })) ∧
  (let t := n / 2 ^ 32 % 32
   let a := n % 256
   let b := n / 256 % 256
   s.package.lawBusy = false → a ≤ b → n / 2 ^ 16 % 2 ^ 16 = 0 → n < 2 ^ 37 →
    exec .lawTableShootdown s = .next (({ w with
      package := { w.package with lawinv := BitVec.ofNat 64 (2 ^ 63 + n), lawBusy := true }
      cores := Table.mapValues {} (fun (x : Core) => { x with lawCache := x.lawCache.filter fun l => !lawNamed t a b l.1 }) w.cores
      gstacks := Table.mapValues {} (fun (x : Stack) => { x with
        lawCache := x.lawCache.filter fun l => !lawNamed t a b l.2.1 }) w.gstacks } : State).post .lawShootdownDone
          { v := BitVec.ofNat 64 n })) ∧
  exec .lawShootdownDone s = .next (s.withPackage fun p => { p with
    lawinv := BitVec.ofNat 64 (p.lawinv.toNat % 2 ^ 63), lawBusy := false }) ∧
  ((s.core e.core).status ≠ .retired → e.v.toNat < 3 →
    exec .trmodeWrite s = .next (((traceSettle e.core (w.setCore e.core { w.core e.core with
      trmode := e.v.setWidth 2, diverged := false, trCounts := [], trSince := s.deviceTime })).post
        .dispatch { panel := e.core.panel }).post .handlerStart { core := e.core })) ∧
  exec .swerrRead s = .next (s.setPanel e.panel { s.panel e.panel with swerr := false })

/-- 05 R131, R135; 06 R159: the errors that an ECC check finds are logged and, where they cannot be corrected, spoil their
storage, found at a use or by the patrol; a killed core of a supervised panel is scrubbed, and returns IDLE where its self-test
and its scrub pass, else gives its identity to the spare of the lowest physical index, or is RETIRED where there is none. -/
def Obligations.ErrorEvents : Prop := ∀ s : State,
  let e := s.arg
  let c := e.core
  let x := s.core c
  let p := s.panel c.panel
  let kills := p.kills.filter fun k => k != c
  let lost := p.lost ++ (physOf s c).toList
  (let t := e.errs.foldl (fun u q => let u := logError q u
                                     if q.corrected then u else spoil q u) s
   exec .storageError s = .next t ∧ exec .patrolScrub s = .next t) ∧
  (p.supervised = true → c ∈ p.kills → x.status = .killed →
    exec .killScrub s = .next ((s.setCore c { x with
      scrubbing := true, scrubFailed := false, scratch := [], scratchPoison := [], operand := [], operandPoison := [], tiles := []
      tileBad := [] }).post .scrubDone { core := c, ok := (Config.freeValue s.steps).getLsbD 0 })) ∧
  (x.status = .killed → x.scrubbing = true →
    (e.ok = true → x.scrubFailed = false → exec .scrubDone s = .next
      (redispense c ((s.setPanel c.panel { p with kills := kills }).setCore c (freshCore x)))) ∧
    ((e.ok = false ∨ x.scrubFailed = true) → p.spares = [] → exec .scrubDone s = .next (redispense c
      ((s.setPanel c.panel { p with kills := kills, lost := lost, coreMap := Table.set 0 p.coreMap c.index 0 }).setCore c
        { freshCore x with status := .retired, isSealed := true }))) ∧
    ∀ n ns, (e.ok = false ∨ x.scrubFailed = true) → p.spares = n :: ns → let spare := ns.foldl min n
      exec .scrubDone s = .next (redispense c (withhold c.panel ((s.setPanel c.panel { p with
        kills := kills, lost := lost, spares := p.spares.erase spare
        coreMap := Table.set 0 p.coreMap c.index (spare + 1) }).setCore c (freshCore x)))))

/-- 02 R64, R68, R69, R75; 06 R150; 07 R163; 08 R183, R191; 13 R313; 14 R330; 20 R379: items reach their places. A store whose
DRAM answers is performed at its home, where what a publish sends stamps its sectors; a load through the panel window gets bytes
or the cause, after the strand's earlier landings of its bytes; a landing of a strand, a copy packet or a ticket lands where the
target takes it (of a fixed-mode appender's packet the part that finds armed zones: reason FIXED for the rest), is refused while
its range is parked or the target is QUIET, and is answered with the cause where the target is gone or foreign; an allowed
request joins its hook's queue, and once its owners have answered its routine runs; what was refused is sent again; and a
prefetch that ends signals its counter or arrives at its barrier, if it names one. -/
def Obligations.ItemEvents : Prop := ∀ s : State,
  let e := s.arg
  (∀ r, findId StoreReq.id s.stores e.id = some r → storeBehind s r = false → storeWaits s r = none →
    let t := writePlaces (if r.path = 0 && !(s.core r.core).gone then some (r.core, r.va) else none) r.bytes r.poison s
    let stamped := match r.stamp with
      | some (obj, gen) => stampSectors obj gen ((((devBytes r.bytes).map Prod.fst).map fun q => q / 32).dedup) t
      | none => t
    let u := { stamped with stores := dropId StoreReq.id stamped.stores e.id }
    exec .homeAccess s = .next (if r.path = 5 then packetMoved r.strand u else replyDone r.strand r.reply u)) ∧
  (∀ r, findId PanelRead.id s.panelReads e.id = some r → r.reply = none →
    let x := s.core r.target
    (∀ c, windowCause x (s.strand r.strand).domain = some c →
      exec .panelWindowRead s = .next { s with
        panelReads := putId PanelRead.id s.panelReads { r with reply := some (.error (BitVec.ofNat 8 c)) } }) ∧
    (windowCause x (s.strand r.strand).domain = none → inZone x r.off r.size = false → readBehind s r = false →
      exec .panelWindowRead s = .next { s with
        panelReads := putId PanelRead.id s.panelReads { r with
          reply := some (.ok (x.scratch.bytes r.off r.size))
          poison := x.scratchPoison.filter fun q => q * 32 < r.off + r.size && r.off < q * 32 + 32 } })) ∧
  (∀ l, s.landings.find? (fun l => l.id == e.id && l.target == e.core && l.off == e.a) = some l →
    let x := s.core e.core
    let parked := x.parkedZones.any fun z =>
      z.1 == l.domain && l.bytes.any fun b => z.2.2.off ≤ b.1 && b.1 < z.2.2.off + z.2.2.len
    let lands := fun (bytes : List (Nat × Byte)) =>
      let t := landBytes e.core bytes (l.poison.filter fun o => bytes.any fun b => b.1 == o) (dropRange l s)
      ({ t with landings := t.landings.erase l } : State)
    (x.gone = false → (parked = true ∨ x.status = .quiet) →
      exec .landingArrive s = .next (s.post .requestRetry { id := e.id, a := e.a })) ∧
    (∀ c, windowCause x l.domain = some c → (x.gone = true ∨ parked = false ∧ x.status ≠ .quiet ∧ landingBehind s l = false) →
      (∀ k, l.sender ≠ .ticket k) → exec .landingArrive s = .next (landingDone l (some c) (dropRange l s))) ∧
    (∀ k, l.sender = .ticket k → x.gone = true →
      exec .landingArrive s = .next (landingDone l (some 0x18) (dropRange l s))) ∧
    (parked = false → x.status ≠ .quiet → windowCause x l.domain = none →
      (∀ k, l.sender = .strand k → l.zonesOnly = false → landingBehind s l = false →
        exec .landingArrive s = .next (replyDone k e.id (lands l.bytes))) ∧
      (∀ id, l.sender = .packet id →
        let good := if l.zonesOnly then l.bytes.filter fun b =>
            x.ranges.any fun r => r.zone && r.armed && r.off ≤ b.1 && b.1 < r.off + r.len
          else l.bytes
        let t := lands good
        exec .landingArrive s = .next (packetMoved id (if good.length < l.bytes.length then packetFails id 5 t else t)))) ∧
    (∀ k, l.sender = .ticket k → l.zonesOnly = false → parked = false → x.status ≠ .quiet → x.gone = false →
      let t := lands l.bytes
      exec .landingArrive s = .next (landingsMoved e.core (complete k e.id [] none (t.setCore e.core { t.core e.core with
        ranges := (t.core e.core).ranges.filter fun r => r.zone || r.id != l.id }))))) ∧
  (∀ r, hookReq s e.id = some r →
    (r.stage = 0 → claimGone s r = false → routineAllowed s r.tenant r.routine = true → hookBehind s r = false →
      let home := placeSlice s r.place
      (s.hookReqs.filter fun q => (q.stage == 1 || q.stage == 3) && home.isSome && placeSlice s q.place == home).length < 32 →
      exec .hookRequest s = .next (hookNext (lineStart r.place)
        (setHook { r with stage := 1, arrival := s.nextId } { s with nextId := s.nextId + 1 }))) ∧
    (r.stage = 3 → exec .ownerRecallAck s = .next (s.post (hookEvent r.routine) { id := e.id })) ∧
    (r.stage = 2 → exec .requestRetry s = .next (hookArrive e.id (setHook { r with stage := 0 } s)))) ∧
  (hookReq s e.id = none → ticketReq s e.id = none → (s.stores.any fun r => r.id == e.id) = true →
    exec .requestRetry s = .next (s.post .homeAccess { id := e.id })) ∧
  (∀ r, findId Prefetch.id s.prefetches e.id = some r →
    let t : State := { s with prefetches := dropId Prefetch.id s.prefetches e.id }
    let k := e.strand
    (r.notify = none → exec .pf2Notify s = .next (complete k e.id [] none t)) ∧
    ∀ v, r.notify = some v → let obj := v.toNat % 65536
      (v.getLsbD 17 = false → exec .pf2Notify s = .next (complete k e.id [] none (signalCounter obj 1 t))) ∧
      (v.getLsbD 17 = true → overruns (barrierOf s obj) (v.getLsbD 16) = false →
        exec .pf2Notify s = .next (complete k e.id [] none (arriveBarrier obj (v.getLsbD 16) none 0 t))) ∧
      ∀ p, v.getLsbD 17 = true → overruns (barrierOf s obj) (v.getLsbD 16) = true →
        ((s.strand k).pending.find? fun p => match p.state with | .waiting i _ => i == e.id | _ => false) = some p →
        exec .pf2Notify s = .next (complete k e.id [] (some { cause := 0x24, addr := p.pc }) t))

/-- 13 R298–R301: the ticket events take effect. A fetch takes a free entry of its slice, of the free ones the lowest (the
model's choice: log 53), and its ticket returns; its data binds to the entry when it arrives, after those of its strand's
earlier fetches of the line; a redeem of a filled entry of its own domain frees it and lands its bytes, and one that comes first
waits; a ticket older than its tenant's lifetime is freed. -/
def Obligations.TicketEvents : Prop := ∀ s : State,
  let e := s.arg
  (∀ r i, ticketReq s e.id = some r → r.redeem = false → r.ticket = 0 →
    (List.range 2048).find? (fun i => !(Table.get {} (s.stack r.stack).tickets (r.slice * 2048 + i)).used) = some i →
    let n := r.slice * 2048 + i
    let y := s.strand r.strand
    let entry : TicketEntry :=
      { used := true, gen := (Table.get {} (s.stack r.stack).tickets n).gen, domain := y.domainId, size := r.size
        tenant := ticketTenant s y.domain, since := (s.tenant (ticketTenant s y.domain)).activeFor }
    let v := mkTicket r.stack n entry
    let t := setTicket r.stack n entry s
    exec .ticketFetch s = .next ((complete r.strand e.id [.a (setLane64 y.a r.lane v)] none
      { t with ticketReqs := putId TicketReq.id t.ticketReqs { r with ticket := v } }).post .ticketFillDone { id := e.id })) ∧
  (∀ r, ticketReq s e.id = some r → (∀ p ∈ r.bytes, lineBusy s p = false) → fetchBehind s r = false →
    (∀ key, .dev key ∈ r.bytes → mustWait s key = false) →
    let t := dropTicketReq e.id s
    (tkStale t r.ticket = true → exec .ticketFillDone s = .next t) ∧
    (tkStale t r.ticket = false →
      let t := (r.bytes.head?.toList).foldl (fun u p => match p with | .dev key => homeTouch key false u | _ => u) t
      let old := ticketEntry t r.ticket
      let bad := ((List.range r.bytes.length).filter fun i => placeBad t (r.bytes.getD i .zero)).map fun i => i / 32
      let u := old.waiters.foldl (fun u w => u.post .ticketRedeem { id := w })
        (setTicket (tkStack r.ticket) (tkEntry r.ticket) { old with
          filled := true, bytes := r.bytes.map (placeByte t), poison := bad.dedup, waiters := [] } t)
      exec .ticketFillDone s = .next (if old.tenant < 32 then u.post .ticketOrphan { v := r.ticket } else u))) ∧
  (∀ r, ticketReq s e.id = some r → r.redeem = true → tkStale s r.ticket = false →
    tkDomain r.ticket = (s.strand r.strand).domainId →
    let entry := ticketEntry s r.ticket
    (entry.filled = false → exec .ticketRedeem s = .next (setTicket (tkStack r.ticket) (tkEntry r.ticket)
      { entry with waiters := entry.waiters ++ [e.id] } s)) ∧
    (entry.filled = true →
      let d := (s.strand r.strand).domain
      let l : Landing :=
        { id := e.id, target := r.strand.core, off := r.off
          bytes := entry.bytes.zipIdx.map fun b => (r.off + b.2, b.1)
          poison := ((List.range entry.bytes.length).filter fun i => entry.poison.contains (i / 32)).map fun i => r.off + i
          sender := .ticket r.strand, domain := d, supervisor := supervisory d, zonesOnly := false }
      let t := dropTicketReq e.id (freeTicket r.ticket s)
      exec .ticketRedeem s = .next (({ t with landings := t.landings ++ [l] } : State).post .landingArrive
        { id := e.id, core := r.strand.core, a := r.off }))) ∧
  (let entry := ticketEntry s e.v
   let now := (s.tenant entry.tenant).activeFor
   let age := entry.age + (now - entry.since)
   tkStale s e.v = false → entry.filled = true →
   ((s.tenant entry.tenant).tlife.toNat * 1000 < age → exec .ticketOrphan s = .next (freeTicket e.v s)) ∧
   (age ≤ (s.tenant entry.tenant).tlife.toNat * 1000 →
     exec .ticketOrphan s = .next ((setTicket (tkStack e.v) (tkEntry e.v) { entry with age := age, since := now } s).post
       .ticketOrphan { v := e.v })))

/-- 13 R294: an atomic whose request is at its turn, on a target that is not poisoned, leaves the new value of its table
entry in the target (whose DRAM is not in self-refresh where the write needs it) and replies with the old one, sign-extended, its
status and its flags: ADD wraps, AND, OR, XOR, the signed and unsigned MIN and MAX, ADDSAT with status 6 where it clamps, the
f64 forms with their flags, SWAP, and CAS with status 5 where the value differs. -/
def Obligations.HookAtomicEvents : Prop := ∀ (s : State) (r : HookReq), hookReq s s.arg.id = some r → r.stage = 3 →
  let off := lineOffset r.place
  let old := fun (n : Nat) => ofBytes (((hookLine s r.place).drop off).take n)
  let answers := fun (i : Instr) (n number : Nat) (new : Option Nat) (status flags : Nat) =>
    let out : HookOut :=
      { reply := .done [BitVec.ofNat 64 (ofInt 64 (toSigned (8 * n) (old n))), 0] status flags
        writes := match new with
          | some v => (toBytes n v).zipIdx.map fun b => (off + b.2, b.1)
          | none => [] }
    r.routine = number → hookBad s r.place off n = false → outMustWait s r out = none →
    exec i s = .next (hookFinish r out s)
  let o := old 8
  let h := r.h0.toNat
  let so := toSigned 64 o
  let sh := toSigned 64 h
  let p := old 4
  let g := r.h0.toNat % 2 ^ 32
  let sp := toSigned 32 p
  let sg := toSigned 32 g
  answers .hookAddI64 8 0 (some (ofInt 64 (so + sh))) 0 0 ∧
  answers .hookAndI64 8 1 (some (o &&& h)) 0 0 ∧
  answers .hookOrI64 8 2 (some (o ||| h)) 0 0 ∧
  answers .hookXorI64 8 3 (some (o ^^^ h)) 0 0 ∧
  answers .hookMinI64 8 4 (some (if so ≤ sh then o else h)) 0 0 ∧
  answers .hookMaxI64 8 5 (some (if sh ≤ so then o else h)) 0 0 ∧
  answers .hookMinuI64 8 6 (some (min o h)) 0 0 ∧
  answers .hookMaxuI64 8 7 (some (max o h)) 0 0 ∧
  (intMin 64 ≤ so + sh → so + sh ≤ intMax 64 → answers .hookAddsatI64 8 8 (some (ofInt 64 (so + sh))) 0 0) ∧
  (so + sh < intMin 64 → answers .hookAddsatI64 8 8 (some (ofInt 64 (intMin 64))) 6 0) ∧
  (intMax 64 < so + sh → answers .hookAddsatI64 8 8 (some (ofInt 64 (intMax 64))) 6 0) ∧
  answers .hookAddI32 4 9 (some (ofInt 32 (sp + sg))) 0 0 ∧
  answers .hookMinI32 4 10 (some (if sp ≤ sg then p else g)) 0 0 ∧
  answers .hookMaxI32 4 11 (some (if sg ≤ sp then p else g)) 0 0 ∧
  (let v := laneAdd 4 false .ne o 0 h
   answers .hookFaddRne 8 12 (some v.1) 0 v.2) ∧
  (let v := laneAdd 4 false (modeOf r.rm.toNat 64 0 0) o 0 h
   answers .hookFaddRm 8 13 (some v.1) 0 v.2) ∧
  (let v := laneMin 4 false .ne o 0 h
   answers .hookFmin 8 14 (some v.1) 0 v.2) ∧
  (let v := laneMax 4 false .ne o 0 h
   answers .hookFmax 8 15 (some v.1) 0 v.2) ∧
  answers .hookSwapI64 8 16 (some h) 0 0 ∧
  answers .hookSwapI32 4 17 (some g) 0 0 ∧
  (o = h → answers .hookCasI64 8 18 (some r.h1.toNat) 0 0) ∧
  (o ≠ h → answers .hookCasI64 8 18 none 5 0) ∧
  (p = g → answers .hookCasI32 4 19 (some (r.h1.toNat % 2 ^ 32)) 0 0) ∧
  (p ≠ g → answers .hookCasI32 4 19 none 5 0)

/-- 03 R87, R88; 13 R295, R305–R309; 02 R70–R74: a routine whose request is at its turn, and whose writes need no DRAM in
self-refresh. A claim of an open queue of its tenant that is not full takes the next slot; a publish of a claimed slot sets its
bit and advances PUB past the run; a probe or a find answers from the first entry that holds the key or is empty; a law
operation on an aligned word whose entries can be had and are valid leaves its word, report and crossings; a loadable routine
runs its micro-ops. -/
def Obligations.HookRoutineEvents : Prop := ∀ (s : State) (r : HookReq), hookReq s s.arg.id = some r → r.stage = 3 →
  let line := hookLine s r.place
  let h := headerOf line
  let off := lineOffset r.place
  let runs := fun (i : Instr) (o : HookOut) => outMustWait s r o = none → exec i s = .next (hookFinish r o s)
  (hookBad s r.place 0 44 = false → h.state = 1 → h.tenant = r.tenant →
    (r.routine = 20 → h.claim < h.read + h.cap → h.claim < h.pub + 64 →
      runs .hookQueueClaim
        { reply := .done [BitVec.ofNat 64 h.claim, 0] 0 0
          writes := (toBytes 8 (h.claim + 1)).zipIdx.map fun b => (b.2, b.1) }) ∧
    (let slot := r.h0.toNat
     r.routine = 21 → h.pub ≤ slot → slot < h.claim → h.pend.testBit (slot - h.pub) = false →
      let after := pubLoop 64 (h.pend + 2 ^ (slot - h.pub)) h.pub
      runs .hookQueuePublish
        { reply := .done [BitVec.ofNat 64 after.2, 0] 0 0
          writes := ((toBytes 8 after.2).zipIdx.map fun b => (8 + b.2, b.1)) ++
            (toBytes 8 after.1).zipIdx.map fun b => (24 + b.2, b.1)
          published := after.2 != h.pub })) ∧
  (let key := fun (i : Nat) => ofBytes ((line.drop (16 * i)).take 8)
   ∀ i < 8, r.h0 ≠ 0 → (∀ j < i, key j ≠ r.h0.toNat ∧ key j ≠ 0) → (∀ j ≤ i, hookBad s r.place (16 * j) 16 = false) →
    (key i = r.h0.toNat →
      let o : HookOut :=
        { reply := .done [BitVec.ofNat 64 (ofBytes ((line.drop (16 * i + 8)).take 8)), BitVec.ofNat 64 i] 1 0 }
      (r.routine = 22 → runs .hookHashProbe o) ∧
      (r.routine = 23 → runs .hookHashFind o)) ∧
    (key i = 0 →
      (r.routine = 22 → runs .hookHashProbe
        { reply := .done [r.h1, BitVec.ofNat 64 i] 2 0
          writes := (toBytes 8 r.h0.toNat ++ toBytes 8 r.h1.toNat).zipIdx.map fun b => (16 * i + b.2, b.1) }) ∧
      (r.routine = 23 → runs .hookHashFind
        { reply := .done [0, BitVec.ofNat 64 i] 3 0 }))) ∧
  (∀ (i : Instr) (form : LawForm) (o : LawResult),
    (i = .hookLawRd ∧ form = .rd ∨ i = .hookLawAdd ∧ form = .add ∨ i = .hookLawSet ∧ form = .set ∨
      i = .hookLawSwap ∧ form = .swap ∨ i = .hookLawLaw ∧ form = .law ∨ i = .hookLawChk ∧ form = .chk) →
    r.routine = form.routine → off % 16 = 0 → hookBad s r.place off 16 = false →
    let word := ofBytes ((line.drop off).take 16)
    let index := r.h1.toNat / 2 ^ 32 % 256
    lawOp (hookLawEntry s r) form word r.h0.toNat (r.h1.toNat % 2 ^ 32) index r.h3 = .ok o →
    let used := if form == .set then index else (lawWord word).law
    let out : HookOut :=
      { reply := .done (o.report.getD []) 0 o.flags
        writes := (toBytes 16 o.word.image).zipIdx.map fun b => (off + b.2, b.1)
        packets := o.events.map fun (e : W64 × Nat × Nat × Nat) =>
          (o.route, e.1, layout 16 [(0, 8, r.va.toNat), (8, 4, e.2.1), (12, 1, e.2.2.1), (13, 1, e.2.2.2)])
        entry := (hookLawEntry s r used).map fun e => (used, e) }
    ∀ keys, lawReach s r (hookReads s r) = .ready keys → outMustWait (lawTouch keys s) r out = none →
      exec i s = .next (hookFinish r out (lawTouch keys s))) ∧
  (48 ≤ r.routine → runs .hookLoadableRoutine
    (microRun s r (Table.get (0, []) s.package.routines r.routine).2 17 0
      { h := [r.h0, r.h1, BitVec.ofNat 64 off, r.h3], line := line }))

/-- 01 R20; 03 R83–R85, R95: what the host does takes effect. That SHIPVAL reads zero after routine 26, and that a read through
a window is answered while an earlier write of the host is still on its way, are the model's choices (03 R85, R83: log 56), as
is what happens to a host access that cannot be had (log 47). A read of a window's place answers with its bytes, and one of a
register with its value; a write of a window's place goes out as a store that registers no owner; SHIPGO of a present tenant
that is not busy makes it busy and takes its operands, and the request is sent once the host's earlier writes are performed; a
hook's reply stands in SHIPREP and SHIPVAL; a write of EVCONS makes room in the tenant's ring; and a write of either register
while boot is stopped does nothing. -/
def Obligations.HostEvents : Prop := ∀ s : State,
  let e := s.arg
  let t := e.tenant
  let x := s.tenant t
  (∀ va l u, bootStopped s = false → windowVa x e.a e.b = some va →
    (e.c = 0 → hostPlaces (tenantDomain s t) .read (cutLines (e.b / 128 + 2) va e.b) s = (.ok l, u) →
      let v := l.foldl (fun u q => match q.1 with | .dev key => homeTouch key false u | _ => u) u
      exec .hostWindowRead s = .next (v.withPackage fun p => { p with
        hostReads := p.hostReads ++ [(e.id, l.flatMap fun q => placeRead v q.1 q.2,
          l.any fun q => (List.range q.2).any fun i => placeBad v (q.1.plus i))] })) ∧
    ((s.stores.any fun r => r.path == 7) = false →
      hostPlaces (tenantDomain s t) .write (cutLines (e.b / 128 + 2) va e.b) s = (.ok l, u) →
      exec .hostWindowWrite s = .next (({ u with
        nextId := u.nextId + 1
        stores := u.stores ++ [{ id := u.nextId, core := 0, strand := t, path := 7, va := va
                                 bytes := (l.flatMap fun q => (List.range q.2).map fun i => q.1.plus i).zip
                                   (toBytes e.b e.v.toNat) }] } : State).post .homeAccess { id := u.nextId }))) ∧
  (e.c ≠ 0 → hostSizeOk e.a e.b = true → exec .hostWindowRead s = .next (s.withPackage fun p => { p with
    hostReads := p.hostReads ++ [(e.id, toBytes e.b (hostRegRead s (e.c - 1) e.a e.b).toNat, false)] })) ∧
  (bootStopped s = false → x.present = true → shipBusy x = false → e.b = 0 →
    exec .shipgo s = .next ((s.setTenant t { x with
      shipRep := BitVec.ofNat 64 (2 ^ 61), shipArgs := [x.shipAddr, x.shipOp0, x.shipOp1, x.shipOp2] }).post .shipgo
        { tenant := t, v := e.v, b := 1 })) ∧
  (let n := e.v.toNat % 256
   ∀ addr h0 h1 h3 p u, bootStopped s = false → x.present = true → e.b = 1 → e.v.toNat < 2 ^ 10 → (e.v.toNat / 256 = 0 ∨ n = 13) →
    (s.stores.any fun r => r.path == 7) = false → x.shipArgs = [addr, h0, h1, h3] → addr.toNat % hostAlign n = 0 →
    find 0 (tenantDomain s t) (if 24 ≤ n ∧ n ≤ 29 then .law else .ship) addr.toNat s = (.place p, u) →
    exec .shipgo s = .next (sendHook
      { id := u.nextId, routine := n, place := p, va := addr, h0 := h0, h1 := h1, h3 := h3, domain := tenantDomain s t
        rm := e.v.extractLsb' 8 2, tenant := t, requester := .host t, acquire := false, stage := 0 }
      (({ u with nextId := u.nextId + 1 } : State).setTenant t { u.tenant t with shipId := u.nextId }))) ∧
  (∀ r o, hookReq s e.id = some r → r.requester = .host o → x.shipId = e.id →
    (∀ vals status flags, r.reply = some (.done vals status flags) →
      exec .hostShipReply s = .next ((dropHook e.id s).setTenant t { x with
        shipRep := shipReport 1 0 0 status flags, shipVals := shipValues r vals })) ∧
    (∀ c, r.reply = some (.error c) → exec .hostShipReply s = .next ((dropHook e.id s).setTenant t { x with
      shipRep := shipReport 3 0 c.toNat 0 0, shipVals := [] })) ∧
    ∀ hint, r.reply = some (.refused hint) → exec .hostShipReply s = .next ((dropHook e.id s).setTenant t { x with
      shipRep := shipReport 2 hint.toNat 0 0 0, shipVals := [] })) ∧
  (bootStopped s = false → x.present = true →
    exec .evconsWrite s = .next (ringResume t (s.setTenant t { x with evCons := e.v }))) ∧
  (bootStopped s = true → exec .shipgo s = .next s ∧ exec .evconsWrite s = .next s)

/-- 02 R73; 03 R97–R99: a valid request of the management mailbox is carried out. TENANT_CREATE of an absent tenant whose
windows, declarations, domain and objects can all be had installs them and replies with the domain; TENANT_DESTROY of one that
is present discards what is its (neither leaves a copy of the law entries: 13 R303); QUEUE_CREATE writes the header, and
QUEUE_DESTROY drains the queue; ROUTINE_LOAD installs at once a routine that no hook runs, and a replacement follows its last
request; ATTEST signs the report; and an invalid request is answered with the offset of its field. Who receives RECORD_CRC and
RECORD_FORMAT, their record address 0x20000 and the answer to a request whose CRC fails are the model's choices (03 R90, R98: log
56), as is the firmware as their SOURCE (log 12) and where a new law table is placed (log 18). -/
def Obligations.MailboxEvents : Prop := ∀ s : State,
  let f := mailField s
  let t := f 2 1
  let n := f 3 1
  let x := s.tenant t
  let valid := fun (cmd : Nat) => s.package.doorbell = true ∧ bootStopped s = false ∧ mailProblem s = none ∧ f 0 2 = cmd
  (∀ windows bs decls id base u ids, valid 1 → x.present = false → readWindows s (f 32 8) (f 40 1) = some windows →
    declBytes s = .ok bs → let a := declCount s
    readDecls a bs = some decls → chooseDomain a = some id → lawPlace a t = some base →
    let g := Table.get (0, 0) a.package.gens id
    let dom := BitVec.ofNat 16 (id * 16 + (g.1 + 1).toNat)
    let fresh := a.setTenant t (newTenant a dom windows base)
    g.1 + 1 ≠ g.2 →
    installDecls t (BitVec.ofNat 12 id) (declsOrdered decls)
      (dropLaws t 0 255 (setPaBytes fresh (lawEntryPa fresh t 0) (List.replicate 8192 0)), []) = some (u, ids) →
    let field := fun (q : Nat × Nat) => mailField a 8 8 + q.1 + 10
    (∀ q ∈ ids, serviceHeld 0 (field q) (toBytes 2 q.2) a = false) →
    let v := ids.foldl (fun u q => serviceStore 0 (field q) (toBytes 2 q.2) (fun _ => false) u) u
    let w := v.withPackage fun p => { p with gens := Table.set (0, 0) p.gens id (g.1 + 1, g.2) }
    exec .tenantCreate s = .next (mailReply 0 0 [(4, 2, dom.toNat)] ((List.range 12).foldl (fun w p => w.setPanel p { w.panel p with
      tweight := Table.set 1 (w.panel p).tweight t (BitVec.ofNat 4 (mailField w 24 1))
      tdivto := Table.set 1000 (w.panel p).tdivto t (BitVec.ofNat 16 (mailField w 26 2)) }) w))) ∧
  (valid 2 → x.present = true → x.queues.any (closeHeld s t) = false →
    let a := x.queues.foldl (fun u q => unbindQueue t q.1 (closeHeader t q u)) s
    let b := { a with
      panels := Table.mapValues {} (fun (p : Panel) => { p with
        redispense := p.redispense.filter fun q => q.2.tenant != t
        chosen := p.chosen.filter fun q => q.2.tenant != t }) a.panels
      copyJobs := discardJobs t a.copyJobs }
    let g := b.cores.foldl (fun u q => clearCore t (tenantDomain s t) q.1 u) b
    let h := { g with
      panels := Table.mapValues {} (fun (p : Panel) => { p with
        suspended := p.suspended.filter fun q => q.2.2.tenant != t }) g.panels }
    let runs := h.cores.any fun q => q.2.active.any fun m => m.domain == tenantDomain s t
    (runs = true → exec .tenantDestroy s = .next (h.post .tenantDestroy {})) ∧
    (runs = false →
      let c := (List.range 12).foldl (fun u k => clearStack t k u) h
      exec .tenantDestroy s = .next (mailReply 0 0 []
        ((dropLaws t 0 255 (clearObjects (BitVec.ofNat 12 (domId (tenantDomain s t))) c)).setTenant t {})))) ∧
  (let slot := (List.range 128).find? fun i => !(Table.get 0 (s.panel (f 4 1)).qbind i).getLsbD 54
   ∀ p u, valid 3 → x.present = true → (x.queues.any fun q => q.1 == n) = false → (f 6 1 = 0 → slot.isSome = true) →
    find (f 4 1) serviceDomain .write (f 8 8) s = (.place p, u) →
    let bs := (newHeader t (f 5 1) (f 16 8)).zipIdx.map fun b => (b.2, b.1)
    headerWaits u p bs = false →
    let v := hookWrite p bs u
    let w := v.setTenant t { v.tenant t with
      queues := Table.set noQueue (v.tenant t).queues n { header := f 8 8, panel := f 4 1, consumer := f 6 1 } }
    let q := w.panel (f 4 1)
    let bound := BitVec.ofNat 64 (t * 2 ^ 59 + n * 2 ^ 55 + 2 ^ 54 + f 8 8 / 128 % 2 ^ 50)
    exec .queueCreate s = .next (mailReply 0 0 [] (if f 6 1 = 0 then
        w.setPanel (f 4 1) { q with qbind := Table.set 0 q.qbind (slot.getD 0) bound }
      else w))) ∧
  (∀ m q p h u, valid 4 → x.queues.find? (fun q => q.1 == n) = some (m, q) → headerAt q.panel t q.header s = (.ok (p, h), u) →
    headerWaits u p [(41, 2)] = false →
    let v := if h.state = 1 then headerWrite q.panel q.header p [(41, 2)] u else u
    (h.read < h.pub → exec .queueDestroy s = .next (v.post .queueDestroy {})) ∧
    (h.pub ≤ h.read → exec .queueDestroy s = .next (mailReply 0 0 [] (unbindQueue t n (headerWrite q.panel q.header p [(41, 0)] v))))) ∧
  (let ops := (List.range (f 8 1)).map fun i => BitVec.ofNat 32 (ofBytes (hostBytes s (f 16 8 + 4 * i) 4))
   valid 5 → routineOk ops = true → routineRuns s n = false →
    exec .routineLoad s = .next (mailReply 0 0 [] (s.withPackage fun p => { p with
      routines := Table.set (0, []) p.routines n (BitVec.ofNat 32 (f 4 4), ops)
      routineNext := Table.set (0, []) p.routineNext n (0, []) }))) ∧
  (let a := s.arg.a
   let r := Table.get (0, []) s.package.routineNext a
   r.2 ≠ [] → routineRuns s a = false → exec .routineReplace s = .next (s.withPackage fun p => { p with
      routines := Table.set (0, []) p.routines a r, routineNext := Table.set (0, []) p.routineNext a (0, []) })) ∧
  (∀ key, valid 6 → s.package.boot.identity = some key →
    let body := reportBody s key
    let bs := body ++ padTo 96 (Config.ecdsaSign key (Config.sha384 body) s.steps)
    exec .attest s = .next (mailReply 0 0 [(4, 4, bs.length)] (setHostBytes s (f 52 8) bs))) ∧
  ((recordOk s.package.mailReq = false → s.package.doorbell = true →
    exec .mailboxInvalid s = .next (mailReply 2 0xFFFF []
      (postEvent s none srcFirmware 2 [(24, 8, 0x20000), (32, 1, 3), (33, 1, 0xFF)]))) ∧
   ∀ off, s.package.doorbell = true → mailProblem s = some off → off ≠ 0xFFFF →
    exec .mailboxInvalid s = .next (mailReply 2 off [] (postEvent s (if t < 32 && x.present then some t else none) srcFirmware 3
      [(24, 8, 0x20000), (32, 1, 3), (33, 1, 0xFF), (34, 2, 8 * off)])))

/-- 04 R102–R114; 14 R337: the swift's events take effect. A slot of a queue's window whose record is good becomes a pending
record; readiness is latched; a record passed over ages; a ready record and an eligible core are chosen; the record chosen for
an IDLE core starts as its task, on a core that is cleansed first where it was another tenant's; a task without live strands or
commands completes; an entry of a trace that nothing matched in time diverges, as does one of a reserved kind, and one of kind 0
ends the trace; PATCHST follows its sensors; a bucket refills, and lets a burst go; and the ramp's balance is set once a
microsecond. That TASK_START moves rule 3's pointer and passes over at the start is the model's reading (R104: logs 30, 35), and so
is the firmware as the SOURCE of TRACE_DIVERGE (log 12). -/
def Obligations.SwiftEvents : Prop := ∀ s : State,
  let e := s.arg
  let p := s.panel e.panel
  let c := e.core
  let x := s.core c
  (∀ header pl h u pd v, boundHeader s e.panel e.tenant e.a = some header →
    headerAt e.panel e.tenant header s = (.ok (pl, h), u) → nextReadOf u e.panel e.tenant e.a h.read = h.read →
    let key := e.tenant * 16 + e.a
    let n := max (Table.get 0 (u.panel e.panel).nextRead key) h.read
    n < min h.pub (h.read + 64) →
    find e.panel (tenantDomain u e.tenant) .read ((h.base + n % h.cap * 64) % 2 ^ 64) u = (.place pd, v) →
    let a := v.setPanel e.panel { v.panel e.panel with nextRead := Table.set 0 (v.panel e.panel).nextRead key (n + 1) }
    let w := ofRecBytes (placeRead a pd 64)
    recordOk w = true → recBad a e.tenant w = none →
    let b : State := { a with nextId := a.nextId + 1 }
    exec .swiftReadSlot s = .next (((b.setPanel e.panel { b.panel e.panel with
      records := (b.panel e.panel).records ++ [{ id := a.nextId, tenant := e.tenant, queue := e.a, slot := n, word := w
                                                 ready := false, passedAt := none, agedAt := none }] }).post
      .recordReady { panel := e.panel, id := a.nextId }).post .swiftReadSlot
        { panel := e.panel, tenant := e.tenant, a := e.a })) ∧
  (let signalled := if e.id = 0 then some (e.a, e.v.toNat) else none
   exec .recordReady s = .next (s.panels.foldl (fun u q =>
     let l := q.2.records.map fun r => { r with ready := recReady u signalled r }
     if l == q.2.records then u
     else (u.setPanel q.1 { q.2 with records := l }).post .dispatch { panel := q.1 }) s)) ∧
  (∀ r t, p.records.find? (fun r => r.id == e.id) = some r → r.passedAt = some t → r.agedAt = none →
    t + 100000 ≤ s.deviceTime →
    exec .recordAge s = .next ((s.setPanel e.panel { p with
      records := p.records.map fun q => if q.id == e.id then { q with agedAt := some (t + 100000) } else q }).post
      .dispatch { panel := e.panel })) ∧
  (∀ r d, p.supervised = true → p.redispense = [] →
    chooseRecord p (p.records.filter fun r => r.ready && !(p.chosen.any fun k => k.2.id == r.id) &&
      !(eligibleCores s e.panel r).isEmpty) = some r →
    rotated p.corePtr (eligibleCores s e.panel r) = some d →
    exec .dispatch s = .next (choose e.panel r d s)) ∧
  (∀ k r, (s.panel c.panel).chosen.find? (fun k => k.1 == c) = some (k, r) →
    let dom := tenantDomain s r.tenant
    ((s.panel c.panel).redispense.any fun k => k.2.id == r.id) = false →
    ((s.panel c.panel).records.any fun q => q.id == r.id) = true → mayLaunch s c r = true →
    (tenantOf s dom ≠ coreTenant s c → x.active = none →
      exec .taskStart s = .next ((enterDomain c dom s).post .taskStart { core := c })) ∧
    (tenantOf s dom = coreTenant s c → slotsHeld s c 0 = false → traceHeld s c (taskEntry r) = false →
    let b := passOver r c (s.setPanel c.panel { s.panel c.panel with
      chosen := (s.panel c.panel).chosen.filter fun k => k.1 != c })
    let q := countDispatch (b.panel c.panel) r
    let d := b.setPanel c.panel { q with
      records := q.records.filter fun o => o.id != r.id
      redispense := q.redispense.filter fun k => k.2.id != r.id
      runningTable := (q.runningTable.filter fun k => k.2.id != r.id) ++ [(c, r)] }
    let f := d.setCore c { d.core c with status := .running, tenant := r.tenant, domain := tenantDomain d r.tenant }
    exec .taskStart s = .next (consumeSlot c.panel r.tenant r.queue r.slot (traced c (taskEntry r)
      (startStrand (mkStrand c 0)
        { pc := recEntry r.word
          bases := (List.range 4).map fun j => BitVec.ofNat 64 (recBits r.word (128 + 64 * j) 64)
          stime := BitVec.ofNat 64 (recTime r.word)
          domain := (f.core c).domain
          role := .lead } (acquire c f)))))) ∧
  (∀ r, runningRec s c = some r → x.status = .running → x.stop = false → matrixBusy x = false →
    (coreStrands c).any (taskStrand s) = false →
    let u := if recDonev r.word then
        postEvent (freeEntry c s) (some r.tenant) (srcQueue r.tenant r.queue) 1
          [(24, 1, c.panel), (25, 1, r.queue), (26, 1, c.index), (32, 8, r.slot)]
      else freeEntry c s
    let y := u.core c
    let v := (u.setCore c { y with
      status := if y.status == .running then .idle else y.status
      before := if y.before == .running then .idle else y.before }).post .dispatch { panel := c.panel }
    exec .taskComplete s = .next (if y.mailbox.isEmpty then v else v.post .handlerStart { core := c })) ∧
  (∀ pl u, x.trmode = 2 → x.diverged = false → x.trSince = e.a → tracePlace .read c s = (.place pl, u) →
    let entry := BitVec.ofNat 128 (ofBytes (placeRead u pl 16))
    (traceKind entry = 0 → exec .traceDiverge s = .next (((u.setCore c { u.core c with trmode := 0 }).post .dispatch
      { panel := c.panel }).post .handlerStart { core := c })) ∧
    (traceKind entry ≠ 0 → 3 ≤ traceKind entry ∨
        e.a + (Table.get 1000 (u.panel c.panel).tdivto (traceTenant entry)).toNat * 1000 ≤ u.deviceTime →
      exec .traceDiverge s = .next (postEvent (u.setCore c { u.core c with diverged := true }) (some (traceTenant entry)) srcFirmware
        9 [(24, 1, c.panel), (25, 1, c.index), (32, 16, entry.toNat)]))) ∧
  (let ctl := (Table.get 0 p.patchctl e.a).toNat
   let thr := ctl / 2 % 128
   let budget := ctl / 256
   let hot := ctl % 2 == 1 && thr != 0 &&
     (decide (thr ≤ e.b) || ((Table.get 0 p.patchst e.a).getLsbD 1 && decide (thr < e.b + 3)))
   let spent := ctl % 2 == 1 && budget != 0 && decide (budget < e.c)
   exec .patchStatusChange s = .next ((withhold e.panel (s.setPanel e.panel { p with
     patchst := Table.set 0 p.patchst e.a (BitVec.ofNat 2 (bit hot * 2 + bit spent)) })).post .dispatch { panel := e.panel })) ∧
  (let key := bucketKey e.panel e.a e.tenant
   let b := Table.get (0, 0, 0) s.buckets key
   (waitingJob s e.panel e.a e.tenant = none → exec .tokenBucketCycle s = .next { s with
     buckets := Table.set (0, 0, 0) s.buckets key (min (b.1 + b.2.2) (b.2.1 * 256), b.2) }) ∧
   ∀ j, waitingJob s e.panel e.a e.tenant = some j →
     let r := min (b.1 + b.2.2) (b.2.1 * 256)
     let again := fun (u : State) => u.post .tokenBucketCycle { panel := e.panel, a := e.a, tenant := e.tenant }
     (r < 256 → exec .tokenBucketCycle s = .next (again { s with buckets := Table.set (0, 0, 0) s.buckets key (r, b.2) })) ∧
     (256 ≤ r →
       let u := { s with
         buckets := Table.set (0, 0, 0) s.buckets key (r - 256, b.2)
         copyJobs := putId CopyJob.id s.copyJobs { j with bursts := j.bursts - 1 } }
       let v := if j.bursts = 1 then u.post (packetEvent (recBits j.word 0 8)) { id := j.id } else u
       exec .tokenBucketCycle s = .next (if (waitingJob v e.panel e.a e.tenant).isSome then again v else v))) ∧
  (let cores := (List.range 196).map (mkCore e.panel)
   let dummy := min (p.rampPrev - p.rampdn.toNat - p.rampNow) (idleSlots s e.panel)
   let u := s.setPanel e.panel { p with
     rampPrev := p.rampNow + dummy, rampNow := (cores.map (arrayNext s)).sum, rampDummy := dummy
     rampBalance := min p.rampBalance 0 + ((p.rampNow + dummy : Nat) : Int) + p.rampup.toNat }
   exec .rampMicrosecond s = .next (cores.foldl (fun u d =>
     if (u.core d).arrayLeft == 0 && (u.core d).arrayNow == 0 then u
     else u.setCore d { u.core d with
       arrayLeft := (u.core d).arrayLeft - arrayNext u d, arrayNow := arrayNext u d }) u))

/-- 04 R115–R120; logs 15, 41: CORECMD takes effect where the core's state allows it. NONE only clears ERR; PREEMPT stops every
strand, and the save is written once all have; RESUME restores a good save to an IDLE core without strands; HALT and HALT_QUIET,
which a HALTED core takes too and which times the zones that are armed, stop a core, UNHALT lets it go on; a command that is not
allowed sets ERR; and zones that do not end in time are parked. -/
def Obligations.CoreCommandEvents : Prop := ∀ s : State,
  let e := s.arg
  let c := e.core
  let x := s.core c
  let w := storeDone e.id s
  let accepted := w.setCore c { x with err := false, corecmd := e.v }
  (x.status ≠ .retired →
    exec .corecmdNone s = .next accepted ∧
    exec .corecmdReject s = .next (w.setCore c { x with err := true })) ∧
  (x.status = .idle ∨ x.status = .running →
    (let u := accepted.setCore c { accepted.core c with
       before := x.status, status := .stopping, stopCmd := 1, saveArea := e.v.toNat / 16 * 16, zoneWaitFrom := none }
     exec .corecmdPreempt s = .next (stopCheck c ((coreStrands c).foldl (fun u k => beginStop k false u) (unchoose c u)))) ∧
    (let u := accepted.setCore c { accepted.core c with
       err := false, before := x.status, status := .stopping, stopCmd := 3, zoneWaitFrom := none }
     exec .corecmdHalt s = .next (stopCheck c ((coreStrands c).foldl (fun u k => beginStop k false u) (unchoose c u)))) ∧
    (x.ranges.any Range.zone = false →
     let u := accepted.setCore c { accepted.core c with
       err := false, before := x.status, status := .stopping, stopCmd := 4, zoneWaitFrom := some s.deviceTime }
     exec .corecmdHaltQuiet s = .next
       (stopCheck c ((coreStrands c).foldl (fun u k => beginStop k false u) (unchoose c u)))) ∧
    (x.ranges.any Range.zone = true →
     let u := accepted.setCore c { accepted.core c with
       err := false, before := x.status, status := .stopping, stopCmd := 4, zoneWaitFrom := some s.deviceTime }
     exec .corecmdHaltQuiet s = .next (stopCheck c ((coreStrands c).foldl (fun u k => beginStop k false u)
       ((unchoose c u).post .zoneTimeout { core := c }))))) ∧
  (x.status = .halted →
    let u := accepted.setCore c { accepted.core c with
      err := false, before := x.before, status := .stopping, stopCmd := 4, zoneWaitFrom := some s.deviceTime }
    let v := unchoose c u
    let v := if x.ranges.any Range.zone then v.post .zoneTimeout { core := c } else v
    exec .corecmdHaltQuiet s = .next (stopCheck c ((coreStrands c).foldl (fun u k => beginStop k false u) v))) ∧
  (let zones := (x.parkedZones.filter fun z => z.2.1 == x.saveArea).map fun z => z.2.2
   x.stopCmd = 5 → x.gone = false → x.tileBad = [] → (x.tiles.any fun q => !cellOk q.2) = false →
    serviceHeld c.panel x.saveArea (saveImage s c zones) s = false →
    let u := serviceStore c.panel x.saveArea (saveImage s c zones) (saveBad x) s
    let v := suspend c x.saveArea ((coreStrands c).foldl (fun u k => if (u.strand k).live then freeStrand k u else u) u)
    exec .preemptSaveDone s = .next (((v.setCore c { v.core c with
      status := .idle, before := .idle, stopCmd := 0, cmdq := []
      heldBuffered := ((v.core c).heldBuffered.filter fun q => q.1 != x.saveArea) ++ x.buffered.map fun b => (x.saveArea, b)
      savedRoles := ((v.core c).savedRoles.filter fun q => q.1 != x.saveArea) ++ rolesOf s c x.saveArea
      savedViews := ((v.core c).savedViews.filter fun q => q.1 != x.saveArea) ++ viewsOf s c x.saveArea
      savedPending := ((v.core c).savedPending.filter fun q => q.1 != x.saveArea) ++ lastsOf s c x.saveArea
      savedQueue := ((v.core c).savedQueue.filter fun q => q.1 != x.saveArea) ++ x.cmdq.map fun m => (x.saveArea, m) }).post .dispatch
        { panel := c.panel }).post .handlerStart { core := c })) ∧
  (∀ bs, x.status = .idle → noStrand s c = true → serviceLoad w c.panel (saveAddr e.v) saveSize = .ok bs →
    ofBytes ((bs.drop 0x2FC).take 4) = (crc32 (bs.take 0x2FC ++ bs.drop 0x300)).toNat →
    let area := saveAddr e.v
    let first := ofBytes (bs.take 8)
    let d := BitVec.ofNat 16 (first / 2 ^ 16)
    let a := enterDomain c d (unchoose c (accept c e.v (serviceCount c.panel area saveSize w)))
    let y := restoreCore bs d ((List.range 16384).filter (serviceBad a c.panel (area + 0x3800)))
      ((List.range 8192).filter (serviceBad a c.panel (area + 0x83800))) (a.core c)
    let parked := (y.parkedZones.filter fun z => z.2.1 == area).map fun z => z.2.2
    let b := restoreWords c ((y.heldBuffered.filter fun q => q.1 == area).map Prod.snd)
     <| ({ a with nextId := a.nextId + 16 } : State).setCore c { y with
      tenant := first % 32
      ranges := y.ranges ++ savedZones bs parked a.nextId
      parkedZones := y.parkedZones.filter fun z => z.2.1 != area
      heldBuffered := y.heldBuffered.filter fun q => q.1 != area
      savedRoles := y.savedRoles.filter fun q => q.1 != area
      savedViews := y.savedViews.filter fun q => q.1 != area
      savedPending := y.savedPending.filter fun q => q.1 != area
      savedQueue := y.savedQueue.filter fun q => q.1 != area
      savedTenants := y.savedTenants.erase (first % 32) }
    let f := (coreStrands c).foldl (fun u k => u.setStrand k (savedStrand bs d y area k u)) b
    let cmds := (savedCommands bs).zipIdx.map (savedCommand bs d y area c f)
    let f := { f with nextId := f.nextId + cmds.length }
    let p := f.panel c.panel
    let entry := p.suspended.find? fun q => q.1 == c && q.2.1 == area
    let g := f.setPanel c.panel { p with
      suspended := p.suspended.filter fun q => !(q.1 == c && q.2.1 == area)
      runningTable := p.runningTable ++ (entry.toList.map fun q => (c, q.2.2)) }
    let lead := g.strand (mkStrand c 0)
    let h := g.setCore c { g.core c with
      cmdq := cmds
      status := if entry.isSome || lead.live then .running else .idle
      startWaits := lead.wait == .helperSlot }
    let t := (coreStrands c).foldl (fun u k =>
      if (u.strand k).live && !(ofBytes ((bs.drop (0x300 + 0x300 * k.num + 0x208)).take 8) / 2 ^ 55 % 2 == 1)
      then recheck k (goOn k u) else u) h
    exec .corecmdResume s = .next (((taskCheck c (matrixNext c (commandsGone c t))).post .handlerStart { core := c }).post .dispatch
      { panel := c.panel })) ∧
  (x.status = .halted ∨ x.status = .quiet →
    let u := accepted.setCore c { accepted.core c with status := x.before, before := .idle }
    exec .corecmdUnhalt s = .next (((taskCheck c (matrixNext c ((coreStrands c).foldl (fun u k =>
      let y := u.strand k
      if y.state == .stopped && !y.held then recheck k (goOn k u) else u) u))).post .handlerStart { core := c }).post
        .dispatch { panel := c.panel })) ∧
  (∀ t, x.zoneWaitFrom = some t → t + (s.panel c.panel).zto.toNat * 1000 ≤ s.deviceTime →
    (x.stopCmd = 1 → exec .zoneTimeout s = .next (stopCheck c (s.setCore c { x with
      ranges := x.ranges.filter fun r => !r.zone
      parkedZones := x.parkedZones ++ (x.ranges.filter Range.zone).map fun r => (x.domain, x.saveArea, r) }))) ∧
    (x.stopCmd = 4 → exec .zoneTimeout s = .next (stopCheck c (s.setCore c { x with stopCmd := 6 }))))

/-- 06 R150–R154, R152: packets take their way. At a core that is neither gone nor sealed, a packet of a bound tag and of
its domain is accepted where the reservation rule finds room, and else refused and listed; an answer raises its flag and
lets the next packet of its pair go; a refused packet is sent again; entries of the reservation list expire; and the first
packet whose handler may start starts it on a FREE helper. -/
def Obligations.PacketEvents : Prop := ∀ s : State,
  let e := s.arg
  let y := s.core e.core
  (∀ p c tag b, findId Packet.id s.packets e.id = some p → p.outstanding = true → p.outcome = none →
    route s true p.route = .core c tag →
    let x := s.core c
    let mine := fun (q : BitVec 32 × BitVec 8 × Nat) => q.1 == p.source && q.2.1 == p.pair.2
    x.gone = false → x.isSealed = false → bindingOf x p.pair.2 = some b → (p.domain = b.domain ∨ p.trusted = true) →
    x.status ≠ .quiet →
    (roomFor x b p = true →
      let u := s.setCore c { x with mailbox := x.mailbox ++ [p], reservations := x.reservations.filter fun q => !mine q }
      let v := if b.kind == 2 then wakeAll 0 (c * 8 + b.chan.toNat) (fun _ => true) none u
        else u.post .handlerStart { core := c }
      exec .packetArrival s = .next (({ v with
        packets := putId Packet.id v.packets { p with outcome := some 0 } } : State).post .packetReply { id := p.id })) ∧
    (roomFor x b p = false →
      let u := s.setCore c { x with reservations := listRefused s.deviceTime p x.reservations }
      exec .packetArrival s = .next (answerPacket p 1
        (if x.reservations.isEmpty then u.post .reservationExpire { core := c } else u)))) ∧
  (∀ p o, findId Packet.id s.packets e.id = some p → p.outcome = some o →
    let u := { s with packets := dropId Packet.id s.packets e.id }
    let flag := if o = 2 then Flag.undelivered else if o = 3 then Flag.sealed else 0
    let v := match p.sender with
      | some k => wakeAll 8 k (fun _ => true) none (u.setStrand k { u.strand k with sst := (u.strand k).sst ||| BitVec.ofNat 64 flag })
      | none => u
    (v.packets.find? (fun q => q.pair == p.pair) = none → exec .packetReply s = .next v) ∧
    ∀ q, v.packets.find? (fun q => q.pair == p.pair) = some q →
      exec .packetReply s = .next (packetOut q { v with
        packets := putId Packet.id v.packets { q with outstanding := true } })) ∧
  (∀ p, findId Packet.id s.packets e.id = some p → p.outstanding = true → p.outcome = none →
    exec .packetRetry s = .next (packetOut p s)) ∧
  (let l := y.reservations.filter fun q => decide ((s.deviceTime - q.2.2) * 12 ≤ 65536 * 5)
   let u := s.setCore e.core { y with reservations := l }
   exec .reservationExpire s = .next (if l.isEmpty then u else u.post .reservationExpire { core := e.core })) ∧
  ∀ h p b, freeHelper s e.core = some h → nextHandler s e.core h = some (p, b) → p.bad = [] →
    traceHeld s e.core (handlerEntry s y b p) = false →
    let a := if noStrand s e.core then enterDomain e.core b.domain s else s
    let x := a.core e.core
    let u := a.setCore e.core (Core.freeClosed { x with
      mailbox := x.mailbox.filter fun q => q.id != p.id
      trCounts := if x.trmode == 0 then x.trCounts else countTrace p x.trCounts })
    let v := traced e.core (handlerEntry s y b p) (startStrand h
      { pc := b.entry
        bases := [p.source.setWidth 64, p.time, b.tag.setWidth 64, BitVec.ofNat 64 p.payload.length]
        a := ofStripBytes p.payload
        stime := p.time
        domain := b.domain
        role := .handler b.tag } (acquire e.core u))
    exec .handlerStart s = .next (if (v.core e.core).mailbox.isEmpty then v else v.post .handlerStart { core := e.core })

/-- 05 R125; 06 R145, R146; 07 R175, R176; 10 R233; 11 R267: strands go on. The strands marked at an object wake, those of a
core whose clock stands once it runs; a pause and a yield end; what a strand has pending commits, with what waited for matrix
commands or copies that are done; and a reply of the pager to a parked strand makes it run its access again, take the trap, or
end its task or handler. -/
def Obligations.StrandEvents : Prop := ∀ s : State,
  let e := s.arg
  let k := e.strand
  (let u := s.strands.foldl (fun u q =>
     let x := u.strand q.1
     if x.waits && x.satisfied && x.wait.code q.1 == (e.a, e.b) && !stands (u.core (StrandId.core q.1)) then wakeStrand q.1 u else u) s
   exec .strandWake s = .next (if (u.strands.any fun q => markedAt e.a e.b u q.1) = true then
     u.post .strandWake { a := e.a, b := e.b } else u)) ∧
  exec .pauseEnd s = .next (enlist k (s.setStrand k { s.strand k with paused := false })) ∧
  exec .yieldEnd s = .next (enlist k (s.setStrand k { s.strand k with yielded := false })) ∧
  (let u := settleLasting k (matrixNext k.core s)
   exec .lookaheadCommit s = .next (commit k (if e.a = 1 then endWindows k u else u))) ∧
  ∀ j f, e.party = .strand j → (s.strand j).parked = some f → (s.strand j).wait = .pager →
    (s.strand j).parkedSeq = replySeq e.v →
    let x := s.strand j
    let u := s.setStrand j { x with
      rply := e.v, parked := none, wait := .nothing, satisfied := false
      state := if x.state == .waiting then .ready else x.state
      stoppedFrom := if x.stoppedFrom == .waiting then .ready else x.stoppedFrom }
    (e.v.toNat / 2 ^ 62 = 0 → exec .pagerRetry s = .next (enlist j u)) ∧
    (e.v.toNat / 2 ^ 62 = 1 →
      let r := x.redo.getD { pc := x.pc, resume := x.pc }
      exec .pagerDeliverTrap s = .next (settleStop j (takeTrap j { cause := e.v.extractLsb' 48 8, addr := f.addr } r.pc
        x.waitParcels r.resume (u.setStrand j { u.strand j with redo := none, pc := r.resume })))) ∧
    (2 ≤ e.v.toNat / 2 ^ 62 →
      exec .pagerTerminate s = .next (stopCheck j.core (terminate j (postError j 2 0 f.addr u))))

/-- 14 R327, R332–R336: the edge engines' events take effect. The next slot of a queue whose record is good is accepted and
consumed; a packet of each opcode whose COBJ, STAT, addresses and ranges pass moves its data; and a packet whose writes are
done completes: its status, its signal, and the engine looks at its queues again. -/
def Obligations.CopyEvents : Prop := ∀ s : State,
  let e := s.arg
  (let q := queueAt s e.tenant e.a
   ∀ pl h u p v, q.consumer ≠ 0 → q.parked = none → engineLoad s q < 8 →
    headerAt q.panel e.tenant q.header s = (.ok (pl, h), u) → q.nextSlot < h.pub →
    (h.read = q.nextSlot ∨ slotWaits (copyReadSync e.tenant e.a pl h.read u) pl (toBytes 8 q.nextSlot) = false) →
    let u := copyReadSync e.tenant e.a pl h.read u
    let va := (h.base + q.nextSlot % h.cap * 64) % 2 ^ 64
    engineLine { panel := q.panel, n := q.consumer - 1, own := none, d := tenantDomain u e.tenant } .read va 64 u = (.ok p, v) →
    let v := countLine q.panel va p v
    let w := ofRecBytes (placeRead v p 64)
    recordOk w = true → copyBadField w q.nextSlot = none →
    exec .copySlotRead s = .next (consumeCopy e.tenant e.a (acceptPacket e.tenant e.a q.nextSlot va q w v))) ∧
  (∀ (i : Instr) (plan : CopyJob → State → Except Nat CopyPlan),
    (i = .copyPacketCopy ∧ plan = planCopy ∨ i = .copyPacketCopy2d ∧ plan = plan2d ∨ i = .copyPacketFill ∧ plan = planFill ∨
      i = .copyPacketReduce ∧ plan = planReduce ∨ i = .copyPacketPut ∧ plan = planPut ∨ i = .copyPacketGet ∧ plan = planGet) →
    ∀ j k p src dst u v, findId CopyJob.id s.copyJobs e.id = some j → j.stage = 0 → j.bursts = 0 →
    checkStat (checkCobj s j) s = (.ok k, u) → k.reason = 0 → plan k u = .ok p → planReached u p = true →
    planRuns k p u = (.ok (src, dst), v) → planStops v k p src dst = none →
    runZoned v src.flatten = false →
    exec i s = .next (movePacket k p src dst v)) ∧
  ∀ i j r, findId CopyJob.id s.copyJobs e.id = some i → (i.stage = 2 ∨ i.stage = 3) → packetBusy s e.id = false →
    statusPlaced i s = (some j, r) → completionHeld r j = false →
    let j := completionChecked r j
    let u := signalPacket j (writeStatus j r)
    let v := if j.reason = 0 then u else copyFault j.tenant j.panel j.engine j.reason j.slotAddr u
    let w := { v with copyJobs := dropId CopyJob.id v.copyJobs j.id }
    exec .copyPacketComplete s = .next ((engineQueues w j.panel j.engine).foldl
      (fun u q => u.post .copySlotRead { panel := j.panel, tenant := q.1, a := q.2 }) w)

/-- 14 R344–R348; 09 R213–R215: the matrix unit's events take effect. A command that runs on a core, whose tiles and
operands are good, leaves its result and is done: ZERO a tile of zeros, MOVE a tile or its transpose, MARK its value and
its signal, SCALE and MMA their cells and flags, LOAD and STORE what their bodies leave; MROT copies a slot within its
core, or its landing arrives at a core of the same domain, signals its counter if it has one, and completes the command. -/
def Obligations.MatrixEvents : Prop := ∀ (s : State) (m : Command), let e := s.arg
  let c := e.core
  let x := s.core c
  let u : Unit_ := { c := c, m := m }
  let w := m.word
  let clean := x.tileBad = [] ∧ ∀ q ∈ x.tiles, cellOk q.2 = true
  x.active = some m → x.mparked = none →
  (∀ t, (loadCmd u).run s = (.ok (), t) → cmdOpc w = 1 → exec .matrixLoad s = .next (commandDone c t)) ∧
  (∀ t, (storeCmd u).run s = (.ok (), t) → cmdOpc w = 4 → exec .matrixStore s = .next (commandDone c t)) ∧
  (let k := 32 * cmdKc w
   let p := s.panel c.panel
   let n := arrayCycles (cmdFa w) (cmdFb w) k
   let now := if x.arrayLeft = 0 then min n (coreRate s c - x.arrayNow) else 0
   let t := (s.setPanel c.panel { p with rampBalance := p.rampBalance - n, rampNow := p.rampNow + now }).setCore c
     { x with arrayLeft := x.arrayLeft + (n - now), arrayNow := x.arrayNow + now }
   let a := (List.range 64).map (operandLine x (cmdSa w) (cmdFa w) k)
   let b := (List.range 64).map (operandLine x (cmdSb w) (cmdFb w) k)
   let cell := fun (i j : Nat) => accumulate (cmdKc w) (a.getD i []) (b.getD j [])
     (if cmdOf w 0 then 0 else cellAt x (cmdTd w) i j, 0)
   cmdOpc w = 2 → 1 ≤ p.rampBalance → slotBad x (cmdSa w) (operandBytes (cmdFa w) k) = false →
   slotBad x (cmdSb w) (operandBytes (cmdFb w) k) = false → (cmdOf w 0 = false → clean) →
    exec .matrixMma s = .next (commandDone c (unitFlags c (orFlags (fun q => (cell (q / 64) (q % 64)).2) 4096)
      (tileWrite c (cmdTd w) (fun i j => (cell i j).1) t)))) ∧
  (cmdOpc w = 5 → exec .matrixZero s = .next (commandDone c (tileWrite c (cmdTd w) (fun _ _ => 0) s))) ∧
  (clean → cmdOpc w = 6 → exec .matrixMove s = .next (commandDone c (tileWrite c (cmdTd w)
    (fun i j => if cmdOf w 0 then cellAt x (cmdTs w) j i else cellAt x (cmdTs w) i j) s))) ∧
  (let one : Sys2Proof.Machine.Num := .fin false 1 0
   let cell := fun (i j : Nat) => scaleCell (w34.decode (cellAt x (cmdTs w) i j)) (f32.decode (recBits w 352 32))
     (if cmdOf w 0 then slotF32 x (cmdSa w) i else one) (if cmdOf w 1 then slotF32 x (cmdSb w) j else one)
     (f32.decode (recBits w 320 32))
   clean → cmdOpc w = 7 → (cmdOf w 0 = true → slotBad x (cmdSa w) 256 = false) →
   (cmdOf w 1 = true → slotBad x (cmdSb w) 256 = false) →
    exec .matrixScale s = .next (commandDone c (unitFlags c (orFlags (fun q => (cell (q / 64) (q % 64)).2) 4096)
      (tileWrite c (cmdTd w) (fun i j => (cell i j).1) s)))) ∧
  (let t := s.setCore c { x with markv := BitVec.ofNat 16 (recBits w 208 16) }
   cmdOpc w = 8 → exec .matrixMark s = .next (commandDone c
    (if cmdOf w 0 then signalCounter (cmdSobj w) (BitVec.ofNat 32 (recBits w 352 32)) t else t))) ∧
  (cmdOpc w = 3 → (s.rotations.any fun r => r.fromCore == c) = false →
    let dest := mkCore c.panel (recBits w 48 8)
    let src := slotWhole x (cmdSa w)
    let sg := if cmdOf w 0 then some (cmdSobj w) else none
    (dest = c → exec .matrixMrot s = .next (commandDone c (match sg with
      | some o => signalCounter o 1 (slotWrite c (cmdSb w) src s)
      | none => slotWrite c (cmdSb w) src s))) ∧
    (dest ≠ c → rotationLost s dest m.domain = false →
      exec .matrixMrot s = .next (({ s with
        nextId := s.nextId + 1
        rotations := s.rotations ++ [{ id := s.nextId, fromCore := c, target := dest, slot := cmdSb w
                                       bytes := Memory.setBytes [] 0 (src.map Prod.fst)
                                       poison := (List.range 256).filter fun q => x.operandPoison.contains (cmdSa w * 256 + q)
                                       signal := sg, domain := m.domain }] } : State).post .mrotLanding { id := s.nextId }))) ∧
  ∀ r, findId Rotation.id s.rotations e.id = some r → r.fromCore = c → r.target ≠ c → cmdOpc w = 3 →
    rotationLost s r.target r.domain = false → (s.core r.target).domain = r.domain → (s.core r.target).status ≠ .idle →
    (s.core r.target).status ≠ .quiet →
    let u := slotWrite r.target r.slot ((r.bytes.bytes 0 8192).mapIdx fun i b => (b, r.poison.contains (i / 32)))
      { s with rotations := dropId Rotation.id s.rotations e.id }
    let v := match r.signal with
      | some o => signalCounter o 1 u
      | none => u
    exec .mrotLanding s = .next (commandDone c (stopCheck r.target v))
end

