-- ==== Sys2Proof/Laws/Encode.lean ====
section
/-!
SUPPORT. Encode.lean: what decoding reads back from an encoding: fields, operand fields, words and bytes (10 R223–R229).
RoundTrip of one constructor is: its encoding as the sum of its fields, then these lemmas.
-/
namespace Sys2Proof

/-- A field is what stands in its bits. -/
theorem field_eq {n : Nat} (x : BitVec n) (w lo : Nat) (h : w / 2 ^ lo % 2 ^ n = x.toNat) : field w lo n = x := by
  apply BitVec.eq_of_toNat_eq; simp [field, h]
/-- The same for a field of one bit. -/
theorem flag_eq (b : Bool) (w lo : Nat) (h : w / 2 ^ lo % 2 = bit b) : flag w lo = b := by
  cases b <;> simp_all [flag, bit]
theorem bit_lt (b : Bool) : bit b < 2 := by cases b <;> decide

/-- The operand fields of format H lie in bits [13:5]. -/
theorem encH_fits (o : HOps) : encH o % 2 ^ 5 = 0 ∧ encH o < 2 ^ 14 := by
  have := bit_lt o.ch; have := o.k.isLt; have := o.fmt.isLt; have := bit_lt o.inc; have := o.p.isLt
  simp only [encH, put, putB]; omega
/-- Those of format V lie in bits [20:7]. -/
theorem encLane_fits (o : LaneOps) : encLane o % 2 ^ 7 = 0 ∧ encLane o < 2 ^ 21 := by
  have := bit_lt o.cb; have := bit_lt o.ib; have := bit_lt o.ia
  have := o.k.isLt; have := o.fmt.isLt; have := o.pb.isLt; have := o.pa.isLt
  simp only [encLane, put, putB]; omega
/-- Those of format M lie in bits [20:7] and [31:28]. -/
theorem encMem_fits (o : MemOps) : encMem o % 2 ^ 7 = 0 ∧ encMem o / 2 ^ 21 % 2 ^ 7 = 0 ∧ encMem o < 2 ^ 32 := by
  have := bit_lt o.ip; have := o.la.isLt; have := o.ord.isLt; have := o.sz.isLt
  have := o.k.isLt; have := o.fmt.isLt; have := o.p.isLt
  simp only [encMem, put, putB]; omega
/-- The operand fields are read back from any word that holds them. -/
theorem hOps_eq (o : HOps) (w : Nat) (h : w / 2 ^ 5 % 2 ^ 9 = encH o / 2 ^ 5) : hOps w = o := by
  have := bit_lt o.ch; have := o.k.isLt; have := o.fmt.isLt; have := bit_lt o.inc; have := o.p.isLt
  simp only [encH, put, putB] at h
  simp only [hOps]
  rw [flag_eq o.ch w 13 (by omega), field_eq o.k w 11 (by omega), field_eq o.fmt w 9 (by omega),
    flag_eq o.inc w 8 (by omega), field_eq o.p w 5 (by omega)]
theorem laneOps_eq (o : LaneOps) (w : Nat) (h : w / 2 ^ 7 % 2 ^ 14 = encLane o / 2 ^ 7) : laneOps w = o := by
  have := bit_lt o.cb; have := bit_lt o.ib; have := bit_lt o.ia
  have := o.k.isLt; have := o.fmt.isLt; have := o.pb.isLt; have := o.pa.isLt
  simp only [encLane, put, putB] at h
  simp only [laneOps]
  rw [field_eq o.k w 19 (by omega), field_eq o.fmt w 16 (by omega), flag_eq o.cb w 15 (by omega), flag_eq o.ib w 14 (by omega),
    field_eq o.pb w 11 (by omega), flag_eq o.ia w 10 (by omega), field_eq o.pa w 7 (by omega)]
theorem memOps_eq (o : MemOps) (w : Nat) (h : w / 2 ^ 7 % 2 ^ 14 = encMem o / 2 ^ 7 % 2 ^ 14)
    (h2 : w / 2 ^ 28 = encMem o / 2 ^ 28) : memOps w = o := by
  have := bit_lt o.ip; have := o.la.isLt; have := o.ord.isLt; have := o.sz.isLt
  have := o.k.isLt; have := o.fmt.isLt; have := o.p.isLt
  simp only [encMem, put, putB] at h h2
  simp only [memOps]
  rw [field_eq o.la w 28 (by omega), field_eq o.k w 19 (by omega), field_eq o.fmt w 16 (by omega), field_eq o.ord w 14 (by omega),
    field_eq o.sz w 11 (by omega), flag_eq o.ip w 10 (by omega), field_eq o.p w 7 (by omega)]

/-- A word whose major gives a well-formed instruction decodes to it. -/
theorem decodeWord_of {w : Nat} {i : Instr} (hd : decodeMajor w = some i) (h : i.wf = true) : decodeWord w = .ok i := by
  unfold decodeWord; rw [hd]; simp only [h, if_true]
theorem decodeParcel_of {w : Nat} {i : Instr} (hd : decodeH w = some i) (h : i.wf = true) : decodeParcel w = .ok i := by
  unfold decodeParcel; rw [hd]; simp only [h, if_true]
/-- The bytes of an instruction of 4 bytes decode as its word does, whatever follows. -/
theorem decode_word {i : Instr} (rest : List Byte) (hl : i.len = 4) (h1 : encodeNat i % 2 = 1) (h2 : encodeNat i < 2 ^ 32)
   (h : decodeWord (encodeNat i) = .ok i) : decode (encodeBytes i ++ rest) = .ok (i, i.len) := by
  simp only [encodeBytes, hl, leBytes, List.cons_append, decode, BitVec.toNat_ofNat]
  rw [if_neg (by omega)]
  have : (encodeNat i % 2 ^ 8 + encodeNat i / 256 % 2 ^ 8 * 256 + encodeNat i / 256 / 256 % 2 ^ 8 * 65536 +
    encodeNat i / 256 / 256 / 256 % 2 ^ 8 * 16777216) = encodeNat i := by omega
  rw [this, h]; rfl

end Sys2Proof
end

