-- ==== Sys2Proof/Laws/State.lean ====
section
/-!
SUPPORT. State.lean: what each update of the machine leaves in each field, and in each part that is read by number.
-/
namespace Sys2Proof.Machine

/-! ## setStrand -/

@[simp] theorem State.setStrand_package (s : State) (k : StrandId) (x : Strand) : (s.setStrand k x).package = s.package := rfl
@[simp] theorem State.setStrand_deviceTime (s : State) (k : StrandId) (x : Strand) : (s.setStrand k x).deviceTime = s.deviceTime := rfl
@[simp] theorem State.setStrand_cores (s : State) (k : StrandId) (x : Strand) : (s.setStrand k x).cores = s.cores := rfl
@[simp] theorem State.setStrand_panels (s : State) (k : StrandId) (x : Strand) : (s.setStrand k x).panels = s.panels := rfl
@[simp] theorem State.setStrand_gstacks (s : State) (k : StrandId) (x : Strand) : (s.setStrand k x).gstacks = s.gstacks := rfl
@[simp] theorem State.setStrand_links (s : State) (k : StrandId) (x : Strand) : (s.setStrand k x).links = s.links := rfl
@[simp] theorem State.setStrand_tenants (s : State) (k : StrandId) (x : Strand) : (s.setStrand k x).tenants = s.tenants := rfl
@[simp] theorem State.setStrand_dmem (s : State) (k : StrandId) (x : Strand) : (s.setStrand k x).dmem = s.dmem := rfl
@[simp] theorem State.setStrand_sectors (s : State) (k : StrandId) (x : Strand) : (s.setStrand k x).sectors = s.sectors := rfl
@[simp] theorem State.setStrand_barriers (s : State) (k : StrandId) (x : Strand) : (s.setStrand k x).barriers = s.barriers := rfl
@[simp] theorem State.setStrand_counters (s : State) (k : StrandId) (x : Strand) : (s.setStrand k x).counters = s.counters := rfl
@[simp] theorem State.setStrand_rings (s : State) (k : StrandId) (x : Strand) : (s.setStrand k x).rings = s.rings := rfl
@[simp] theorem State.setStrand_stores (s : State) (k : StrandId) (x : Strand) : (s.setStrand k x).stores = s.stores := rfl
@[simp] theorem State.setStrand_hookReqs (s : State) (k : StrandId) (x : Strand) : (s.setStrand k x).hookReqs = s.hookReqs := rfl
@[simp] theorem State.setStrand_packets (s : State) (k : StrandId) (x : Strand) : (s.setStrand k x).packets = s.packets := rfl
@[simp] theorem State.setStrand_ticketReqs (s : State) (k : StrandId) (x : Strand) : (s.setStrand k x).ticketReqs = s.ticketReqs := rfl
@[simp] theorem State.setStrand_landings (s : State) (k : StrandId) (x : Strand) : (s.setStrand k x).landings = s.landings := rfl
@[simp] theorem State.setStrand_panelReads (s : State) (k : StrandId) (x : Strand) : (s.setStrand k x).panelReads = s.panelReads := rfl
@[simp] theorem State.setStrand_copyJobs (s : State) (k : StrandId) (x : Strand) : (s.setStrand k x).copyJobs = s.copyJobs := rfl
@[simp] theorem State.setStrand_homeReads (s : State) (k : StrandId) (x : Strand) : (s.setStrand k x).homeReads = s.homeReads := rfl
@[simp] theorem State.setStrand_held (s : State) (k : StrandId) (x : Strand) : (s.setStrand k x).held = s.held := rfl
@[simp] theorem State.setStrand_prefetches (s : State) (k : StrandId) (x : Strand) : (s.setStrand k x).prefetches = s.prefetches := rfl
@[simp] theorem State.setStrand_rotations (s : State) (k : StrandId) (x : Strand) : (s.setStrand k x).rotations = s.rotations := rfl
@[simp] theorem State.setStrand_buckets (s : State) (k : StrandId) (x : Strand) : (s.setStrand k x).buckets = s.buckets := rfl
@[simp] theorem State.setStrand_ready (s : State) (k : StrandId) (x : Strand) : (s.setStrand k x).ready = s.ready := rfl
@[simp] theorem State.setStrand_agenda (s : State) (k : StrandId) (x : Strand) : (s.setStrand k x).agenda = s.agenda := rfl
@[simp] theorem State.setStrand_cur (s : State) (k : StrandId) (x : Strand) : (s.setStrand k x).cur = s.cur := rfl
@[simp] theorem State.setStrand_arg (s : State) (k : StrandId) (x : Strand) : (s.setStrand k x).arg = s.arg := rfl
@[simp] theorem State.setStrand_nextId (s : State) (k : StrandId) (x : Strand) : (s.setStrand k x).nextId = s.nextId := rfl
@[simp] theorem State.setStrand_steps (s : State) (k : StrandId) (x : Strand) : (s.setStrand k x).steps = s.steps := rfl
@[simp] theorem State.setStrand_core (s : State) (k : StrandId) (x : Strand) (j : CoreId) : (s.setStrand k x).core j = s.core j := rfl
@[simp] theorem State.setStrand_panel (s : State) (k : StrandId) (x : Strand) (j : Nat) : (s.setStrand k x).panel j = s.panel j := rfl
@[simp] theorem State.setStrand_stack (s : State) (k : StrandId) (x : Strand) (j : Nat) : (s.setStrand k x).stack j = s.stack j := rfl
@[simp] theorem State.setStrand_link (s : State) (k : StrandId) (x : Strand) (j : Nat) : (s.setStrand k x).link j = s.link j := rfl
@[simp] theorem State.setStrand_tenant (s : State) (k : StrandId) (x : Strand) (j : Nat) : (s.setStrand k x).tenant j = s.tenant j := rfl

/-! ## setCore -/

@[simp] theorem State.setCore_package (s : State) (c : CoreId) (x : Core) : (s.setCore c x).package = s.package := rfl
@[simp] theorem State.setCore_deviceTime (s : State) (c : CoreId) (x : Core) : (s.setCore c x).deviceTime = s.deviceTime := rfl
@[simp] theorem State.setCore_strands (s : State) (c : CoreId) (x : Core) : (s.setCore c x).strands = s.strands := rfl
@[simp] theorem State.setCore_panels (s : State) (c : CoreId) (x : Core) : (s.setCore c x).panels = s.panels := rfl
@[simp] theorem State.setCore_gstacks (s : State) (c : CoreId) (x : Core) : (s.setCore c x).gstacks = s.gstacks := rfl
@[simp] theorem State.setCore_links (s : State) (c : CoreId) (x : Core) : (s.setCore c x).links = s.links := rfl
@[simp] theorem State.setCore_tenants (s : State) (c : CoreId) (x : Core) : (s.setCore c x).tenants = s.tenants := rfl
@[simp] theorem State.setCore_dmem (s : State) (c : CoreId) (x : Core) : (s.setCore c x).dmem = s.dmem := rfl
@[simp] theorem State.setCore_sectors (s : State) (c : CoreId) (x : Core) : (s.setCore c x).sectors = s.sectors := rfl
@[simp] theorem State.setCore_barriers (s : State) (c : CoreId) (x : Core) : (s.setCore c x).barriers = s.barriers := rfl
@[simp] theorem State.setCore_counters (s : State) (c : CoreId) (x : Core) : (s.setCore c x).counters = s.counters := rfl
@[simp] theorem State.setCore_rings (s : State) (c : CoreId) (x : Core) : (s.setCore c x).rings = s.rings := rfl
@[simp] theorem State.setCore_stores (s : State) (c : CoreId) (x : Core) : (s.setCore c x).stores = s.stores := rfl
@[simp] theorem State.setCore_hookReqs (s : State) (c : CoreId) (x : Core) : (s.setCore c x).hookReqs = s.hookReqs := rfl
@[simp] theorem State.setCore_packets (s : State) (c : CoreId) (x : Core) : (s.setCore c x).packets = s.packets := rfl
@[simp] theorem State.setCore_ticketReqs (s : State) (c : CoreId) (x : Core) : (s.setCore c x).ticketReqs = s.ticketReqs := rfl
@[simp] theorem State.setCore_landings (s : State) (c : CoreId) (x : Core) : (s.setCore c x).landings = s.landings := rfl
@[simp] theorem State.setCore_panelReads (s : State) (c : CoreId) (x : Core) : (s.setCore c x).panelReads = s.panelReads := rfl
@[simp] theorem State.setCore_copyJobs (s : State) (c : CoreId) (x : Core) : (s.setCore c x).copyJobs = s.copyJobs := rfl
@[simp] theorem State.setCore_homeReads (s : State) (c : CoreId) (x : Core) : (s.setCore c x).homeReads = s.homeReads := rfl
@[simp] theorem State.setCore_held (s : State) (c : CoreId) (x : Core) : (s.setCore c x).held = s.held := rfl
@[simp] theorem State.setCore_prefetches (s : State) (c : CoreId) (x : Core) : (s.setCore c x).prefetches = s.prefetches := rfl
@[simp] theorem State.setCore_rotations (s : State) (c : CoreId) (x : Core) : (s.setCore c x).rotations = s.rotations := rfl
@[simp] theorem State.setCore_buckets (s : State) (c : CoreId) (x : Core) : (s.setCore c x).buckets = s.buckets := rfl
@[simp] theorem State.setCore_ready (s : State) (c : CoreId) (x : Core) : (s.setCore c x).ready = s.ready := rfl
@[simp] theorem State.setCore_agenda (s : State) (c : CoreId) (x : Core) : (s.setCore c x).agenda = s.agenda := rfl
@[simp] theorem State.setCore_cur (s : State) (c : CoreId) (x : Core) : (s.setCore c x).cur = s.cur := rfl
@[simp] theorem State.setCore_arg (s : State) (c : CoreId) (x : Core) : (s.setCore c x).arg = s.arg := rfl
@[simp] theorem State.setCore_nextId (s : State) (c : CoreId) (x : Core) : (s.setCore c x).nextId = s.nextId := rfl
@[simp] theorem State.setCore_steps (s : State) (c : CoreId) (x : Core) : (s.setCore c x).steps = s.steps := rfl
@[simp] theorem State.setCore_strand (s : State) (c : CoreId) (x : Core) (j : StrandId) : (s.setCore c x).strand j = s.strand j := rfl
@[simp] theorem State.setCore_panel (s : State) (c : CoreId) (x : Core) (j : Nat) : (s.setCore c x).panel j = s.panel j := rfl
@[simp] theorem State.setCore_stack (s : State) (c : CoreId) (x : Core) (j : Nat) : (s.setCore c x).stack j = s.stack j := rfl
@[simp] theorem State.setCore_link (s : State) (c : CoreId) (x : Core) (j : Nat) : (s.setCore c x).link j = s.link j := rfl
@[simp] theorem State.setCore_tenant (s : State) (c : CoreId) (x : Core) (j : Nat) : (s.setCore c x).tenant j = s.tenant j := rfl

/-! ## setPanel -/

@[simp] theorem State.setPanel_package (s : State) (p : Nat) (x : Panel) : (s.setPanel p x).package = s.package := rfl
@[simp] theorem State.setPanel_deviceTime (s : State) (p : Nat) (x : Panel) : (s.setPanel p x).deviceTime = s.deviceTime := rfl
@[simp] theorem State.setPanel_strands (s : State) (p : Nat) (x : Panel) : (s.setPanel p x).strands = s.strands := rfl
@[simp] theorem State.setPanel_cores (s : State) (p : Nat) (x : Panel) : (s.setPanel p x).cores = s.cores := rfl
@[simp] theorem State.setPanel_gstacks (s : State) (p : Nat) (x : Panel) : (s.setPanel p x).gstacks = s.gstacks := rfl
@[simp] theorem State.setPanel_links (s : State) (p : Nat) (x : Panel) : (s.setPanel p x).links = s.links := rfl
@[simp] theorem State.setPanel_tenants (s : State) (p : Nat) (x : Panel) : (s.setPanel p x).tenants = s.tenants := rfl
@[simp] theorem State.setPanel_dmem (s : State) (p : Nat) (x : Panel) : (s.setPanel p x).dmem = s.dmem := rfl
@[simp] theorem State.setPanel_sectors (s : State) (p : Nat) (x : Panel) : (s.setPanel p x).sectors = s.sectors := rfl
@[simp] theorem State.setPanel_barriers (s : State) (p : Nat) (x : Panel) : (s.setPanel p x).barriers = s.barriers := rfl
@[simp] theorem State.setPanel_counters (s : State) (p : Nat) (x : Panel) : (s.setPanel p x).counters = s.counters := rfl
@[simp] theorem State.setPanel_rings (s : State) (p : Nat) (x : Panel) : (s.setPanel p x).rings = s.rings := rfl
@[simp] theorem State.setPanel_stores (s : State) (p : Nat) (x : Panel) : (s.setPanel p x).stores = s.stores := rfl
@[simp] theorem State.setPanel_hookReqs (s : State) (p : Nat) (x : Panel) : (s.setPanel p x).hookReqs = s.hookReqs := rfl
@[simp] theorem State.setPanel_packets (s : State) (p : Nat) (x : Panel) : (s.setPanel p x).packets = s.packets := rfl
@[simp] theorem State.setPanel_ticketReqs (s : State) (p : Nat) (x : Panel) : (s.setPanel p x).ticketReqs = s.ticketReqs := rfl
@[simp] theorem State.setPanel_landings (s : State) (p : Nat) (x : Panel) : (s.setPanel p x).landings = s.landings := rfl
@[simp] theorem State.setPanel_panelReads (s : State) (p : Nat) (x : Panel) : (s.setPanel p x).panelReads = s.panelReads := rfl
@[simp] theorem State.setPanel_copyJobs (s : State) (p : Nat) (x : Panel) : (s.setPanel p x).copyJobs = s.copyJobs := rfl
@[simp] theorem State.setPanel_homeReads (s : State) (p : Nat) (x : Panel) : (s.setPanel p x).homeReads = s.homeReads := rfl
@[simp] theorem State.setPanel_held (s : State) (p : Nat) (x : Panel) : (s.setPanel p x).held = s.held := rfl
@[simp] theorem State.setPanel_prefetches (s : State) (p : Nat) (x : Panel) : (s.setPanel p x).prefetches = s.prefetches := rfl
@[simp] theorem State.setPanel_rotations (s : State) (p : Nat) (x : Panel) : (s.setPanel p x).rotations = s.rotations := rfl
@[simp] theorem State.setPanel_buckets (s : State) (p : Nat) (x : Panel) : (s.setPanel p x).buckets = s.buckets := rfl
@[simp] theorem State.setPanel_ready (s : State) (p : Nat) (x : Panel) : (s.setPanel p x).ready = s.ready := rfl
@[simp] theorem State.setPanel_agenda (s : State) (p : Nat) (x : Panel) : (s.setPanel p x).agenda = s.agenda := rfl
@[simp] theorem State.setPanel_cur (s : State) (p : Nat) (x : Panel) : (s.setPanel p x).cur = s.cur := rfl
@[simp] theorem State.setPanel_arg (s : State) (p : Nat) (x : Panel) : (s.setPanel p x).arg = s.arg := rfl
@[simp] theorem State.setPanel_nextId (s : State) (p : Nat) (x : Panel) : (s.setPanel p x).nextId = s.nextId := rfl
@[simp] theorem State.setPanel_steps (s : State) (p : Nat) (x : Panel) : (s.setPanel p x).steps = s.steps := rfl
@[simp] theorem State.setPanel_strand (s : State) (p : Nat) (x : Panel) (j : StrandId) : (s.setPanel p x).strand j = s.strand j := rfl
@[simp] theorem State.setPanel_core (s : State) (p : Nat) (x : Panel) (j : CoreId) : (s.setPanel p x).core j = s.core j := rfl
@[simp] theorem State.setPanel_stack (s : State) (p : Nat) (x : Panel) (j : Nat) : (s.setPanel p x).stack j = s.stack j := rfl
@[simp] theorem State.setPanel_link (s : State) (p : Nat) (x : Panel) (j : Nat) : (s.setPanel p x).link j = s.link j := rfl
@[simp] theorem State.setPanel_tenant (s : State) (p : Nat) (x : Panel) (j : Nat) : (s.setPanel p x).tenant j = s.tenant j := rfl

/-! ## setStack -/

@[simp] theorem State.setStack_package (s : State) (p : Nat) (x : Stack) : (s.setStack p x).package = s.package := rfl
@[simp] theorem State.setStack_deviceTime (s : State) (p : Nat) (x : Stack) : (s.setStack p x).deviceTime = s.deviceTime := rfl
@[simp] theorem State.setStack_strands (s : State) (p : Nat) (x : Stack) : (s.setStack p x).strands = s.strands := rfl
@[simp] theorem State.setStack_cores (s : State) (p : Nat) (x : Stack) : (s.setStack p x).cores = s.cores := rfl
@[simp] theorem State.setStack_panels (s : State) (p : Nat) (x : Stack) : (s.setStack p x).panels = s.panels := rfl
@[simp] theorem State.setStack_links (s : State) (p : Nat) (x : Stack) : (s.setStack p x).links = s.links := rfl
@[simp] theorem State.setStack_tenants (s : State) (p : Nat) (x : Stack) : (s.setStack p x).tenants = s.tenants := rfl
@[simp] theorem State.setStack_dmem (s : State) (p : Nat) (x : Stack) : (s.setStack p x).dmem = s.dmem := rfl
@[simp] theorem State.setStack_sectors (s : State) (p : Nat) (x : Stack) : (s.setStack p x).sectors = s.sectors := rfl
@[simp] theorem State.setStack_barriers (s : State) (p : Nat) (x : Stack) : (s.setStack p x).barriers = s.barriers := rfl
@[simp] theorem State.setStack_counters (s : State) (p : Nat) (x : Stack) : (s.setStack p x).counters = s.counters := rfl
@[simp] theorem State.setStack_rings (s : State) (p : Nat) (x : Stack) : (s.setStack p x).rings = s.rings := rfl
@[simp] theorem State.setStack_stores (s : State) (p : Nat) (x : Stack) : (s.setStack p x).stores = s.stores := rfl
@[simp] theorem State.setStack_hookReqs (s : State) (p : Nat) (x : Stack) : (s.setStack p x).hookReqs = s.hookReqs := rfl
@[simp] theorem State.setStack_packets (s : State) (p : Nat) (x : Stack) : (s.setStack p x).packets = s.packets := rfl
@[simp] theorem State.setStack_ticketReqs (s : State) (p : Nat) (x : Stack) : (s.setStack p x).ticketReqs = s.ticketReqs := rfl
@[simp] theorem State.setStack_landings (s : State) (p : Nat) (x : Stack) : (s.setStack p x).landings = s.landings := rfl
@[simp] theorem State.setStack_panelReads (s : State) (p : Nat) (x : Stack) : (s.setStack p x).panelReads = s.panelReads := rfl
@[simp] theorem State.setStack_copyJobs (s : State) (p : Nat) (x : Stack) : (s.setStack p x).copyJobs = s.copyJobs := rfl
@[simp] theorem State.setStack_homeReads (s : State) (p : Nat) (x : Stack) : (s.setStack p x).homeReads = s.homeReads := rfl
@[simp] theorem State.setStack_held (s : State) (p : Nat) (x : Stack) : (s.setStack p x).held = s.held := rfl
@[simp] theorem State.setStack_prefetches (s : State) (p : Nat) (x : Stack) : (s.setStack p x).prefetches = s.prefetches := rfl
@[simp] theorem State.setStack_rotations (s : State) (p : Nat) (x : Stack) : (s.setStack p x).rotations = s.rotations := rfl
@[simp] theorem State.setStack_buckets (s : State) (p : Nat) (x : Stack) : (s.setStack p x).buckets = s.buckets := rfl
@[simp] theorem State.setStack_ready (s : State) (p : Nat) (x : Stack) : (s.setStack p x).ready = s.ready := rfl
@[simp] theorem State.setStack_agenda (s : State) (p : Nat) (x : Stack) : (s.setStack p x).agenda = s.agenda := rfl
@[simp] theorem State.setStack_cur (s : State) (p : Nat) (x : Stack) : (s.setStack p x).cur = s.cur := rfl
@[simp] theorem State.setStack_arg (s : State) (p : Nat) (x : Stack) : (s.setStack p x).arg = s.arg := rfl
@[simp] theorem State.setStack_nextId (s : State) (p : Nat) (x : Stack) : (s.setStack p x).nextId = s.nextId := rfl
@[simp] theorem State.setStack_steps (s : State) (p : Nat) (x : Stack) : (s.setStack p x).steps = s.steps := rfl
@[simp] theorem State.setStack_strand (s : State) (p : Nat) (x : Stack) (j : StrandId) : (s.setStack p x).strand j = s.strand j := rfl
@[simp] theorem State.setStack_core (s : State) (p : Nat) (x : Stack) (j : CoreId) : (s.setStack p x).core j = s.core j := rfl
@[simp] theorem State.setStack_panel (s : State) (p : Nat) (x : Stack) (j : Nat) : (s.setStack p x).panel j = s.panel j := rfl
@[simp] theorem State.setStack_link (s : State) (p : Nat) (x : Stack) (j : Nat) : (s.setStack p x).link j = s.link j := rfl
@[simp] theorem State.setStack_tenant (s : State) (p : Nat) (x : Stack) (j : Nat) : (s.setStack p x).tenant j = s.tenant j := rfl

/-! ## setLink -/

@[simp] theorem State.setLink_package (s : State) (l : Nat) (x : Link) : (s.setLink l x).package = s.package := rfl
@[simp] theorem State.setLink_deviceTime (s : State) (l : Nat) (x : Link) : (s.setLink l x).deviceTime = s.deviceTime := rfl
@[simp] theorem State.setLink_strands (s : State) (l : Nat) (x : Link) : (s.setLink l x).strands = s.strands := rfl
@[simp] theorem State.setLink_cores (s : State) (l : Nat) (x : Link) : (s.setLink l x).cores = s.cores := rfl
@[simp] theorem State.setLink_panels (s : State) (l : Nat) (x : Link) : (s.setLink l x).panels = s.panels := rfl
@[simp] theorem State.setLink_gstacks (s : State) (l : Nat) (x : Link) : (s.setLink l x).gstacks = s.gstacks := rfl
@[simp] theorem State.setLink_tenants (s : State) (l : Nat) (x : Link) : (s.setLink l x).tenants = s.tenants := rfl
@[simp] theorem State.setLink_dmem (s : State) (l : Nat) (x : Link) : (s.setLink l x).dmem = s.dmem := rfl
@[simp] theorem State.setLink_sectors (s : State) (l : Nat) (x : Link) : (s.setLink l x).sectors = s.sectors := rfl
@[simp] theorem State.setLink_barriers (s : State) (l : Nat) (x : Link) : (s.setLink l x).barriers = s.barriers := rfl
@[simp] theorem State.setLink_counters (s : State) (l : Nat) (x : Link) : (s.setLink l x).counters = s.counters := rfl
@[simp] theorem State.setLink_rings (s : State) (l : Nat) (x : Link) : (s.setLink l x).rings = s.rings := rfl
@[simp] theorem State.setLink_stores (s : State) (l : Nat) (x : Link) : (s.setLink l x).stores = s.stores := rfl
@[simp] theorem State.setLink_hookReqs (s : State) (l : Nat) (x : Link) : (s.setLink l x).hookReqs = s.hookReqs := rfl
@[simp] theorem State.setLink_packets (s : State) (l : Nat) (x : Link) : (s.setLink l x).packets = s.packets := rfl
@[simp] theorem State.setLink_ticketReqs (s : State) (l : Nat) (x : Link) : (s.setLink l x).ticketReqs = s.ticketReqs := rfl
@[simp] theorem State.setLink_landings (s : State) (l : Nat) (x : Link) : (s.setLink l x).landings = s.landings := rfl
@[simp] theorem State.setLink_panelReads (s : State) (l : Nat) (x : Link) : (s.setLink l x).panelReads = s.panelReads := rfl
@[simp] theorem State.setLink_copyJobs (s : State) (l : Nat) (x : Link) : (s.setLink l x).copyJobs = s.copyJobs := rfl
@[simp] theorem State.setLink_homeReads (s : State) (l : Nat) (x : Link) : (s.setLink l x).homeReads = s.homeReads := rfl
@[simp] theorem State.setLink_held (s : State) (l : Nat) (x : Link) : (s.setLink l x).held = s.held := rfl
@[simp] theorem State.setLink_prefetches (s : State) (l : Nat) (x : Link) : (s.setLink l x).prefetches = s.prefetches := rfl
@[simp] theorem State.setLink_rotations (s : State) (l : Nat) (x : Link) : (s.setLink l x).rotations = s.rotations := rfl
@[simp] theorem State.setLink_buckets (s : State) (l : Nat) (x : Link) : (s.setLink l x).buckets = s.buckets := rfl
@[simp] theorem State.setLink_ready (s : State) (l : Nat) (x : Link) : (s.setLink l x).ready = s.ready := rfl
@[simp] theorem State.setLink_agenda (s : State) (l : Nat) (x : Link) : (s.setLink l x).agenda = s.agenda := rfl
@[simp] theorem State.setLink_cur (s : State) (l : Nat) (x : Link) : (s.setLink l x).cur = s.cur := rfl
@[simp] theorem State.setLink_arg (s : State) (l : Nat) (x : Link) : (s.setLink l x).arg = s.arg := rfl
@[simp] theorem State.setLink_nextId (s : State) (l : Nat) (x : Link) : (s.setLink l x).nextId = s.nextId := rfl
@[simp] theorem State.setLink_steps (s : State) (l : Nat) (x : Link) : (s.setLink l x).steps = s.steps := rfl
@[simp] theorem State.setLink_strand (s : State) (l : Nat) (x : Link) (j : StrandId) : (s.setLink l x).strand j = s.strand j := rfl
@[simp] theorem State.setLink_core (s : State) (l : Nat) (x : Link) (j : CoreId) : (s.setLink l x).core j = s.core j := rfl
@[simp] theorem State.setLink_panel (s : State) (l : Nat) (x : Link) (j : Nat) : (s.setLink l x).panel j = s.panel j := rfl
@[simp] theorem State.setLink_stack (s : State) (l : Nat) (x : Link) (j : Nat) : (s.setLink l x).stack j = s.stack j := rfl
@[simp] theorem State.setLink_tenant (s : State) (l : Nat) (x : Link) (j : Nat) : (s.setLink l x).tenant j = s.tenant j := rfl

/-! ## setTenant -/

@[simp] theorem State.setTenant_package (s : State) (t : Nat) (x : Tenant) : (s.setTenant t x).package = s.package := rfl
@[simp] theorem State.setTenant_deviceTime (s : State) (t : Nat) (x : Tenant) : (s.setTenant t x).deviceTime = s.deviceTime := rfl
@[simp] theorem State.setTenant_strands (s : State) (t : Nat) (x : Tenant) : (s.setTenant t x).strands = s.strands := rfl
@[simp] theorem State.setTenant_cores (s : State) (t : Nat) (x : Tenant) : (s.setTenant t x).cores = s.cores := rfl
@[simp] theorem State.setTenant_panels (s : State) (t : Nat) (x : Tenant) : (s.setTenant t x).panels = s.panels := rfl
@[simp] theorem State.setTenant_gstacks (s : State) (t : Nat) (x : Tenant) : (s.setTenant t x).gstacks = s.gstacks := rfl
@[simp] theorem State.setTenant_links (s : State) (t : Nat) (x : Tenant) : (s.setTenant t x).links = s.links := rfl
@[simp] theorem State.setTenant_dmem (s : State) (t : Nat) (x : Tenant) : (s.setTenant t x).dmem = s.dmem := rfl
@[simp] theorem State.setTenant_sectors (s : State) (t : Nat) (x : Tenant) : (s.setTenant t x).sectors = s.sectors := rfl
@[simp] theorem State.setTenant_barriers (s : State) (t : Nat) (x : Tenant) : (s.setTenant t x).barriers = s.barriers := rfl
@[simp] theorem State.setTenant_counters (s : State) (t : Nat) (x : Tenant) : (s.setTenant t x).counters = s.counters := rfl
@[simp] theorem State.setTenant_rings (s : State) (t : Nat) (x : Tenant) : (s.setTenant t x).rings = s.rings := rfl
@[simp] theorem State.setTenant_stores (s : State) (t : Nat) (x : Tenant) : (s.setTenant t x).stores = s.stores := rfl
@[simp] theorem State.setTenant_hookReqs (s : State) (t : Nat) (x : Tenant) : (s.setTenant t x).hookReqs = s.hookReqs := rfl
@[simp] theorem State.setTenant_packets (s : State) (t : Nat) (x : Tenant) : (s.setTenant t x).packets = s.packets := rfl
@[simp] theorem State.setTenant_ticketReqs (s : State) (t : Nat) (x : Tenant) : (s.setTenant t x).ticketReqs = s.ticketReqs := rfl
@[simp] theorem State.setTenant_landings (s : State) (t : Nat) (x : Tenant) : (s.setTenant t x).landings = s.landings := rfl
@[simp] theorem State.setTenant_panelReads (s : State) (t : Nat) (x : Tenant) : (s.setTenant t x).panelReads = s.panelReads := rfl
@[simp] theorem State.setTenant_copyJobs (s : State) (t : Nat) (x : Tenant) : (s.setTenant t x).copyJobs = s.copyJobs := rfl
@[simp] theorem State.setTenant_homeReads (s : State) (t : Nat) (x : Tenant) : (s.setTenant t x).homeReads = s.homeReads := rfl
@[simp] theorem State.setTenant_held (s : State) (t : Nat) (x : Tenant) : (s.setTenant t x).held = s.held := rfl
@[simp] theorem State.setTenant_prefetches (s : State) (t : Nat) (x : Tenant) : (s.setTenant t x).prefetches = s.prefetches := rfl
@[simp] theorem State.setTenant_rotations (s : State) (t : Nat) (x : Tenant) : (s.setTenant t x).rotations = s.rotations := rfl
@[simp] theorem State.setTenant_buckets (s : State) (t : Nat) (x : Tenant) : (s.setTenant t x).buckets = s.buckets := rfl
@[simp] theorem State.setTenant_ready (s : State) (t : Nat) (x : Tenant) : (s.setTenant t x).ready = s.ready := rfl
@[simp] theorem State.setTenant_agenda (s : State) (t : Nat) (x : Tenant) : (s.setTenant t x).agenda = s.agenda := rfl
@[simp] theorem State.setTenant_cur (s : State) (t : Nat) (x : Tenant) : (s.setTenant t x).cur = s.cur := rfl
@[simp] theorem State.setTenant_arg (s : State) (t : Nat) (x : Tenant) : (s.setTenant t x).arg = s.arg := rfl
@[simp] theorem State.setTenant_nextId (s : State) (t : Nat) (x : Tenant) : (s.setTenant t x).nextId = s.nextId := rfl
@[simp] theorem State.setTenant_steps (s : State) (t : Nat) (x : Tenant) : (s.setTenant t x).steps = s.steps := rfl
@[simp] theorem State.setTenant_strand (s : State) (t : Nat) (x : Tenant) (j : StrandId) : (s.setTenant t x).strand j = s.strand j := rfl
@[simp] theorem State.setTenant_core (s : State) (t : Nat) (x : Tenant) (j : CoreId) : (s.setTenant t x).core j = s.core j := rfl
@[simp] theorem State.setTenant_panel (s : State) (t : Nat) (x : Tenant) (j : Nat) : (s.setTenant t x).panel j = s.panel j := rfl
@[simp] theorem State.setTenant_stack (s : State) (t : Nat) (x : Tenant) (j : Nat) : (s.setTenant t x).stack j = s.stack j := rfl
@[simp] theorem State.setTenant_link (s : State) (t : Nat) (x : Tenant) (j : Nat) : (s.setTenant t x).link j = s.link j := rfl

/-! ## post -/

@[simp] theorem State.post_package (s : State) (i : Instr) (a : EventArg) : (s.post i a).package = s.package := rfl
@[simp] theorem State.post_deviceTime (s : State) (i : Instr) (a : EventArg) : (s.post i a).deviceTime = s.deviceTime := rfl
@[simp] theorem State.post_strands (s : State) (i : Instr) (a : EventArg) : (s.post i a).strands = s.strands := rfl
@[simp] theorem State.post_cores (s : State) (i : Instr) (a : EventArg) : (s.post i a).cores = s.cores := rfl
@[simp] theorem State.post_panels (s : State) (i : Instr) (a : EventArg) : (s.post i a).panels = s.panels := rfl
@[simp] theorem State.post_gstacks (s : State) (i : Instr) (a : EventArg) : (s.post i a).gstacks = s.gstacks := rfl
@[simp] theorem State.post_links (s : State) (i : Instr) (a : EventArg) : (s.post i a).links = s.links := rfl
@[simp] theorem State.post_tenants (s : State) (i : Instr) (a : EventArg) : (s.post i a).tenants = s.tenants := rfl
@[simp] theorem State.post_dmem (s : State) (i : Instr) (a : EventArg) : (s.post i a).dmem = s.dmem := rfl
@[simp] theorem State.post_sectors (s : State) (i : Instr) (a : EventArg) : (s.post i a).sectors = s.sectors := rfl
@[simp] theorem State.post_barriers (s : State) (i : Instr) (a : EventArg) : (s.post i a).barriers = s.barriers := rfl
@[simp] theorem State.post_counters (s : State) (i : Instr) (a : EventArg) : (s.post i a).counters = s.counters := rfl
@[simp] theorem State.post_rings (s : State) (i : Instr) (a : EventArg) : (s.post i a).rings = s.rings := rfl
@[simp] theorem State.post_stores (s : State) (i : Instr) (a : EventArg) : (s.post i a).stores = s.stores := rfl
@[simp] theorem State.post_hookReqs (s : State) (i : Instr) (a : EventArg) : (s.post i a).hookReqs = s.hookReqs := rfl
@[simp] theorem State.post_packets (s : State) (i : Instr) (a : EventArg) : (s.post i a).packets = s.packets := rfl
@[simp] theorem State.post_ticketReqs (s : State) (i : Instr) (a : EventArg) : (s.post i a).ticketReqs = s.ticketReqs := rfl
@[simp] theorem State.post_landings (s : State) (i : Instr) (a : EventArg) : (s.post i a).landings = s.landings := rfl
@[simp] theorem State.post_panelReads (s : State) (i : Instr) (a : EventArg) : (s.post i a).panelReads = s.panelReads := rfl
@[simp] theorem State.post_copyJobs (s : State) (i : Instr) (a : EventArg) : (s.post i a).copyJobs = s.copyJobs := rfl
@[simp] theorem State.post_homeReads (s : State) (i : Instr) (a : EventArg) : (s.post i a).homeReads = s.homeReads := rfl
@[simp] theorem State.post_held (s : State) (i : Instr) (a : EventArg) : (s.post i a).held = s.held := rfl
@[simp] theorem State.post_prefetches (s : State) (i : Instr) (a : EventArg) : (s.post i a).prefetches = s.prefetches := rfl
@[simp] theorem State.post_rotations (s : State) (i : Instr) (a : EventArg) : (s.post i a).rotations = s.rotations := rfl
@[simp] theorem State.post_buckets (s : State) (i : Instr) (a : EventArg) : (s.post i a).buckets = s.buckets := rfl
@[simp] theorem State.post_ready (s : State) (i : Instr) (a : EventArg) : (s.post i a).ready = s.ready := rfl
@[simp] theorem State.post_cur (s : State) (i : Instr) (a : EventArg) : (s.post i a).cur = s.cur := rfl
@[simp] theorem State.post_arg (s : State) (i : Instr) (a : EventArg) : (s.post i a).arg = s.arg := rfl
@[simp] theorem State.post_nextId (s : State) (i : Instr) (a : EventArg) : (s.post i a).nextId = s.nextId := rfl
@[simp] theorem State.post_steps (s : State) (i : Instr) (a : EventArg) : (s.post i a).steps = s.steps := rfl
@[simp] theorem State.post_strand (s : State) (i : Instr) (a : EventArg) (j : StrandId) : (s.post i a).strand j = s.strand j := rfl
@[simp] theorem State.post_core (s : State) (i : Instr) (a : EventArg) (j : CoreId) : (s.post i a).core j = s.core j := rfl
@[simp] theorem State.post_panel (s : State) (i : Instr) (a : EventArg) (j : Nat) : (s.post i a).panel j = s.panel j := rfl
@[simp] theorem State.post_stack (s : State) (i : Instr) (a : EventArg) (j : Nat) : (s.post i a).stack j = s.stack j := rfl
@[simp] theorem State.post_link (s : State) (i : Instr) (a : EventArg) (j : Nat) : (s.post i a).link j = s.link j := rfl
@[simp] theorem State.post_tenant (s : State) (i : Instr) (a : EventArg) (j : Nat) : (s.post i a).tenant j = s.tenant j := rfl

end Sys2Proof.Machine
end

