-- ==== Sys2Proof/Laws/Table.lean ====
section
/-!
SUPPORT. Table.lean: what a table reads after a write, and that writes keep the canonical form of tables and memories.
-/
namespace Sys2Proof.Machine

theorem Table.get_set_self {α : Type} [DecidableEq α] (d : α) (t : Table α) (k : Nat) {v : α} (h : v ≠ d) :
    Table.get d (Table.set d t k v) k = v := by
  induction t with
  | nil => simp [Table.set, Table.get, h]
  | cons e t ih =>
    obtain ⟨j, w⟩ := e
    by_cases h1 : k = j
    · simp [Table.set, Table.get, h, h1]
    · by_cases h2 : k < j
      · simp [Table.set, Table.get, h, h1, h2]
      · simp [Table.set, Table.get, h1, h2, ih]

theorem Table.get_set_other {α : Type} [DecidableEq α] (d : α) (t : Table α) {k j : Nat} {v : α} (h : v ≠ d)
    (hj : j ≠ k) : Table.get d (Table.set d t k v) j = Table.get d t j := by
  induction t with
  | nil => simp [Table.set, Table.get, h, hj]
  | cons e t ih =>
    obtain ⟨i, w⟩ := e
    by_cases h1 : k = i
    · subst h1; simp [Table.set, Table.get, h, hj]
    · by_cases h2 : k < i
      · by_cases h3 : j < k
        · have : j < i := by omega
          have h4 : j ≠ i := by omega
          simp [Table.set, Table.get, h, h1, h2, h3, hj, this, h4]
        · simp [Table.set, Table.get, h, h1, h2, h3, hj]
      · simp [Table.set, Table.get, h1, h2, ih]

theorem Table.set_set {α : Type} [DecidableEq α] (d : α) (t : Table α) (k : Nat) {v : α} (w : α) (h : v ≠ d) :
    Table.set d (Table.set d t k v) k w = Table.set d t k w := by
  induction t with
  | nil => simp [Table.set, h]
  | cons e t ih =>
    obtain ⟨i, u⟩ := e
    by_cases h1 : k = i
    · simp [Table.set, h, h1]
    · by_cases h2 : k < i
      · simp [Table.set, h, h1, h2]
      · simp [Table.set, h1, h2, ih]

theorem Table.set_get {α : Type} [DecidableEq α] (d : α) (t : Table α) (k : Nat) (h : Table.get d t k ≠ d) :
    Table.set d t k (Table.get d t k) = t := by
  induction t with
  | nil => simp [Table.get] at h
  | cons e t ih =>
    obtain ⟨i, u⟩ := e
    by_cases h1 : k = i
    · subst h1; simp [Table.get] at h; simp [Table.set, Table.get, h]
    · by_cases h2 : k < i
      · simp [Table.get, h1, h2] at h
      · simp only [Table.get, h1, h2, if_false] at h ⊢
        simp [Table.set, h1, h2, ih h]

/-- In a canonical table an unlisted key below every listed one reads as the default. -/
theorem Table.get_below {α : Type} (d : α) (t : Table α) (k : Nat) (h : ∀ e ∈ t, k < e.1) : Table.get d t k = d := by
  cases t with
  | nil => rfl
  | cons e t =>
    obtain ⟨i, u⟩ := e
    have hk : k < i := h (i, u) List.mem_cons_self
    have h1 : k ≠ i := by omega
    simp [Table.get, h1, hk]

theorem Table.wf_nil {α : Type} [DecidableEq α] (d : α) : Table.wf d ([] : Table α) = true := rfl

theorem Table.wf_cons {α : Type} [DecidableEq α] (d : α) (i : Nat) (u : α) (t : Table α) :
    Table.wf d ((i, u) :: t) = true ↔ (∀ e ∈ t, i < e.1) ∧ u ≠ d ∧ Table.wf d t = true := by
  simp only [Table.wf, List.pairwise_cons, List.all_cons, Bool.and_eq_true, decide_eq_true_eq, bne_iff_ne]
  tauto

theorem Table.mem_set {α : Type} [DecidableEq α] (d : α) (t : Table α) (k : Nat) (v : α) (e : Nat × α)
    (h : e ∈ Table.set d t k v) : e = (k, v) ∨ e ∈ t := by
  induction t with
  | nil =>
    by_cases hv : v = d <;> simp [Table.set, hv] at h
    exact .inl h
  | cons f t ih =>
    obtain ⟨i, u⟩ := f
    by_cases h1 : k = i
    · by_cases hv : v = d
      · simp [Table.set, h1, hv] at h; exact .inr (by simp [h])
      · simp [Table.set, h1, hv] at h; rcases h with h | h <;> simp [h, h1]
    · by_cases h2 : k < i
      · by_cases hv : v = d
        · simp [Table.set, h1, h2, hv] at h; exact .inr (by simpa using h)
        · simp [Table.set, h1, h2, hv] at h; rcases h with h | h | h <;> simp [h]
      · simp [Table.set, h1, h2] at h
        rcases h with h | h
        · simp [h]
        · rcases ih h with h | h <;> simp [h]

/-- A write keeps the canonical form. -/
theorem Table.wf_set {α : Type} [DecidableEq α] (d : α) (t : Table α) (k : Nat) (v : α) (h : Table.wf d t = true) :
    Table.wf d (Table.set d t k v) = true := by
  induction t with
  | nil =>
    by_cases hv : v = d
    · simp [Table.set, hv, Table.wf]
    · simp [Table.set, hv, Table.wf]
  | cons e t ih =>
    obtain ⟨i, u⟩ := e
    obtain ⟨h1, h2, h3⟩ := (Table.wf_cons d i u t).1 h
    by_cases hk : k = i
    · subst hk
      by_cases hv : v = d
      · simpa [Table.set, hv] using h3
      · simpa [Table.set, hv] using (Table.wf_cons d k v t).2 ⟨h1, hv, h3⟩
    · by_cases hl : k < i
      · by_cases hv : v = d
        · simpa [Table.set, hk, hl, hv] using h
        · simp only [Table.set, hk, hl, hv, if_false, if_true]
          refine (Table.wf_cons d k v _).2 ⟨?_, hv, h⟩
          intro e he
          rcases List.mem_cons.1 he with rfl | he
          · exact hl
          · have := h1 e he; omega
      · simp only [Table.set, hk, hl, if_false]
        refine (Table.wf_cons d i u _).2 ⟨?_, h2, ih h3⟩
        intro e he
        rcases Table.mem_set d t k v e he with rfl | he
        · show i < k; omega
        · exact h1 e he

/-- In a canonical table a read gives what was written there. -/
theorem Table.get_set {α : Type} [DecidableEq α] (d : α) (t : Table α) (k : Nat) (v : α) (h : Table.wf d t = true) :
    Table.get d (Table.set d t k v) k = v := by
  by_cases hv : v = d
  · subst hv
    induction t with
    | nil => simp [Table.set, Table.get]
    | cons e t ih =>
      obtain ⟨i, u⟩ := e
      obtain ⟨h1, h2, h3⟩ := (Table.wf_cons v i u t).1 h
      by_cases hk : k = i
      · subst hk
        simp [Table.set, Table.get_below v t k h1]
      · by_cases hl : k < i
        · simp [Table.set, Table.get, hk, hl]
        · simp [Table.set, Table.get, hk, hl, ih h3]
  · exact Table.get_set_self d t k hv

/-- In a canonical table a write leaves every other key alone. -/
theorem Table.get_set_ne {α : Type} [DecidableEq α] (d : α) (t : Table α) {k j : Nat} (v : α) (h : Table.wf d t = true)
    (hj : j ≠ k) : Table.get d (Table.set d t k v) j = Table.get d t j := by
  by_cases hv : v = d
  · subst hv
    induction t with
    | nil => simp [Table.set]
    | cons e t ih =>
      obtain ⟨i, u⟩ := e
      obtain ⟨h1, h2, h3⟩ := (Table.wf_cons v i u t).1 h
      by_cases hk : k = i
      · subst hk
        by_cases hl : j < k
        · have : ∀ e ∈ t, j < e.1 := fun e he => by have := h1 e he; omega
          simp [Table.set, Table.get, hl, hj, Table.get_below v t j this]
        · simp [Table.set, Table.get, hl, hj]
      · by_cases hl : k < i
        · simp [Table.set, hk, hl]
        · simp [Table.set, Table.get, hk, hl, ih h3]
  · exact Table.get_set_other d t hv hj

/-! ## Memories -/

theorem Memory.wf_setByte (m : Memory) (a : Nat) (v : Byte) (h : m.wf = true) : (m.setByte a v).wf = true :=
  Table.wf_set (0 : Byte) m a v h

theorem Memory.wf_setBytes (m : Memory) (a : Nat) (bs : List Byte) (h : m.wf = true) : (m.setBytes a bs).wf = true := by
  induction bs generalizing m a with
  | nil => exact h
  | cons b bs ih => exact ih _ _ (Memory.wf_setByte m a b h)

theorem Memory.byte_setByte (m : Memory) (a : Nat) (v : Byte) (h : m.wf = true) : (m.setByte a v).byte a = v :=
  Table.get_set (0 : Byte) m a v h

theorem Memory.byte_setByte_ne (m : Memory) {a b : Nat} (v : Byte) (h : m.wf = true) (hb : b ≠ a) :
    (m.setByte a v).byte b = m.byte b :=
  Table.get_set_ne (0 : Byte) m v h hb

theorem Memory.byte_setBytes_outside (m : Memory) (a b : Nat) (bs : List Byte) (h : m.wf = true)
    (hb : b < a ∨ a + bs.length ≤ b) : (m.setBytes a bs).byte b = m.byte b := by
  induction bs generalizing m a with
  | nil => rfl
  | cons x bs ih =>
    simp only [List.length_cons] at hb
    show ((m.setByte a x).setBytes (a + 1) bs).byte b = _
    rw [ih _ _ (Memory.wf_setByte m a x h) (by omega), Memory.byte_setByte_ne m x h (by omega)]

/-- A store of many bytes at listed places keeps the form. -/
theorem Memory.wf_foldl (bs : List (Nat × Byte)) (m : Memory) (h : m.wf = true) :
    Memory.wf (bs.foldl (fun m b => Memory.setByte m b.1 b.2) m) = true := by
  induction bs generalizing m with
  | nil => exact h
  | cons b bs ih => exact ih _ (Memory.wf_setByte m b.1 b.2 h)

end Sys2Proof.Machine
end

