-- ==== Sys2Proof/Laws/Issue.lean ====
section
/-!
SUPPORT. Issue.lean: what the issue of an instruction does when nothing stands in its way.
-/
namespace Sys2Proof.Machine

/-- A result that is taken into the strand alone. -/
def RegWrite.simple : RegWrite → Bool
  | .skein _ _ | .zone _ | .fixed _ => false
  | _ => true

theorem Strand.write_state (x : Strand) (w : RegWrite) : (x.write w).state = x.state := by
  cases w <;> simp [Strand.write, Strand.setPtr, Strand.setK]; split <;> rfl

theorem Strand.foldl_state (ws : List RegWrite) (x : Strand) : (ws.foldl Strand.write x).state = x.state := by
  induction ws generalizing x with
  | nil => rfl
  | cons w ws ih => simp [ih, Strand.write_state]

theorem Strand.write_with (x : Strand) (w : RegWrite) (pc : W64) (l : List Pending) :
    ({ x with pc := pc, pending := l } : Strand).write w = { x.write w with pc := pc, pending := l } := by
  cases w <;> simp [Strand.write, Strand.setPtr, Strand.setK]; split <;> rfl

theorem Strand.foldl_with (ws : List RegWrite) (x : Strand) (pc : W64) (l : List Pending) :
    ws.foldl Strand.write { x with pc := pc, pending := l } = { ws.foldl Strand.write x with pc := pc, pending := l } := by
  induction ws generalizing x with
  | nil => rfl
  | cons w ws ih => simp [Strand.write_with, ih]

theorem Strand.foldl_pending (ws : List RegWrite) (x : Strand) : (ws.foldl Strand.write x).pending = x.pending := by
  have h := Strand.foldl_with ws x x.pc x.pending
  have : ({ x with pc := x.pc, pending := x.pending } : Strand) = x := rfl
  rw [this] at h
  rw [h]

theorem Strand.ne_default {x : Strand} (h : x.state = .ready) : x ≠ {} := by
  intro e; rw [e] at h; cases h

/-- Simple results go into the strand, and nowhere else. -/
theorem applyWrites_simple (k : StrandId) (ws : List RegWrite) (s : State) (hw : ws.all RegWrite.simple = true)
    (hr : (s.strand k).state = .ready) :
    applyWrites k ws s = s.setStrand k (ws.foldl Strand.write (s.strand k)) := by
  induction ws generalizing s with
  | nil =>
    have h := Table.set_get (d := ({} : Strand)) s.strands k (Strand.ne_default hr)
    simp only [applyWrites, List.foldl_nil, State.setStrand]
    show s = { s with strands := Table.set {} s.strands k (Table.get {} s.strands k) }
    rw [h]
  | cons w ws ih =>
    simp only [List.all_cons, Bool.and_eq_true] at hw
    have hne : (s.strand k).write w ≠ {} := Strand.ne_default (by rw [Strand.write_state, hr])
    have hget : (s.setStrand k ((s.strand k).write w)).strand k = (s.strand k).write w :=
      Table.get_set_self (d := ({} : Strand)) s.strands k hne
    have step : applyWrites k (w :: ws) s = applyWrites k ws (s.setStrand k ((s.strand k).write w)) := by
      cases w <;> simp [RegWrite.simple] at hw <;> rfl
    rw [step, ih _ hw.2 (by rw [hget, Strand.write_state, hr]), hget]
    simp only [List.foldl_cons, State.setStrand]
    rw [Table.set_set (d := ({} : Strand)) s.strands k _ hne]

theorem Strand.foldl_fields (ws : List RegWrite) (x : Strand) :
    let y := ws.foldl Strand.write x
    y.state = x.state ∧ y.paused = x.paused ∧ y.yielded = x.yielded ∧ y.redo = x.redo ∧ y.stopping = x.stopping ∧
      y.faults = x.faults := by
  induction ws generalizing x with
  | nil => simp
  | cons w ws ih =>
    have h := ih (x.write w)
    have hx : (x.write w).state = x.state ∧ (x.write w).paused = x.paused ∧ (x.write w).yielded = x.yielded ∧
        (x.write w).redo = x.redo ∧ (x.write w).stopping = x.stopping ∧ (x.write w).faults = x.faults := by
      cases w <;> simp [Strand.write, Strand.setPtr, Strand.setK]; split <;> simp
    simp only [List.foldl_cons] at h ⊢
    obtain ⟨a, b, c, d, e, f⟩ := h
    obtain ⟨a', b', c', d', e', f'⟩ := hx
    exact ⟨a.trans a', b.trans b', c.trans c', d.trans d', e.trans e', f.trans f'⟩

/-- What plain says, taken apart. -/
structure PlainFacts (s : State) : Prop where
  ready : (s.strand s.cur).state = .ready
  paused : (s.strand s.cur).paused = false
  yielded : (s.strand s.cur).yielded = false
  pending : (s.strand s.cur).pending = []
  redo : (s.strand s.cur).redo = none
  stopping : (s.strand s.cur).stopping = none
  faults : (s.strand s.cur).faults = []
  view : (s.strand s.cur).view = none

theorem plain_facts {s : State} (h : plain s = true) : PlainFacts s := by
  simp only [plain, Bool.and_eq_true, beq_iff_eq, Bool.not_eq_true', List.isEmpty_iff,
    Option.isNone_iff_eq_none] at h
  obtain ⟨⟨⟨⟨⟨⟨⟨a, b⟩, c⟩, d⟩, e⟩, f⟩, g⟩, v⟩ := h
  exact ⟨a, b, c, d, e, f, g, v⟩

/-- The answers and holds that an instruction has used up stand in no strand. -/
theorem PlainFacts.clear {s : State} (h : PlainFacts s) : PlainFacts (clearReads s.cur s) :=
  ⟨h.ready, h.paused, h.yielded, h.pending, h.redo, h.stopping, h.faults, h.view⟩

/-- A strand that has no instruction in hand sees its registers. -/
theorem seen_plain {s : State} (h : (own s).view = none) : (s.strand s.cur).seen = own s := by
  have h' : (s.strand s.cur).view = none := h
  unfold Strand.seen own
  rw [h']

/-- A strand at an address with these instructions pending. -/
def Strand.moved (x : Strand) (pc : W64) (l : List Pending) : Strand := { x with pc := pc, pending := l }

@[simp] theorem Strand.moved_state (x : Strand) (pc : W64) (l : List Pending) : (x.moved pc l).state = x.state := rfl
@[simp] theorem Strand.moved_paused (x : Strand) (pc : W64) (l : List Pending) : (x.moved pc l).paused = x.paused := rfl
@[simp] theorem Strand.moved_yielded (x : Strand) (pc : W64) (l : List Pending) : (x.moved pc l).yielded = x.yielded := rfl
@[simp] theorem Strand.moved_redo (x : Strand) (pc : W64) (l : List Pending) : (x.moved pc l).redo = x.redo := rfl
@[simp] theorem Strand.moved_stopping (x : Strand) (pc : W64) (l : List Pending) : (x.moved pc l).stopping = x.stopping := rfl
@[simp] theorem Strand.moved_pending (x : Strand) (pc : W64) (l : List Pending) : (x.moved pc l).pending = l := rfl

theorem Strand.foldl_moved (ws : List RegWrite) (x : Strand) (pc : W64) (l : List Pending) :
    ws.foldl Strand.write (x.moved pc l) = (ws.foldl Strand.write x).moved pc l := Strand.foldl_with ws x pc l

theorem Strand.moved_view {x : Strand} (h : x.view = none) (hr : x.redo = none) (hs : x.stopping = none) (hf : x.faults = [])
    (pc : W64) (l : List Pending) :
    ({ x with pc := pc, pending := l, redo := none, stopping := none, faults := [], view := none } : Strand) = x.moved pc l := by
  unfold Strand.moved
  rw [h, hr, hs, hf]
@[simp] theorem Strand.moved_view_eq (x : Strand) (pc : W64) (l : List Pending) : (x.moved pc l).view = x.view := rfl

theorem cameTo_clear (s : State) (x : Strand) : cameTo (clearReads s.cur s) x = ranTo s x := rfl

/-- The windows of a strand whose one pending instruction has none left are ended already. -/
theorem endWindows_done {k : StrandId} {s : State} {x : Strand} {p : Pending} (hr : x.state = .ready) (hp : p.left = 0)
    (hx : x.pending = [p]) : endWindows k (s.setStrand k x) = s.setStrand k x := by
  have hg : (s.setStrand k x).strand k = x := Table.get_set_self (d := ({} : Strand)) s.strands k (Strand.ne_default hr)
  have he : ({ x with pending := x.pending.map fun p => { p with left := 0 } } : Strand) = x := by
    rw [hx]
    simp only [List.map_cons, List.map_nil]
    rw [show ({ p with left := 0 } : Pending) = p by rw [← hp], ← hx]
  simp only [endWindows, hg]
  rw [he]
  simp only [State.setStrand]
  rw [Table.set_set _ _ _ _ (Strand.ne_default hr)]

/-- The commit of a lone pending instruction with simple results, and the strand's place in the ready list. -/
theorem requeue_commit {s : State} {x : Strand} {p : Pending} {ws : List RegWrite} (next : W64)
    (hx : x.state = .ready ∧ x.paused = false ∧ x.yielded = false ∧ x.redo = none ∧ x.stopping = none ∧ x.view = none)
    (hp : p.state = .done ws) (hw : ws.all RegWrite.simple = true) :
    requeue s.cur (commitReady s.cur 1 (s.setStrand s.cur (x.moved next [p]))) =
      cameTo s (if p.left = 0 then (ws.foldl Strand.write x).moved next [] else x.moved next [p]) := by
  obtain ⟨h1, h2, h3, h4, h5, -⟩ := hx
  have hget : ∀ (t : State) (y : Strand), y.state = .ready → (t.setStrand s.cur y).strand s.cur = y :=
    fun t y hy => Table.get_set_self (d := ({} : Strand)) t.strands s.cur (Strand.ne_default hy)
  have hset : ∀ (y z : Strand), y.state = .ready → (s.setStrand s.cur y).setStrand s.cur z = s.setStrand s.cur z := by
    intro y z hy
    simp only [State.setStrand]
    rw [Table.set_set _ _ _ _ (Strand.ne_default hy)]
  by_cases hl : p.left = 0
  · obtain ⟨a, b, c, d, e, -⟩ := Strand.foldl_fields ws x
    simp only [commitReady, hget _ (x.moved next [p]) h1, Strand.moved_pending, hl, hp, bne_self_eq_false, if_true]
    rw [if_neg (by simp)]
    show requeue s.cur ((applyWrites s.cur ws (s.setStrand s.cur (x.moved next [p]))).setStrand s.cur
      (((applyWrites s.cur ws (s.setStrand s.cur (x.moved next [p]))).strand s.cur).moved
        ((applyWrites s.cur ws (s.setStrand s.cur (x.moved next [p]))).strand s.cur).pc [])) = _
    rw [applyWrites_simple _ _ _ hw (by rw [hget _ (x.moved next [p]) h1]; exact h1), hget _ (x.moved next [p]) h1,
      Strand.foldl_moved, hset (x.moved next [p]) _ h1,
      hget _ ((ws.foldl Strand.write x).moved next [p]) (a.trans h1),
      hset ((ws.foldl Strand.write x).moved next [p]) _ (a.trans h1)]
    have hcan : ((ws.foldl Strand.write x).moved next []).canIssue = true := by
      simp [Strand.canIssue, blocked, a, b, c, d, e, h1, h2, h3, h4, h5]
    show requeue s.cur (s.setStrand s.cur ((ws.foldl Strand.write x).moved next [])) = _
    simp only [requeue, hget _ _ (show ((ws.foldl Strand.write x).moved next []).state = .ready from a.trans h1), hcan, if_true]
    rfl
  · simp only [commitReady, hget _ (x.moved next [p]) h1, Strand.moved_pending]
    have hcan : (x.moved next [p]).canIssue = true := by
      simp [Strand.canIssue, blocked, Pending.open, hl, hp, h1, h2, h3, h4, h5]
    rw [if_pos (by simpa using hl)]
    simp only [requeue, hget _ (x.moved next [p]) h1, hcan, if_true, hl, if_false]
    rfl

/-- A plain strand's instruction as it joins the pending ones. -/
theorem retire_joins {s : State} (h : PlainFacts s) (i : Instr) (la : Nat) (st : PendState) (next : W64) :
    let p : Pending := { parcels := parcelsOf i, pc := (s.strand s.cur).pc, left := la, dests := destsOf i, state := st }
    (laneMajor i = true → p.kept.isSome = true → la = 0) → st.precise next = st → p.unissued = false →
    retire i la (destsOf i) st next s =
      requeue s.cur (commitReady s.cur 1 (s.setStrand s.cur ((s.strand s.cur).moved next [p]))) := by
  intro p hla hpr hun
  have hun' : ({ parcels := parcelsOf i, pc := (s.strand s.cur).pc, left := la, dests := destsOf i, state := st } : Pending).unissued =
    false := hun
  have hg : (s.setStrand s.cur ((s.strand s.cur).moved next [p])).strand s.cur = (s.strand s.cur).moved next [p] :=
    Table.get_set_self (d := ({} : Strand)) s.strands s.cur (Strand.ne_default (by exact h.ready))
  simp only [retire, hpr, hun', h.redo, h.pending, h.view, h.stopping, h.faults, Option.isSome_none, List.isEmpty_nil, Bool.not_true,
    Bool.false_and, Bool.or_false, Bool.false_or, Bool.false_eq_true, if_false, List.map_nil, List.nil_append]
  have hm := Strand.moved_view h.view h.redo h.stopping h.faults next
    [({ parcels := parcelsOf i, pc := (s.strand s.cur).pc, left := la, dests := destsOf i, state := st } : Pending)]
  rw [hm]
  split
  · next hm =>
    simp only [Bool.and_eq_true] at hm
    rw [endWindows_done (by exact h.ready) (hla hm.1 hm.2) rfl, hg]
    rfl
  · rw [hg]
    rfl

/-- A plain strand's instruction retired with simple results. -/
theorem retire_plain {s : State} (h : PlainFacts s) (i : Instr) (la : Nat) {ws : List RegWrite} (next : W64)
    (hw : ws.all RegWrite.simple = true) :
    retire i la (destsOf i) (.done ws) next s = cameTo s (issued i la ws next (own s)) := by
  rw [retire_joins h i la (.done ws) next (fun _ hk => absurd hk (by simp [Pending.kept])) rfl rfl,
    requeue_commit next ⟨h.ready, h.paused, h.yielded, h.redo, h.stopping, h.view⟩ rfl hw]
  unfold issued own
  split
  · congr 1
    have := Strand.foldl_pending ws (s.strand s.cur)
    rw [h.pending] at this
    rw [← this]
    rfl
  · rfl

/-- An instruction whose body gives simple results: its strand takes them, and goes on. -/
theorem issue_after {i : Instr} {la : Nat} {body : Strand → Act Effect} {s t : State} {e : Effect}
    (hv : (own s).view = none) (hb : (body (own s)).gives s e t) (hp : plain t = true) (hc : t.cur = s.cur)
    (hw : e.ws.all RegWrite.simple = true) (hwait : e.wait = none) (hasync : e.async = none) (hlast : e.lasts = none := by rfl) :
    run i la (destsOf i) body s = .next (ranAt i la e.ws (e.next.getD (nextPc i t)) t) := by
  have h := plain_facts hp
  have hb' : ExceptT.run (body (own s)) s = (.ok e, t) := hb
  have hl : (t.strand s.cur).live = true := by rw [← hc, Strand.live, h.ready]; rfl
  have hr := retire_plain h i la (e.next.getD (nextPc i t)) hw
  simp only [run, issue, seen_plain hv, hb', hl, if_true, hwait, hasync, hlast]
  congr 1
  rw [← hc, hr]
  rfl

/-- The same, for a body that leaves the machine alone. -/
theorem issue_plain {i : Instr} {la : Nat} {body : Strand → Act Effect} {s : State} {e : Effect}
    (hp : plain s = true) (hb : (body (own s)).gives s e s) (hw : e.ws.all RegWrite.simple = true)
    (hwait : e.wait = none) (hasync : e.async = none) (hlast : e.lasts = none := by rfl) :
    run i la (destsOf i) body s = .next (ranAt i la e.ws (e.next.getD (nextPc i s)) s) :=
  issue_after (plain_facts hp).view hb hp rfl hw hwait hasync hlast

/-- A write of FIXED begins fixed mode (08 R196). -/
def begins (v : W64) (x : Strand) : Bool := v.getLsbD 0 && !x.isFixed

/-- An instruction that writes FIXED: it takes the value; with no lookahead a write that begins fixed mode fills the horizon
area at once. -/
theorem issue_fixed {i : Instr} {la : Nat} {body : Strand → Act Effect} {s : State} {v : W64} (hp : plain s = true)
    (hb : (body (own s)).gives s { ws := [.fixed v] } s) :
    run i la (destsOf i) body s = .next
      (if la = 0 ∧ begins v (own s) = true then
        setHorizonAt (ran i 0 [.fixed v] s) s.cur.core (v.toNat / 64 % 2 ^ 13 * 64) (baseHorizon s (own s).domain)
      else ran i la [.fixed v] s) := by
  have h := plain_facts hp
  have hb' : ExceptT.run (body (own s)) s = (.ok { ws := [.fixed v] }, s) := hb
  have hl : (s.strand s.cur).live = true := by rw [Strand.live, h.ready]; rfl
  simp only [run, issue, seen_plain h.view, hb', hl, if_true, Option.getD_none]
  congr 1
  rw [retire_joins h i la (.done [.fixed v]) (nextPc i s) (fun _ hk => absurd hk (by simp [Pending.kept])) rfl rfl]
  generalize hq : ({ parcels := parcelsOf i, pc := (s.strand s.cur).pc, left := la, dests := destsOf i
                     state := .done [.fixed v] } : Pending) = p
  generalize hx : s.strand s.cur = x at h
  have hox : own s = x := hx
  have hr : x.state = .ready := hx ▸ h.ready
  have hget : ∀ (t : State) (y : Strand), y.state = .ready → (t.setStrand s.cur y).strand s.cur = y :=
    fun t y hy => Table.get_set_self (d := ({} : Strand)) t.strands s.cur (Strand.ne_default hy)
  have hset : ∀ (t : State) (y z : Strand), y.state = .ready →
      (t.setStrand s.cur y).setStrand s.cur z = t.setStrand s.cur z := by
    intro t y z hy
    simp only [State.setStrand]
    rw [Table.set_set _ _ _ _ (Strand.ne_default hy)]
  have hready : ∀ (pc : W64) (l : List Pending) (w : W64), ({ x.moved pc l with fixed := w } : Strand).state = .ready := fun _ _ _ => hr
  have hpx : ({ ([.fixed v] : List RegWrite).foldl Strand.write x with pc := nextPc i s } : Strand) =
      ({ x.moved (nextPc i s) [] with fixed := v } : Strand) := by
    have hpe : x.pending = [] := by rw [← hx]; exact (plain_facts hp).pending
    simp only [List.foldl_cons, List.foldl_nil, Strand.write, Strand.moved]
    rw [← hpe]
  rw [hox]
  by_cases h0 : la = 0
  · have hc : commitReady s.cur 1 (s.setStrand s.cur (x.moved (nextPc i s) [p])) =
        let u := if begins v x then setHorizonAt (s.setStrand s.cur ({ x.moved (nextPc i s) [p] with fixed := v } : Strand)) s.cur.core
            (v.toNat / 64 % 2 ^ 13 * 64) (baseHorizon s x.domain)
          else s.setStrand s.cur ({ x.moved (nextPc i s) [p] with fixed := v } : Strand)
        u.setStrand s.cur ({ x.moved (nextPc i s) [] with fixed := v } : Strand) := by
      simp only [commitReady, hget _ (x.moved (nextPc i s) [p]) hr, Strand.moved_pending]
      rw [if_neg (by rw [← hq]; simpa using h0)]
      rw [show p.state = .done [.fixed v] by rw [← hq]]
      simp only [applyWrites, hget _ (x.moved (nextPc i s) [p]) hr, hset _ (x.moved (nextPc i s) [p]) _ hr]
      by_cases hbg : begins v x = true
      · have hbg' : ((({ x.moved (nextPc i s) [p] with fixed := v } : Strand).isFixed && !(x.moved (nextPc i s) [p]).isFixed)) = true := hbg
        rw [if_pos hbg', if_pos hbg]
        show (setHorizonAt _ _ _ _).setStrand s.cur { (s.setStrand s.cur _).strand s.cur with pending := [] } = _
        rw [hget _ _ (hready _ _ _)]
        rfl
      · have hbg' : ¬ ((({ x.moved (nextPc i s) [p] with fixed := v } : Strand).isFixed && !(x.moved (nextPc i s) [p]).isFixed)) = true := hbg
        rw [if_neg hbg', if_neg hbg, hget _ _ (hready _ _ _)]
        rfl
    have hcan : ({ x.moved (nextPc i s) [] with fixed := v } : Strand).canIssue = true := by
      have a := h.paused; have b := h.yielded; have c := h.redo; have d := h.stopping
      rw [hx] at a b c d
      simp [Strand.canIssue, blocked, Strand.moved, hr, a, b, c, d]
    rw [hc]
    simp only [requeue, h0, true_and]
    by_cases hbg : begins v x = true
    · simp only [hbg, if_true]
      rw [hget _ _ (hready _ _ _), if_pos hcan]
      have hs1 : (setHorizonAt (s.setStrand s.cur ({ x.moved (nextPc i s) [p] with fixed := v } : Strand)) s.cur.core
          (v.toNat / 64 % 2 ^ 13 * 64) (baseHorizon s x.domain)).setStrand s.cur
          ({ x.moved (nextPc i s) [] with fixed := v } : Strand) =
          setHorizonAt (s.setStrand s.cur ({ x.moved (nextPc i s) [] with fixed := v } : Strand)) s.cur.core
            (v.toNat / 64 % 2 ^ 13 * 64) (baseHorizon s x.domain) :=
        congrArg (fun t => setHorizonAt t s.cur.core (v.toNat / 64 % 2 ^ 13 * 64) (baseHorizon s x.domain))
          (hset s ({ x.moved (nextPc i s) [p] with fixed := v } : Strand) ({ x.moved (nextPc i s) [] with fixed := v } : Strand)
            (hready _ _ _))
      rw [hs1]
      unfold ran issued ranTo
      rw [hox]
      rw [if_pos rfl, hpx]
      rfl
    · rw [if_neg hbg, hset _ _ _ (hready _ _ _), hget _ _ (hready _ _ _), if_pos hcan, if_neg hbg]
      unfold ran ranTo issued
      rw [hox]
      rw [if_pos rfl, hpx]
      rfl
  · have hcan : (x.moved (nextPc i s) [p]).canIssue = true := by
      have a := h.paused; have b := h.yielded; have c := h.redo; have d := h.stopping
      rw [hx] at a b c d
      rw [← hq]
      simp [Strand.canIssue, blocked, Pending.open, Strand.moved, hr, a, b, c, d, h0]
    simp only [commitReady, hget _ (x.moved (nextPc i s) [p]) hr, Strand.moved_pending]
    rw [if_pos (by rw [← hq]; simpa using h0), if_neg (by simp [h0])]
    simp only [requeue, hget _ (x.moved (nextPc i s) [p]) hr, hcan, if_true]
    unfold ran ranTo issued
    rw [hox, if_neg h0, ← hq, hx]
    rfl

/-- A plain strand's instruction that is not complete stays pending. -/
theorem retire_stays {t : State} (h : PlainFacts t) (i : Instr) (la : Nat) (st : PendState)
    (ho : ∀ p : Pending, p.state = st → p.open = true) :
    clearReads t.cur (retire i la (destsOf i) st (nextPc i t) t) = stays i la st t := by
  have hk : ∀ p : Pending, p.state = st → p.kept = none ∧ p.unissued = false := by
    intro p hp
    have := ho p hp
    cases st <;> simp_all [Pending.open, Pending.lasts, Pending.kept, Pending.unissued]
  have hpr : st.precise (nextPc i t) = st := by
    have := ho { parcels := 0, pc := 0, left := 0, dests := [], state := st } rfl
    cases st <;> simp_all [Pending.open, Pending.lasts, PendState.precise]
  rw [retire_joins h i la st (nextPc i t) (fun _ hs => by rw [(hk _ rfl).1] at hs; cases hs) hpr (hk _ rfl).2]
  have hget : ∀ y : Strand, y.state = .ready → (t.setStrand t.cur y).strand t.cur = y :=
    fun y hy => Table.get_set_self (d := ({} : Strand)) t.strands t.cur (Strand.ne_default hy)
  have hm : (own t).moved (nextPc i t)
      [{ parcels := parcelsOf i, pc := (own t).pc, left := la, dests := destsOf i, state := st }] =
      staying i la st (nextPc i t) (own t) := rfl
  rw [show t.strand t.cur = own t from rfl, hm]
  have hy : (staying i la st (nextPc i t) (own t)).state = .ready := h.ready
  have ho' := ho { parcels := parcelsOf i, pc := (own t).pc, left := la, dests := destsOf i, state := st } rfl
  have hcommit : commitReady t.cur 1 (t.setStrand t.cur (staying i la st (nextPc i t) (own t))) =
      t.setStrand t.cur (staying i la st (nextPc i t) (own t)) := by
    simp only [commitReady, hget _ hy]
    unfold staying
    simp only [ho', Bool.true_or, if_true]
    split
    · rfl
    · cases st <;> simp_all [Pending.open, Pending.lasts]
  have hcan : (staying i la st (nextPc i t) (own t)).canIssue = decide (la ≠ 0) := by
    unfold staying own at *
    by_cases hl : la = 0 <;>
      simp_all [Strand.canIssue, blocked, h.ready, h.paused, h.yielded, h.redo, h.stopping, h.view]
  rw [hcommit]
  simp only [requeue, hget _ hy, hcan]
  unfold stays
  by_cases hl : la = 0 <;> simp [hl, State.setStrand, clearReads]

/-- An instruction whose body asks an item for its reply: it is pending until the reply comes. -/
theorem issue_async {i : Instr} {la id : Nat} {body : Strand → Act Effect} {s t : State} {e : Effect}
    (hv : (own s).view = none) (hb : (body (own s)).gives s e t) (hp : plain t = true) (hc : t.cur = s.cur)
    (hwait : e.wait = none) (hasync : e.async = some id) (hnext : e.next = none) (hlast : e.lasts = none := by rfl) :
    run i la (destsOf i) body s = .next (launched i la id e.ws t) := by
  have h := plain_facts hp
  have hb' : ExceptT.run (body (own s)) s = (.ok e, t) := hb
  have hl : (t.strand s.cur).live = true := by rw [← hc, Strand.live, h.ready]; rfl
  simp only [run, issue, seen_plain hv, hb', hl, if_true, hwait, hasync, hnext, hlast, Option.getD_none]
  rw [← hc, retire_stays h i la (.waiting id e.ws) fun p hp => by simp [Pending.open, hp]]
  rfl

/-- An instruction whose body leaves it waiting for matrix commands or for copies: it is pending until they are done. -/
theorem issue_lasts {i : Instr} {la : Nat} {body : Strand → Act Effect} {s t : State} {e : Effect} {st : PendState}
    (hv : (own s).view = none) (hb : (body (own s)).gives s e t) (hp : plain t = true) (hc : t.cur = s.cur)
    (hlast : e.lasts = some st) (hwait : e.wait = none) (hnext : e.next = none)
    (ho : ∀ p : Pending, p.state = st → p.lasts = true) :
    run i la (destsOf i) body s = .next (stays i la st t) := by
  have h := plain_facts hp
  have hb' : ExceptT.run (body (own s)) s = (.ok e, t) := hb
  have hl : (t.strand s.cur).live = true := by rw [← hc, Strand.live, h.ready]; rfl
  simp only [run, issue, seen_plain hv, hb', hl, if_true, hwait, hnext, hlast, Option.getD_none]
  rw [← hc, retire_stays h i la st fun p hp => by
    have := ho p hp
    cases st <;> simp_all [Pending.open, Pending.lasts]]

/-- A strand that parks and is not to stop waits, and stands in no ready list. -/
theorem park_waits {k : StrandId} {w : WaitOn} {s : State} {x : Strand} (hx : x.state ≠ .free) (hs : x.stopping = none) :
    settleStop k (park k w (s.setStrand k x)) =
      { s with
        strands := Table.set {} s.strands k { x with state := .waiting, wait := w, satisfied := false, deposit := none }
        ready := s.ready.filter fun j => j != k } := by
  have hget : ∀ (u : State) (y : Strand), y.state ≠ .free → (u.setStrand k y).strand k = y :=
    fun u y hy => Table.get_set_self (d := ({} : Strand)) u.strands k (fun e => hy (by rw [e]))
  unfold park
  rw [hget s x hx]
  have hset : (s.setStrand k x).setStrand k { x with state := .waiting, wait := w, satisfied := false, deposit := none } =
      s.setStrand k { x with state := .waiting, wait := w, satisfied := false, deposit := none } := by
    simp only [State.setStrand]
    rw [Table.set_set _ _ _ _ (fun e => hx (by rw [e]))]
  rw [hset]
  generalize hz : ({ x with state := .waiting, wait := w, satisfied := false, deposit := none } : Strand) = z
  have hzs : z.state ≠ .free := by rw [← hz]; simp
  have hzp : z.stopping = none := by rw [← hz]; exact hs
  have hcan : z.canIssue = false := by rw [← hz]; rfl
  have hreq : requeue k (s.setStrand k z) =
      { s with strands := Table.set {} s.strands k z, ready := s.ready.filter fun j => j != k } := by
    unfold requeue
    rw [hget s z hzs, hcan]
    rfl
  rw [hreq]
  unfold settleStop
  have hg : State.strand { s with strands := Table.set {} s.strands k z, ready := s.ready.filter fun j => j != k } k = z := hget s z hzs
  simp only [hg, hzp]

/-- An instruction whose body waits for an object: the strand waits, with the instruction pending. -/
theorem issue_wait {i : Instr} {body : Strand → Act Effect} {s t : State} {w : WaitOn}
    (hv : (own s).view = none) (hb : (body (own s)).gives s { wait := some w } t) (hp : plain t = true)
    (hc : t.cur = s.cur) (ho : own t = own s) :
    run i 0 (destsOf i) body s = .next (waitsOn i w t) := by
  have h := plain_facts hp
  have hb' : ExceptT.run (body (own s)) s = (.ok { wait := some w }, t) := hb
  have hl : (t.strand s.cur).live = true := by rw [← hc, Strand.live, h.ready]; rfl
  have hredo : (s.strand s.cur).redo = none := by
    rw [show s.strand s.cur = own t from ho.symm]
    exact h.redo
  have hpc : (s.strand s.cur).pc = (own t).pc := by rw [show s.strand s.cur = own t from ho.symm]
  simp only [run, issue, seen_plain hv, hb', hl, if_true, Option.getD_none, hredo, hpc]
  rw [← hc, show retire i 0 (destsOf i) (.waits []) (nextPc i t) t = _ from
    retire_joins h i 0 (.waits []) (nextPc i t) (fun _ hk => absurd hk (by simp [Pending.kept])) rfl rfl]
  have hget : ∀ (u : State) (y : Strand), y.state ≠ .free → (u.setStrand t.cur y).strand t.cur = y :=
    fun u y hy => Table.get_set_self (d := ({} : Strand)) u.strands t.cur (fun e => hy (by rw [e]))
  have hset : ∀ (u : State) (y z : Strand), y.state ≠ .free →
      (u.setStrand t.cur y).setStrand t.cur z = u.setStrand t.cur z := by
    intro u y z hy
    simp only [State.setStrand]
    rw [Table.set_set _ _ _ _ (fun e => hy (by rw [e]))]
  generalize hq : ({ parcels := parcelsOf i, pc := (own t).pc, left := 0, dests := destsOf i, state := .waits [] } : Pending) = p
  rw [show t.strand t.cur = own t from rfl, hq]
  have hr : (own t).state = .ready := h.ready
  have hm : ((own t).moved (nextPc i t) [p]).state ≠ .free := by rw [Strand.moved_state, hr]; decide
  have hcommit : commitReady t.cur 1 (t.setStrand t.cur ((own t).moved (nextPc i t) [p])) =
      t.setStrand t.cur ((own t).moved (nextPc i t) [p]) := by
    simp only [commitReady, hget _ _ hm, Strand.moved_pending]
    rw [← hq]
    simp [Pending.open]
  rw [hcommit]
  generalize hu : requeue t.cur (t.setStrand t.cur ((own t).moved (nextPc i t) [p])) = u
  have hus : u.strands = (t.setStrand t.cur ((own t).moved (nextPc i t) [p])).strands := by rw [← hu]; rfl
  have huo : (clearReads t.cur u).strand t.cur = (own t).moved (nextPc i t) [p] := by
    show Table.get {} u.strands t.cur = _
    rw [hus]
    exact hget t _ hm
  simp only [huo]
  have hlive : ((own t).moved (nextPc i t) [p]).live = true := by
    rw [Strand.live, Strand.moved_state, hr]; rfl
  rw [if_pos hlive]
  rw [park_waits (x := ({ (own t).moved (nextPc i t) [p] with waitParcels := parcelsOf i, waitPc := _ } : Strand)) hm h.stopping]
  rw [← hu, ← hq]
  have hrest : (requeue t.cur (t.setStrand t.cur ((own t).moved (nextPc i t) [p]))).ready.filter (fun j => j != t.cur) =
      t.ready.filter fun j => j != t.cur := by
    unfold requeue
    dsimp only
    split <;> simp [State.setStrand]
  have hst := fun z : Strand => Table.set_set (d := ({} : Strand)) t.strands t.cur z
    (v := (own t).moved (nextPc i t) [p]) (fun e => hm (by rw [e]))
  rw [← hq] at hst hrest
  congr 1
  show ({ t with
    strands := Table.set {} (Table.set {} t.strands t.cur _) t.cur _
    ready := (requeue t.cur (t.setStrand t.cur ((own t).moved (nextPc i t) _))).ready.filter _
    panelReads := t.panelReads.filter fun r => r.strand != t.cur
    held := t.held.filter fun e => e.1 != .strand t.cur } : State) = _
  rw [hst, hrest]
  rfl

/-- An instruction with lookahead whose body faults: the fault is pending. -/
theorem issue_fault_later {i : Instr} {la : Nat} {body : Strand → Act Effect} {s t : State} {f : FaultInfo}
    (hv : (own s).view = none) (hb : (body (own s)).stops s (.trap f) t) (hp : plain t = true) (hc : t.cur = s.cur)
    (hl : la ≠ 0) (hm : laneMajor i = false) (hf : ¬ (1 ≤ f.cause.toNat ∧ f.cause.toNat ≤ 3)) :
    run i la (destsOf i) body s = .next (faultLater i la f t) := by
  have h := plain_facts hp
  have hb' : ExceptT.run (body (own s)) s = (.error (.trap f), t) := hb
  simp only [run, issue, seen_plain hv, hb']
  rw [← hc, show retire i la (destsOf i) (.faulted f) (nextPc i t) (clearReads t.cur t) = _ from
    retire_joins h.clear i la (.faulted f) (nextPc i t) (fun hk _ => by rw [hm] at hk; cases hk)
      (by simp only [PendState.precise, if_neg hf]) rfl]
  generalize hu : clearReads t.cur t = u
  have hcu : u.cur = t.cur := by rw [← hu]; rfl
  have hsu : u.strand t.cur = own t := by rw [← hu]; rfl
  rw [hcu, hsu]
  have hget : ∀ y : Strand, y.state = .ready → (u.setStrand t.cur y).strand t.cur = y :=
    fun y hy => Table.get_set_self (d := ({} : Strand)) u.strands t.cur (Strand.ne_default hy)
  generalize hq : ({ parcels := parcelsOf i, pc := (own t).pc, left := la, dests := destsOf i, state := .faulted f } : Pending) = p
  have hy : ((own t).moved (nextPc i t) [p]).state = .ready := h.ready
  have hcommit : commitReady t.cur 1 (u.setStrand t.cur ((own t).moved (nextPc i t) [p])) =
      u.setStrand t.cur ((own t).moved (nextPc i t) [p]) := by
    simp only [commitReady, hget _ hy, Strand.moved_pending]
    rw [if_pos (by rw [← hq]; simpa using hl)]
  have hcan : ((own t).moved (nextPc i t) [p]).canIssue = true := by
    have hview : (own t).view = none := h.view
    rw [← hq]
    unfold Strand.moved own
    simp [Strand.canIssue, blocked, Pending.open, hl, h.ready, h.paused, h.yielded, h.redo, h.stopping, h.view]
  rw [hcommit]
  simp only [requeue, hget _ hy, hcan, if_true]
  rw [← hu, ← hq]
  rfl

/-- The commit of a lone pending instruction that faulted: its trap. -/
theorem commit_faulted {u : State} {k : StrandId} {x : Strand} {p : Pending} {f : FaultInfo} (pc next : W64)
    (hx : x.state = .ready ∧ x.view = none ∧ x.faults = []) (hl : p.left = 0)
    (hp : p.state = .faulted f ∧ pc = next ∨ p.state = .atIssue f next) :
    commitReady k 1 (u.setStrand k (x.moved pc [p])) = takeTrap k f p.pc p.parcels next (u.setStrand k (x.moved next [])) := by
  obtain ⟨hr, hv, hf⟩ := hx
  have hget : ∀ y : Strand, y.state = .ready → (u.setStrand k y).strand k = y :=
    fun y hy => Table.get_set_self (d := ({} : Strand)) u.strands k (Strand.ne_default hy)
  have hset : ∀ (y z : Strand), y.state = .ready → (u.setStrand k y).setStrand k z = u.setStrand k z := by
    intro y z hy
    simp only [State.setStrand]
    rw [Table.set_set _ _ _ _ (Strand.ne_default hy)]
  have hm : ∀ a l, (x.moved a l).state = .ready := fun _ _ => hr
  have hvw : (x.moved pc [p]).view = none := hv
  have hff : (x.moved pc [p]).faults = [] := hf
  have he : ({ x.moved pc [p] with pending := [], faults := List.take 15 ([] ++ []) } : Strand) = x.moved pc [] := by
    unfold Strand.moved
    simp only [List.append_nil, List.take_nil]
    rw [← hf]
  have hopen : p.open = false := by obtain ⟨h, -⟩ | h := hp <;> simp [Pending.open, Pending.lasts, h]
  have hcom : commitReady k 1 (u.setStrand k (x.moved pc [p])) = faultAt k p [] (u.setStrand k (x.moved pc [p])) := by
    obtain ⟨h, -⟩ | h := hp <;>
      simp only [commitReady, hget _ (hm pc [p]), Strand.moved_pending, hvw, hl, h, hopen, bne_self_eq_false, Bool.false_eq_true,
        if_false, List.any_nil, Option.isSome_none, Bool.or_self]
  rw [hcom]
  simp only [faultAt, List.foldl_nil, List.filterMap_nil, hget _ (hm pc [p]), hff, List.isEmpty_nil, Bool.not_true, Bool.false_and,
    Bool.false_eq_true, if_false, hset _ _ (hm pc [p]), he]
  obtain ⟨h, hn⟩ | h := hp
  · rw [h, ← hn]; rfl
  · rw [h, hget _ (hm pc [])]
    exact congrArg (takeTrap k f p.pc p.parcels next) (hset (x.moved pc []) (x.moved next []) (hm pc []))

/-- A plain strand's instruction of no lookahead that faults: its trap is taken at once. -/
theorem retire_faults {s : State} (h : PlainFacts s) (i : Instr) (f : FaultInfo) :
    retire i 0 (destsOf i) (.faulted f) (nextPc i s) s = requeue s.cur (takeTrap s.cur f (s.strand s.cur).pc (parcelsOf i)
      (nextPc i s) (s.setStrand s.cur ((s.strand s.cur).moved (nextPc i s) []))) := by
  by_cases hf : 1 ≤ f.cause.toNat ∧ f.cause.toNat ≤ 3
  · have hg : ∀ y : Strand, y.state = .ready → (s.setStrand s.cur y).strand s.cur = y :=
      fun y hy => Table.get_set_self (d := ({} : Strand)) s.strands s.cur (Strand.ne_default hy)
    set p : Pending := { parcels := parcelsOf i, pc := (s.strand s.cur).pc, left := 0, dests := destsOf i
                         state := .atIssue f (nextPc i s) } with hp
    have hpr : (PendState.faulted f).precise (nextPc i s) = .atIssue f (nextPc i s) := by simp only [PendState.precise, if_pos hf]
    have hm := Strand.moved_view h.view h.redo h.stopping h.faults (s.strand s.cur).pc [p]
    have hun : p.unissued = true := rfl
    simp only [retire, hpr, ← hp, hun, h.redo, h.pending, h.view, h.stopping, h.faults, Option.isSome_none, List.isEmpty_nil,
      Bool.not_true, Bool.true_or, Bool.or_self, if_true, Bool.false_eq_true, if_false, List.map_nil, List.nil_append]
    rw [hm, endWindows_done (by exact h.ready) rfl rfl, hg _ (by exact h.ready)]
    exact congrArg _ (commit_faulted _ _ ⟨h.ready, h.view, h.faults⟩ rfl (.inr rfl))
  · rw [retire_joins h i 0 (.faulted f) (nextPc i s) (fun _ _ => rfl)
      (by simp only [PendState.precise, if_neg hf]) rfl]
    rw [commit_faulted _ _ ⟨h.ready, h.view, h.faults⟩ rfl (.inl ⟨rfl, rfl⟩)]

/-- An instruction of no lookahead whose body faults: its trap is taken at once. -/
theorem issue_faults {i : Instr} {body : Strand → Act Effect} {s t : State} {f : FaultInfo}
    (hv : (own s).view = none) (hb : (body (own s)).stops s (.trap f) t) (hp : plain t = true) (hc : t.cur = s.cur) :
    run i 0 (destsOf i) body s = .next (requeue t.cur (takeTrap t.cur f (own t).pc (parcelsOf i) (nextPc i t)
      ((clearReads t.cur t).setStrand t.cur ((own t).moved (nextPc i t) [])))) := by
  have hb' : ExceptT.run (body (own s)) s = (.error (.trap f), t) := hb
  simp only [run, issue, seen_plain hv, hb']
  rw [← hc, show retire i 0 (destsOf i) (.faulted f) (nextPc i t) (clearReads t.cur t) = _ from
    retire_faults (plain_facts hp).clear i f]
  rfl

/-- The same, where no handler can run: the strand escalates (11 R260). -/
theorem issue_escalates {i : Instr} {body : Strand → Act Effect} {s t : State} {f : FaultInfo}
    (hv : (own s).view = none) (hb : (body (own s)).stops s (.trap f) t) (hp : plain t = true) (hc : t.cur = s.cur)
    (hx : canTrap t = false) :
    run i 0 (destsOf i) body s = .next (escalated i f.cause t) := by
  have h := plain_facts hp
  rw [issue_faults hv hb hp hc]
  have hm : ((own t).moved (nextPc i t) []).state = .ready := h.ready
  have hg : ((clearReads t.cur t).setStrand t.cur ((own t).moved (nextPc i t) [])).strand t.cur = (own t).moved (nextPc i t) [] :=
    Table.get_set_self (d := ({} : Strand)) t.strands t.cur (Strand.ne_default hm)
  have hn : (((own t).moved (nextPc i t) []).xvec == 0 || ((own t).moved (nextPc i t) []).xin) = true := by
    have : (own t).xvec = 0 ∨ (own t).xin = true := by
      by_cases h0 : (own t).xvec = 0
      · exact .inl h0
      · exact .inr ((by simpa [canTrap] using hx : ¬(own t).xvec = 0 → (own t).xin = true) h0)
    simpa [Strand.moved] using this
  have he : (own t).moved (nextPc i t) [] = { own t with pc := nextPc i t } := by
    unfold Strand.moved own; rw [← h.pending]
  unfold takeTrap
  rw [hg, if_pos hn, he]
  rfl

/-- An instruction of no lookahead whose body faults: the trap is taken at once (10 R236, 11 R259). -/
theorem issue_trap {i : Instr} {body : Strand → Act Effect} {s t : State} {f : FaultInfo}
    (hv : (own s).view = none) (hb : (body (own s)).stops s (.trap f) t) (hp : plain t = true) (hc : t.cur = s.cur)
    (hx : canTrap t = true) :
    run i 0 (destsOf i) body s = .next (trapped f (parcelsOf i) (nextPc i t) t) := by
  have h := plain_facts hp
  simp only [canTrap, Bool.and_eq_true, bne_iff_ne, Bool.not_eq_true'] at hx
  rw [issue_faults hv hb hp hc]
  generalize hu : clearReads t.cur t = u
  have hget : ∀ (w : State) (y : Strand), y.state = .ready → (w.setStrand t.cur y).strand t.cur = y :=
    fun w y hy => Table.get_set_self (d := ({} : Strand)) w.strands t.cur (Strand.ne_default hy)
  have hset : ∀ (y z : Strand), y.state = .ready → (u.setStrand t.cur y).setStrand t.cur z = u.setStrand t.cur z := by
    intro y z hy
    simp only [State.setStrand]
    rw [Table.set_set _ _ _ _ (Strand.ne_default hy)]
  have hm : ((own t).moved (nextPc i t) []).state = .ready := h.ready
  have h0 : (((own t).moved (nextPc i t) []).xvec == 0 || ((own t).moved (nextPc i t) []).xin) = false := by
    simp only [Strand.moved, hx.2, Bool.or_false, beq_eq_false_iff_ne]
    exact hx.1
  unfold takeTrap
  rw [hget _ _ hm]
  simp only [h0, Bool.false_eq_true, if_false]
  rw [hset _ _ hm]
  have hz : ({ (own t).moved (nextPc i t) [] with
      xcause := f.cause, xparcels := parcelsOf i, xaddr := f.addr, xaux := f.aux, xpc := (own t).pc
      xresume := nextPc i t, xin := true, pc := ((own t).moved (nextPc i t) []).xvec } : Strand) = { own t with
      xcause := f.cause, xparcels := parcelsOf i, xaddr := f.addr, xaux := f.aux, xpc := (own t).pc
      xresume := nextPc i t, xin := true, pc := (own t).xvec } := by
    unfold Strand.moved
    rw [← show (own t).pending = [] from h.pending]
  rw [hz]
  generalize hy : ({ own t with
      xcause := f.cause, xparcels := parcelsOf i, xaddr := f.addr, xaux := f.aux, xpc := (own t).pc
      xresume := nextPc i t, xin := true, pc := (own t).xvec } : Strand) = y
  have hys : y.state = .ready := by rw [← hy]; exact h.ready
  have hcan : y.canIssue = true := by
    rw [← hy]
    unfold own
    simp [Strand.canIssue, blocked, h.ready, h.paused, h.yielded, h.redo, h.stopping, h.pending, h.view]
  have hcu : u.cur = t.cur := by rw [← hu]; rfl
  have hr : requeue t.cur (u.setStrand t.cur y) = cameTo u y := by
    unfold requeue
    simp only [hget _ _ hys, hcan, if_true]
    subst hu
    rfl
  have hr2 : requeue t.cur (cameTo u y) = cameTo u y := by
    have hg : (cameTo u y).strand t.cur = y := by
      rw [← hcu]
      exact Table.get_set_self (d := ({} : Strand)) u.strands u.cur (Strand.ne_default hys)
    unfold requeue
    simp only [hg, hcan, if_true]
    simp [cameTo, hcu, List.filter_append]
  rw [hr, hr2, ← hy, ← hu]
  rfl

/-! ## Bodies, one action after the other -/

theorem Act.gives_pure {α : Type} (v : α) (s : State) : (pure v : Act α).gives s v s := rfl
theorem Act.gives_get (s : State) : (get : Act State).gives s s s := rfl
theorem Act.gives_modify (f : State → State) (s : State) : (modify f : Act Unit).gives s () (f s) := rfl
theorem Act.gives_modifyGet {α : Type} (f : State → α × State) (s : State) :
    (modifyGet f : Act α).gives s (f s).1 (f s).2 := rfl
theorem Act.stops_throw {α : Type} (e : Stop) (s : State) : (throw e : Act α).stops s e s := rfl

theorem Act.gives_bind {α β : Type} {m : Act α} {f : α → Act β} {s t u : State} {v : α} {w : β}
    (h : m.gives s v t) (h2 : (f v).gives t w u) : (m >>= f).gives s w u := by
  unfold Act.gives at *
  show ExceptT.run (ExceptT.bind m f) s = _
  simp only [ExceptT.run, ExceptT.bind, ExceptT.mk, bind, StateT.bind] at *
  rw [h]
  exact h2

theorem Act.stops_bind {α β : Type} {m : Act α} {f : α → Act β} {s t : State} {e : Stop}
    (h : m.stops s e t) : (m >>= f).stops s e t := by
  unfold Act.stops at *
  show ExceptT.run (ExceptT.bind m f) s = _
  simp only [ExceptT.run, ExceptT.bind, ExceptT.mk, bind, StateT.bind] at *
  rw [h]
  rfl

theorem Act.stops_after {α β : Type} {m : Act α} {f : α → Act β} {s t u : State} {v : α} {e : Stop}
    (h : m.gives s v t) (h2 : (f v).stops t e u) : (m >>= f).stops s e u := by
  unfold Act.gives Act.stops at *
  show ExceptT.run (ExceptT.bind m f) s = _
  simp only [ExceptT.run, ExceptT.bind, ExceptT.mk, bind, StateT.bind] at *
  rw [h]
  exact h2

theorem Act.gives_map {α β : Type} {m : Act α} {f : α → β} {s t : State} {v : α} (h : m.gives s v t) :
    (f <$> m).gives s (f v) t := by
  rw [map_eq_pure_bind]
  exact Act.gives_bind h (Act.gives_pure _ _)

end Sys2Proof.Machine
end

