-- ==== Sys2Proof/Laws/Load.lean ====
section
/-!
SUPPORT. Load.lean: what loads and stores of the own scratchpad do: a load gives the bytes that stand there and leaves
the machine alone.
-/
namespace Sys2Proof.Machine

/-- A run of n bytes at va lies in the own scratchpad's window. -/
def ownRun (r : Nat × Nat) : Prop := scratchBase ≤ r.1 ∧ r.1 - scratchBase + r.2 ≤ scratchSize

theorem ownRun_facts {r : Nat × Nat} (h : ownRun r) :
    r.1 < 2 ^ 57 ∧ r.1 / 2 ^ 52 = 0x1F ∧ r.1 / 2 ^ 48 = 0x1F0 ∧ r.1 % 2 ^ 48 = r.1 - scratchBase := by
  obtain ⟨h1, h2⟩ := h
  simp only [scratchBase, scratchSize] at *
  omega

/-- The piece of a run of the own scratchpad. -/
def ownPiece (k : StrandId) (r : Nat × Nat) : Piece :=
  { target := .scratch k.core (r.1 - scratchBase), va := r.1, n := r.2 }

theorem resolveOne_own {k : StrandId} {acc : Acc} {last : Option (Nat × Place)} {r : Nat × Nat} (s : State)
    (ha : acc = .read ∨ acc = .write) (h : ownRun r) :
    (resolveOne k acc last r.1 r.2).gives s (.scratch k.core (r.1 - scratchBase), last) s := by
  obtain ⟨f1, f2, f3, f4⟩ := ownRun_facts h
  have hl : ∀ x, localTarget k x acc r.1 r.2 = .ok (.scratch k.core (r.1 - scratchBase)) := by
    intro x
    have h5 : ¬ scratchSize < r.1 - scratchBase + r.2 := by have := h.2; omega
    have f3' : r.1 / 281474976710656 = 496 := f3
    have f4' : r.1 % 281474976710656 = r.1 - scratchBase := f4
    rcases ha with rfl | rfl <;> simp [localTarget, f3', f4', h5]
  unfold resolveOne
  rw [if_neg (by omega), if_pos f2]
  refine Act.gives_bind (Act.gives_get s) ?_
  simp only [hl]
  exact Act.gives_pure _ _

theorem resolveFrom_own {k : StrandId} {acc : Acc} {last : Option (Nat × Place)} (reqs : List (Nat × Nat)) (s : State)
    (ha : acc = .read ∨ acc = .write) (h : ∀ r ∈ reqs, ownRun r) :
    (resolveFrom k acc last reqs).gives s (reqs.map (ownPiece k)) s := by
  induction reqs with
  | nil => exact Act.gives_pure _ _
  | cons r rs ih =>
    obtain ⟨va, n⟩ := r
    unfold resolveFrom
    refine Act.gives_bind (resolveOne_own s ha (h _ List.mem_cons_self)) ?_
    refine Act.gives_bind (ih fun r hr => h r (List.mem_cons_of_mem _ hr)) ?_
    exact Act.gives_pure _ _

theorem resolve_own {k : StrandId} {acc : Acc} (reqs : List (Nat × Nat)) (s : State)
    (ha : acc = .read ∨ acc = .write) (h : ∀ r ∈ reqs, ownRun r) :
    (resolve k acc reqs).gives s (reqs.map (ownPiece k)) s := by
  unfold resolve
  have : (reqs.flatMap fun r => if r.1 / 2 ^ 52 = 0x1F then [r] else cutLines (r.2 / 128 + 2) r.1 r.2) = reqs := by
    clear ha
    induction reqs with
    | nil => rfl
    | cons r rs ih =>
      rw [List.flatMap_cons, if_pos (ownRun_facts (h r List.mem_cons_self)).2.1,
        ih fun r hr => h r (List.mem_cons_of_mem _ hr)]
      rfl
  rw [this]
  exact resolveFrom_own reqs s ha h

/-- Bytes of the own scratchpad that a load finds. -/
def ownReadable (x : Core) (r : Nat × Nat) : Prop := scratchReads x (r.1 - scratchBase) r.2 = true ∧ scratchBase ≤ r.1

theorem ownReadable_run {x : Core} {r : Nat × Nat} (h : ownReadable x r) : ownRun r := by
  obtain ⟨h1, h2⟩ := h
  simp only [scratchReads, Bool.and_eq_true, decide_eq_true_eq] at h1
  exact ⟨h2, h1.1.1⟩

theorem readPiece_own {k : StrandId} {s : State} {r : Nat × Nat} (h : ownReadable (s.core k.core) r) :
    (readPiece k (ownPiece k r)).gives s ((s.core k.core).scratch.bytes (r.1 - scratchBase) r.2) s := by
  obtain ⟨h1, -⟩ := h
  simp only [scratchReads, Bool.and_eq_true, decide_eq_true_eq, Bool.not_eq_true'] at h1
  unfold readPiece
  simp only [ownPiece]
  refine Act.gives_bind (Act.gives_get s) ?_
  simp only [if_true, h1.1.2, h1.2]
  exact Act.gives_bind (Act.gives_pure _ _) (Act.gives_bind (Act.gives_pure _ _) (Act.gives_pure _ _))

theorem readPieces_own {k : StrandId} {s : State} (reqs : List (Nat × Nat))
    (h : ∀ r ∈ reqs, ownReadable (s.core k.core) r) :
    (readPieces k (reqs.map (ownPiece k))).gives s
      (reqs.map fun r => (r.1, (s.core k.core).scratch.bytes (r.1 - scratchBase) r.2)) s := by
  induction reqs with
  | nil => exact Act.gives_pure _ _
  | cons r rs ih =>
    simp only [List.map_cons, readPieces]
    refine Act.gives_bind (readPiece_own (h r List.mem_cons_self)) ?_
    refine Act.gives_bind (ih fun r hr => h r (List.mem_cons_of_mem _ hr)) ?_
    exact Act.gives_pure _ _

theorem forM_own {k : StrandId} {f : Piece → Act Unit} (reqs : List (Nat × Nat)) (s : State)
    (hf : ∀ r ∈ reqs, (f (ownPiece k r)).gives s () s) : ((reqs.map (ownPiece k)).forM f).gives s () s := by
  induction reqs with
  | nil => exact Act.gives_pure _ _
  | cons r rs ih =>
    simp only [List.map_cons]
    exact Act.gives_bind (hf r List.mem_cons_self) (ih fun r hr => hf r (List.mem_cons_of_mem _ hr))

theorem panelLoads_own {k : StrandId} {moving : Bool} {s : State} (reqs : List (Nat × Nat))
    (h : ∀ r ∈ s.panelReads, r.strand ≠ k) : (panelLoads k moving (reqs.map (ownPiece k))).gives s () s := by
  have hn : ∀ (q : PanelRead → Bool), (s.panelReads.find? fun r => r.strand == k && q r) = none := by
    intro q
    rw [List.find?_eq_none]
    intro r hr
    simp [h r hr]
  unfold panelLoads
  refine Act.gives_bind (forM_own reqs s fun r _ => by simp only [ownPiece, if_true]; exact Act.gives_pure _ _) ?_
  refine Act.gives_bind (Act.gives_get s) ?_
  have ha : (s.panelReads.any fun r => r.strand == k && r.reply.isNone) = false := by
    rw [List.any_eq_false]
    intro r hr
    simp [h r hr]
  simp only [ha, Bool.false_eq_true, if_false]
  refine Act.gives_bind (Act.gives_pure _ _) (forM_own reqs s fun r _ => ?_)
  have hr := hn fun x => x.target == k.core && (x.off == (r.1 - scratchBase) && x.size == r.2)
  simp only [Bool.and_assoc] at hr ⊢
  simp only [ownPiece, hr]
  exact Act.gives_pure _ _

theorem dropIfGone_own {c : CoreId} {s : State} (reqs : List (Nat × Nat)) (h : ∀ r ∈ reqs, ownRun r) :
    reqs.foldl (fun s r => dropIfGone c (r.1 / 128) s) s = s := by
  induction reqs with
  | nil => rfl
  | cons r rs ih =>
    obtain ⟨-, f2, -, -⟩ := ownRun_facts (h r List.mem_cons_self)
    have hz : r.1 / 128 / 2 ^ 45 = 0x1F := by rw [Nat.div_div_eq_div_mul]; exact f2
    have hd : dropIfGone c (r.1 / 128) s = s := by
      unfold dropIfGone
      rw [if_neg]
      have hz' : r.1 / 128 / 35184372088832 = 31 := hz
      simp [hz']
    rw [List.foldl_cons, hd]
    exact ih fun r hr => h r (List.mem_cons_of_mem _ hr)

theorem awaitAcquire_done {k : StrandId} {s : State} (h : acquired s k = true) : (awaitAcquire k).gives s () s := by
  simp only [acquired, Bool.not_eq_true'] at h
  unfold awaitAcquire
  refine Act.gives_bind (Act.gives_get s) ?_
  rw [h]
  exact Act.gives_pure _ _

theorem fixedLoad_own {k : StrandId} (reqs : List (Nat × Nat)) (s : State) :
    (fixedLoad k (reqs.map (ownPiece k))).gives s () s := by
  have hn : (reqs.map (ownPiece k)).find? (Piece.away k) = none := by
    rw [List.find?_eq_none]
    intro p hp
    obtain ⟨r, -, rfl⟩ := List.mem_map.1 hp
    simp [ownPiece, Piece.away]
  unfold fixedLoad
  refine Act.gives_bind (Act.gives_get s) ?_
  rw [hn]
  split <;> exact Act.gives_pure _ _

/-- A load of the own scratchpad gives what stands there, and leaves the machine alone (07 R162, 08 R191). -/
theorem load_own {k : StrandId} {s : State} (reqs : List (Nat × Nat))
    (h : ∀ r ∈ reqs, ownReadable (s.core k.core) r) (hp : ∀ r ∈ s.panelReads, r.strand ≠ k) (hq : acquired s k = true) :
    (load k .read reqs).gives s (reqs.map fun r => (r.1, (s.core k.core).scratch.bytes (r.1 - scratchBase) r.2)) s := by
  have hrun : ∀ r ∈ reqs, ownRun r := fun r hr => ownReadable_run (h r hr)
  unfold load
  rw [if_pos (by decide)]
  have hm : (modify fun s => reqs.foldl (fun s r => dropIfGone k.core (r.1 / 128) s) s : Act Unit).gives s () s := by
    have := Act.gives_modify (fun s => reqs.foldl (fun s r => dropIfGone k.core (r.1 / 128) s) s) s
    rw [dropIfGone_own reqs hrun] at this
    exact this
  dsimp only
  split
  · refine Act.gives_bind (awaitAcquire_done hq) (Act.gives_bind hm ?_)
    refine Act.gives_bind (resolve_own reqs s (.inl rfl) hrun) (Act.gives_bind (fixedLoad_own reqs s) ?_)
    exact Act.gives_bind (panelLoads_own (moving := false) reqs hp) (readPieces_own reqs h)
  · refine Act.gives_bind hm (Act.gives_bind (resolve_own reqs s (.inl rfl) hrun) ?_)
    refine Act.gives_bind (fixedLoad_own reqs s) ?_
    exact Act.gives_bind (panelLoads_own (moving := false) reqs hp) (readPieces_own reqs h)

/-! ## What was read, by address -/

theorem Memory.length_bytes (m : Memory) (a n : Nat) : (m.bytes a n).length = n := by
  induction n generalizing a with
  | zero => rfl
  | succ n ih => simp [Memory.bytes, ih]

theorem Memory.getD_bytes (m : Memory) (a n i : Nat) (h : i < n) : (m.bytes a n).getD i 0 = m.byte (a + i) := by
  induction n generalizing a i with
  | zero => omega
  | succ n ih =>
    cases i with
    | zero => rfl
    | succ i =>
      have := ih (a + 1) i (by omega)
      simp only [Memory.bytes, List.getD_cons_succ, this]
      congr 1
      omega

theorem Memory.bytes_eq_map (m : Memory) (a n : Nat) : m.bytes a n = (List.range n).map fun i => m.byte (a + i) := by
  apply List.ext_getElem
  · simp [Memory.length_bytes]
  · intro i h1 h2
    have h3 : i < n := by simpa [Memory.length_bytes] using h1
    have := Memory.getD_bytes m a n i h3
    rw [List.getD_eq_getElem?_getD, List.getElem?_eq_getElem h1] at this
    simpa using this

/-- One of the runs read of the own scratchpad is what stands there. -/
theorem gathered_own {m : Memory} (reqs : List (Nat × Nat)) (h : ∀ r ∈ reqs, scratchBase ≤ r.1) {r : Nat × Nat}
    (hr : r ∈ reqs) :
    gathered (reqs.map fun r => (r.1, m.bytes (r.1 - scratchBase) r.2)) r.1 r.2 = m.bytes (r.1 - scratchBase) r.2 := by
  rw [Memory.bytes_eq_map]
  unfold gathered
  apply List.map_congr_left
  intro i hi
  have hi' : i < r.2 := List.mem_range.1 hi
  generalize hl : (reqs.map fun r => (r.1, m.bytes (r.1 - scratchBase) r.2)) = l
  cases hf : l.find? (fun e => decide (e.1 ≤ r.1 + i) && decide (r.1 + i < e.1 + e.2.length)) with
  | none =>
    rw [List.find?_eq_none] at hf
    have := hf (r.1, m.bytes (r.1 - scratchBase) r.2) (hl ▸ List.mem_map.2 ⟨r, hr, rfl⟩)
    simp only [Memory.length_bytes, Bool.and_eq_true, decide_eq_true_eq, not_and, Nat.not_lt] at this
    exact absurd (this (by omega)) (by omega)
  | some e =>
    have h1 := List.find?_some hf
    have h2 := List.mem_of_find?_eq_some hf
    rw [← hl] at h2
    obtain ⟨q, hq, rfl⟩ := List.mem_map.1 h2
    simp only [Bool.and_eq_true, decide_eq_true_eq, Memory.length_bytes] at h1
    have h3 := h q hq
    have h4 := h r hr
    generalize scratchBase = b at h3 h4 ⊢
    have h5 : q.1 - b + (r.1 + i - q.1) = r.1 - b + i := by omega
    show (m.bytes (q.1 - b) q.2).getD (r.1 + i - q.1) 0 = m.byte (r.1 - b + i)
    rw [Memory.getD_bytes m (q.1 - b) q.2 (r.1 + i - q.1) (by omega), h5]

/-- Lanes in the own scratchpad are read, and the machine is left alone (12 R269). -/
theorem stripLanes_own {s : State} {p : BitVec 3} {w : Nat} {lanes : List Nat} (h : lanesReady s p w lanes = true) :
    (stripLanes s.cur (own s) w p lanes).gives s (laneFrom s p w lanes) s := by
  simp only [lanesReady, Bool.and_eq_true, decide_eq_true_eq, List.all_eq_true, bne_iff_ne] at h
  obtain ⟨⟨⟨⟨h1, h2⟩, hq⟩, h3⟩, h4⟩ := h
  have haddr : ∀ i ∈ lanes, (((own s).ptr p).base + BitVec.ofNat 64 (i * (w / 8))).toNat =
      ((own s).ptr p).base.toNat + i * (w / 8) := by
    intro i hi
    have h5 := h4 i hi
    simp only [scratchReads, Bool.and_eq_true, decide_eq_true_eq] at h5
    have h6 := h5.1.1
    simp only [scratchBase, scratchSize] at h1 h6
    have h7 := ((own s).ptr p).base.isLt
    rw [BitVec.toNat_add, BitVec.toNat_ofNat]
    omega
  unfold stripLanes
  dsimp only
  by_cases he : lanes = []
  · subst he
    exact Act.gives_pure _ _
  · rw [if_neg (by simpa using he), if_neg (by simpa using h2)]
    have hreqs : (lanes.map fun i => ((((own s).ptr p).base + BitVec.ofNat 64 (i * (w / 8))).toNat, w / 8)) =
        lanes.map fun i => (((own s).ptr p).base.toNat + i * (w / 8), w / 8) :=
      List.map_congr_left fun i hi => by rw [haddr i hi]
    have hread : ∀ r ∈ lanes.map fun i => (((own s).ptr p).base.toNat + i * (w / 8), w / 8),
        ownReadable (s.core s.cur.core) r := by
      intro r hr
      obtain ⟨i, hi, rfl⟩ := List.mem_map.1 hr
      refine ⟨?_, by show scratchBase ≤ _ + _; omega⟩
      have h5 := h4 i hi
      rwa [show ((own s).ptr p).base.toNat - scratchBase + i * (w / 8) =
        ((own s).ptr p).base.toNat + i * (w / 8) - scratchBase by omega] at h5
    rw [hreqs]
    refine Act.gives_bind (load_own _ hread h3 hq) ?_
    have hv : (fun i => if lanes.contains i then ofBytes (gathered ((lanes.map fun i =>
        (((own s).ptr p).base.toNat + i * (w / 8), w / 8)).map fun r =>
          (r.1, (s.core s.cur.core).scratch.bytes (r.1 - scratchBase) r.2))
        (((own s).ptr p).base + BitVec.ofNat 64 (i * (w / 8))).toNat (w / 8)) else 0) = laneFrom s p w lanes := by
      funext i
      unfold laneFrom laneAt
      split
      · rename_i hi
        have hm : i ∈ lanes := by simpa using hi
        rw [haddr i hm]
        have hg := gathered_own (m := (s.core s.cur.core).scratch)
          (lanes.map fun i => (((own s).ptr p).base.toNat + i * (w / 8), w / 8))
          (fun r hr => (hread r hr).2) (List.mem_map.2 ⟨i, hm, rfl⟩)
        simp only at hg
        rw [hg]
        unfold Memory.nat ownCore
        rw [show ((own s).ptr p).base.toNat - scratchBase + i * (w / 8) =
          ((own s).ptr p).base.toNat + i * (w / 8) - scratchBase by omega]
      · rfl
    rw [hv]
    exact Act.gives_pure _ _

end Sys2Proof.Machine
end

