-- ==== Sys2Proof/Laws/Reads.lean ====
section
/-!
SUPPORT. Reads.lean: reading memory changes what the machine caches and counts, and no strand and no byte (08 R183).
-/
namespace Sys2Proof.Machine

/-- No strand and no byte of memory differs. The scratchpads are compared where the table of cores is canonical
(log 2), and it stays so. -/
structure Quiet (s t : State) : Prop where
  strands : t.strands = s.strands
  cur : t.cur = s.cur
  dmem : t.dmem = s.dmem
  hostMem : t.package.hostMem = s.package.hostMem
  remoteMem : t.package.remoteMem = s.package.remoteMem
  scratch : Table.wf {} s.cores = true → Table.wf {} t.cores = true ∧ ∀ c, (t.core c).scratch = (s.core c).scratch

theorem Quiet.refl (s : State) : Quiet s s := ⟨rfl, rfl, rfl, rfl, rfl, fun h => ⟨h, fun _ => rfl⟩⟩

theorem Quiet.trans {s t u : State} (h : Quiet s t) (g : Quiet t u) : Quiet s u where
  strands := g.strands.trans h.strands
  cur := g.cur.trans h.cur
  dmem := g.dmem.trans h.dmem
  hostMem := g.hostMem.trans h.hostMem
  remoteMem := g.remoteMem.trans h.remoteMem
  scratch hw := ⟨(g.scratch (h.scratch hw).1).1, fun c => ((g.scratch (h.scratch hw).1).2 c).trans ((h.scratch hw).2 c)⟩

theorem Quiet.foldl {α : Type} (l : List α) (f : State → α → State) (s : State) (h : ∀ t, ∀ a ∈ l, Quiet t (f t a)) :
    Quiet s (l.foldl f s) := by
  induction l generalizing s with
  | nil => exact Quiet.refl s
  | cons a l ih =>
    exact (h s a List.mem_cons_self).trans (ih _ fun t b hb => h t b (List.mem_cons_of_mem _ hb))

/-- A core written whose scratchpad is as it was. -/
theorem quiet_setCore (s : State) (c : CoreId) (x : Core) (h : x.scratch = (s.core c).scratch) : Quiet s (s.setCore c x) where
  strands := rfl
  cur := rfl
  dmem := rfl
  hostMem := rfl
  remoteMem := rfl
  scratch hw := by
    refine ⟨Table.wf_set _ _ _ _ hw, fun d => ?_⟩
    by_cases hd : d = c
    · subst hd
      show (Table.get {} (Table.set {} s.cores d x) d).scratch = _
      rw [Table.get_set _ _ _ _ hw, h]
    · show (Table.get {} (Table.set {} s.cores c x) d).scratch = _
      rw [Table.get_set_ne _ _ _ hw hd]
      rfl

/-- What leaves the strands, the cores and every memory alone. -/
theorem quiet_of {s t : State} (h1 : t.strands = s.strands) (h2 : t.cur = s.cur) (h3 : t.dmem = s.dmem)
    (h4 : t.package.hostMem = s.package.hostMem) (h5 : t.package.remoteMem = s.package.remoteMem)
    (h6 : t.cores = s.cores) : Quiet s t :=
  ⟨h1, h2, h3, h4, h5, fun hw => by
    refine ⟨h6 ▸ hw, fun c => ?_⟩
    simp only [State.core, h6]⟩

theorem quiet_setPanel (s : State) (p : Nat) (x : Panel) : Quiet s (s.setPanel p x) := quiet_of rfl rfl rfl rfl rfl rfl
theorem quiet_setStack (s : State) (p : Nat) (x : Stack) : Quiet s (s.setStack p x) := quiet_of rfl rfl rfl rfl rfl rfl
theorem quiet_post (s : State) (i : Instr) (a : EventArg) : Quiet s (s.post i a) := quiet_of rfl rfl rfl rfl rfl rfl
theorem quiet_setSector (s : State) (k : Nat) (w : W64) : Quiet s (setSector s k w) := quiet_of rfl rfl rfl rfl rfl rfl
theorem quiet_fresh (s : State) : Quiet s s.fresh.2 := quiet_of rfl rfl rfl rfl rfl rfl

/-! ## Home slices -/

theorem quiet_disown (c : CoreId) (line : Nat) (w : BitVec 32) (s : State) : Quiet s (disown c line w s) :=
  quiet_setCore _ _ _ rfl

theorem quiet_recallSector (q : Nat) (s : State) : Quiet s (recallSector q s) := by
  unfold recallSector
  dsimp only
  repeat' split
  all_goals
    repeat first
      | exact Quiet.refl _
      | refine Quiet.trans ?_ (quiet_setSector _ _ _)
      | refine Quiet.trans ?_ (quiet_disown _ _ _ _)

theorem quiet_recallLine (l : Nat) (s : State) : Quiet s (recallLine l s) :=
  Quiet.foldl _ _ _ fun _ _ _ => quiet_recallSector _ _

theorem quiet_dramWrite (key : Nat) (s : State) : Quiet s (dramWrite key s) := by
  unfold dramWrite
  split
  · dsimp only
    split
    · split
      · exact quiet_setStack _ _ _
      · split
        · exact Quiet.refl _
        · exact quiet_setStack _ _ _
      · exact Quiet.refl _
    · exact Quiet.refl _
  · exact Quiet.refl _

theorem quiet_evictLine (x : HomeLine) (s : State) : Quiet s (evictLine x s) := by
  unfold evictLine
  dsimp only
  split
  · exact (quiet_recallLine _ _).trans (quiet_dramWrite _ _)
  · exact quiet_recallLine _ _

theorem quiet_setHomeLines (n set : Nat) (l : List HomeLine) (s : State) : Quiet s (setHomeLines n set l s) :=
  quiet_setStack _ _ _

theorem quiet_placeLine (key : Nat) (d : Bool) (n : Nat) (s : State) : Quiet s (placeLine key d n s) := by
  unfold placeLine
  dsimp only
  split
  · exact quiet_setHomeLines _ _ _ _
  · generalize makeRoom _ _ _ _ _ = r
    obtain ⟨l2, w, out⟩ := r
    have hq : Quiet s (out.foldl (fun s x => evictLine x s) s) := Quiet.foldl _ _ _ fun t x _ => quiet_evictLine x t
    revert hq
    dsimp only
    generalize out.foldl (fun s x => evictLine x s) s = t
    intro hq
    refine hq.trans ?_
    split
    · exact quiet_setHomeLines _ _ _ _
    · have hl := (quiet_setHomeLines (keyStack key) (homeSet s key) l2 t).trans (quiet_recallLine (key / 128) _)
      split
      · exact hl.trans (quiet_dramWrite _ _)
      · exact hl

theorem quiet_homeTouch (key : Nat) (w : Bool) (s : State) : Quiet s (homeTouch key w s) := by
  unfold homeTouch
  dsimp only
  split
  · exact quiet_placeLine _ _ _ _
  · split
    · exact (quiet_setHomeLines _ _ _ _).trans (quiet_placeLine _ _ _ _)
    · exact quiet_setHomeLines _ _ _ _

/-! ## The L1 -/

theorem quiet_deregister (c : CoreId) (q : Nat) (m : BitVec 8) (s : State) : Quiet s (deregister c q m s) :=
  quiet_setSector _ _ _

theorem quiet_releaseOwned (c : CoreId) (l : L1Line) (s : State) : Quiet s (releaseOwned c l s) := by
  unfold releaseOwned
  split
  · exact Quiet.refl _
  · refine Quiet.foldl _ _ _ fun t i _ => ?_
    dsimp only
    split
    · exact quiet_deregister _ _ _ _
    · exact Quiet.refl _

theorem quiet_l1Room {c : CoreId} {line : Nat} {s t : State} (h : l1Room c line s = some t) : Quiet s t := by
  simp only [l1Room] at h
  split at h
  · cases h; exact Quiet.refl _
  · obtain ⟨v, -, rfl⟩ := Option.map_eq_some_iff.mp h
    exact Quiet.trans (quiet_setCore s c ((s.core c).withL1 _) rfl) (quiet_releaseOwned _ _ _)

theorem quiet_l1Insert (c : CoreId) (n : L1Line) (s : State) : Quiet s (l1Insert c n s) := by
  unfold l1Insert
  split
  · next h => exact (quiet_l1Room h).trans (quiet_setCore _ _ _ rfl)
  · exact Quiet.refl _

theorem quiet_acquire (c : CoreId) (s : State) : Quiet s (acquire c s) := quiet_setCore _ _ _ rfl

theorem quiet_dropIfGone (c : CoreId) (l : Nat) (s : State) : Quiet s (dropIfGone c l s) := by
  unfold dropIfGone
  dsimp only
  split
  · exact quiet_setCore _ _ _ rfl
  · exact Quiet.refl _

/-! ## Translation -/

theorem quiet_countRegion (panel region stack : Nat) (s : State) : Quiet s (countRegion panel region stack s) :=
  quiet_setPanel _ _ _
theorem quiet_countPage (panel page kind : Nat) (s : State) : Quiet s (countPage panel page kind s) := quiet_setPanel _ _ _

theorem quiet_queueRead (key : Nat) (f : Option (CoreId × Nat)) (s : State) : Quiet s (queueRead key f s) := by
  unfold queueRead queueRequest
  dsimp only
  split
  · exact Quiet.refl _
  · split
    · exact Quiet.refl _
    · exact quiet_of rfl rfl rfl rfl rfl rfl

theorem quiet_walkReads (panel : Nat) (w : Walk) (pas : List Nat) (s : State) : Quiet s (walkReads panel w pas s) := by
  unfold walkReads
  have h := Quiet.foldl pas (fun s pa =>
    homeTouch (regionKey (paEntry s pa) pa) false
      (countRegion panel (pa / 2 ^ 21) (keyStack (regionKey (paEntry s pa) pa)) s)) s
    fun t pa _ => (quiet_countRegion _ _ _ _).trans (quiet_homeTouch _ _ _)
  split
  · exact h.trans (quiet_queueRead _ _ _)
  · exact h

theorem quiet_translate (panel va : Nat) (s : State) : Quiet s (translate panel va s).2 := by
  unfold translate
  split
  · exact Quiet.refl _
  · generalize walkFrom s panel va 3 s.package.ptroot.toNat = r
    obtain ⟨w, l, pas⟩ := r
    have h := quiet_walkReads panel w pas s
    revert h
    dsimp only
    generalize walkReads panel w pas s = t
    intro h
    cases w <;> exact h.trans (quiet_setPanel _ _ _)

theorem quiet_outgoing (cls pkg : Nat) (s : State) : Quiet s (outgoing cls pkg s) := by
  unfold outgoing
  split
  · exact Quiet.refl _
  · exact quiet_of rfl rfl rfl rfl rfl rfl

theorem quiet_countLine (panel va : Nat) (p : Place) (s : State) : Quiet s (countLine panel va p s) := by
  unfold countLine
  split
  · dsimp only
    refine Quiet.trans ?_ (quiet_countPage _ _ _ _)
    split
    · exact quiet_countRegion _ _ _ _
    · exact Quiet.refl _
  · exact (quiet_countPage _ _ _ _).trans (quiet_outgoing _ _ _)
  · exact quiet_countPage _ _ _ _
  · exact Quiet.refl _

theorem quiet_placeAt (panel : Nat) (acc : Acc) (va : Nat) (s : State) : Quiet s (placeAt panel acc va s).2 := by
  have ht := quiet_translate panel va s
  unfold placeAt
  revert ht
  generalize translate panel va s = r
  obtain ⟨w, t⟩ := r
  intro ht
  cases w <;> exact ht

theorem quiet_plbUsed (c : CoreId) (i : Nat) (s : State) : Quiet s (plbUsed c i s) := quiet_setCore _ _ _ rfl
theorem quiet_plbLoad (c : CoreId) (e : BitVec 128) (s : State) : Quiet s (plbLoad c e s) := by
  refine Quiet.trans ?_ (quiet_plbUsed _ _ _)
  exact quiet_setCore _ _ _ rfl

theorem quiet_plbLookup (c : CoreId) (d : BitVec 16) (va : Nat) (s : State) : Quiet s (plbLookup c d va s).2 := by
  unfold plbLookup
  split
  · exact quiet_plbUsed _ _ _
  · have ht := quiet_translate c.panel va s
    revert ht
    generalize translate c.panel va s = r
    obtain ⟨w, t⟩ := r
    intro ht
    dsimp only at ht ⊢
    split
    all_goals first | exact ht | exact ht.trans (quiet_plbLoad _ _ _)

/-! ## Bodies that read -/

/-- Where it succeeds, the body leaves every strand and every byte alone. -/
def Act.quiet {α : Type} (m : Act α) : Prop := ∀ s v t, m.gives s v t → Quiet s t

theorem Act.bind_inv {α β : Type} {m : Act α} {f : α → Act β} {s u : State} {w : β} (h : (m >>= f).gives s w u) :
    ∃ v t, m.gives s v t ∧ (f v).gives t w u := by
  unfold Act.gives at *
  rcases hr : ExceptT.run m s with ⟨r, t⟩
  cases r with
  | ok v =>
    refine ⟨v, t, rfl, ?_⟩
    have h2 := h
    change ExceptT.run (ExceptT.bind m f) s = _ at h2
    simp only [ExceptT.run, ExceptT.bind, ExceptT.mk, bind, StateT.bind] at h2 hr
    rw [hr] at h2
    exact h2
  | error e =>
    exfalso
    have h2 := h
    change ExceptT.run (ExceptT.bind m f) s = _ at h2
    simp only [ExceptT.run, ExceptT.bind, ExceptT.mk, bind, StateT.bind] at h2 hr
    rw [hr] at h2
    have h3 := congrArg Prod.fst h2
    cases h3

theorem Act.quiet_bind {α β : Type} {m : Act α} {f : α → Act β} (h : m.quiet) (g : ∀ v, (f v).quiet) : (m >>= f).quiet := by
  intro s w u hu
  obtain ⟨v, t, h1, h2⟩ := Act.bind_inv hu
  exact (h _ _ _ h1).trans (g v _ _ _ h2)

theorem Act.quiet_pure {α : Type} (v : α) : (pure v : Act α).quiet := by
  intro s w t h
  cases h
  exact Quiet.refl s
theorem Act.quiet_get : (get : Act State).quiet := by
  intro s w t h
  cases h
  exact Quiet.refl s
theorem Act.quiet_throw {α : Type} (e : Stop) : (throw e : Act α).quiet := by
  intro s w t h
  cases congrArg Prod.fst h
theorem Act.quiet_trapAt {α : Type} (c : Nat) (a : W64) : (trapAt c a : Act α).quiet := Act.quiet_throw _
theorem Act.quiet_modify {f : State → State} (h : ∀ s, Quiet s (f s)) : (modify f : Act Unit).quiet := by
  intro s w t ht
  cases ht
  exact h s
theorem Act.quiet_modifyGet {α : Type} {f : State → α × State} (h : ∀ s, Quiet s (f s).2) : (modifyGet f : Act α).quiet := by
  intro s w t ht
  cases ht
  exact h s
theorem Act.quiet_forM {α : Type} (l : List α) {f : α → Act Unit} (h : ∀ a, (f a).quiet) : (l.forM f).quiet := by
  induction l with
  | nil => exact Act.quiet_pure _
  | cons a l ih => exact Act.quiet_bind (h a) fun _ => ih

/-- A body that never succeeds. -/
def Act.fails {α : Type} (m : Act α) : Prop := ∀ s v t, ¬ m.gives s v t
theorem Act.fails_quiet {α : Type} {m : Act α} (h : m.fails) : m.quiet := fun s v t g => absurd g (h s v t)
theorem Act.fails_throw {α : Type} (e : Stop) : (throw e : Act α).fails := by
  intro s w t h
  cases congrArg Prod.fst h
theorem Act.fails_left {α β : Type} {m : Act α} {f : α → Act β} (h : m.fails) : (m >>= f).fails := by
  intro s w u g
  obtain ⟨v, t, h1, -⟩ := Act.bind_inv g
  exact h _ _ _ h1
theorem Act.fails_right {α β : Type} {m : Act α} {f : α → Act β} (h : ∀ v, (f v).fails) : (m >>= f).fails := by
  intro s w u g
  obtain ⟨v, t, -, h1⟩ := Act.bind_inv g
  exact h _ _ _ _ h1

theorem quiet_strandPage (k : StrandId) (acc : Acc) (va n : Nat) : (strandPage k acc va n).quiet := by
  unfold strandPage
  refine Act.quiet_bind Act.quiet_get fun s => ?_
  refine Act.quiet_bind (Act.quiet_modifyGet fun s => quiet_plbLookup _ _ _ s) fun r => ?_
  split
  · exact Act.fails_quiet (Act.fails_right fun _ => Act.fails_throw _)
  · split
    · exact Act.quiet_trapAt _ _
    · refine Act.quiet_bind Act.quiet_get fun s => ?_
      dsimp only
      split
      · exact Act.quiet_pure _
      · refine Act.quiet_bind (Act.quiet_modifyGet fun s => quiet_placeAt _ _ _ s) fun r => ?_
        split
        · exact Act.fails_quiet (Act.fails_right fun _ => Act.fails_throw _)
        · refine Act.quiet_bind Act.quiet_get fun s => ?_
          split
          · refine Act.quiet_bind Act.quiet_get fun s => ?_
            split
            · exact Act.fails_quiet (Act.fails_right fun _ => Act.fails_throw _)
            · exact Act.quiet_pure _
          · exact Act.quiet_pure _

theorem quiet_resolveOne (k : StrandId) (acc : Acc) (last : Option (Nat × Place)) (va n : Nat) :
    (resolveOne k acc last va n).quiet := by
  have hf : ∀ l, (resolveOne.fresh k acc va n l).quiet := fun l =>
    Act.quiet_bind (quiet_strandPage _ _ _ _) fun _ => Act.quiet_pure _
  unfold resolveOne
  split
  · exact Act.quiet_trapAt _ _
  · split
    · refine Act.quiet_bind Act.quiet_get fun s => ?_
      split
      · exact Act.quiet_pure _
      · exact Act.quiet_trapAt _ _
    · dsimp only
      split
      · split
        · exact Act.quiet_pure _
        · exact hf _
      · exact hf _

theorem quiet_resolveFrom (k : StrandId) (acc : Acc) (last : Option (Nat × Place)) (rs : List (Nat × Nat)) :
    (resolveFrom k acc last rs).quiet := by
  induction rs generalizing last with
  | nil => exact Act.quiet_pure _
  | cons r rs ih =>
    obtain ⟨va, n⟩ := r
    unfold resolveFrom
    refine Act.quiet_bind (quiet_resolveOne _ _ _ _ _) fun v => ?_
    obtain ⟨t, l⟩ := v
    exact Act.quiet_bind (ih _) fun _ => Act.quiet_pure _

theorem quiet_resolve (k : StrandId) (acc : Acc) (rs : List (Nat × Nat)) : (resolve k acc rs).quiet :=
  quiet_resolveFrom _ _ _ _

theorem quiet_panelAsk (k : StrandId) (c : CoreId) (off n : Nat) (s : State) : Quiet s (panelAsk k c off n s) := by
  unfold panelAsk
  split
  · exact Quiet.refl _
  · exact quiet_of rfl rfl rfl rfl rfl rfl

theorem quiet_panelLoads (k : StrandId) (moving : Bool) (ps : List Piece) : (panelLoads k moving ps).quiet := by
  unfold panelLoads
  refine Act.quiet_bind (Act.quiet_forM _ fun p => ?_) fun _ => ?_
  · split
    · split
      · exact Act.quiet_pure _
      · exact Act.quiet_modify fun s => quiet_panelAsk _ _ _ _ s
    · exact Act.quiet_pure _
  · refine Act.quiet_bind Act.quiet_get fun s => ?_
    dsimp only
    split
    · exact Act.fails_quiet (Act.fails_left (Act.fails_throw _))
    · refine Act.quiet_forM _ fun p => ?_
      split
      · split
        · split
          · split
            · exact Act.quiet_pure _
            · exact Act.quiet_throw _
          · exact Act.quiet_pure _
        · exact Act.quiet_pure _
      · exact Act.quiet_pure _

theorem quiet_checkSector (k : StrandId) (va key : Nat) (r : Bool) : (checkSector k va key r).quiet := by
  unfold checkSector
  refine Act.quiet_bind Act.quiet_get fun s => ?_
  dsimp only
  split
  · exact Act.quiet_throw _
  · split
    · exact Act.quiet_throw _
    · exact Act.quiet_pure _

theorem quiet_l1Fill (c : CoreId) (va : Nat) (p : Place) (s : State) : Quiet s (l1Fill c va p s) := by
  unfold l1Fill
  refine Quiet.trans ?_ (quiet_l1Insert _ _ _)
  refine (quiet_countLine c.panel va p s).trans ?_
  split
  · exact quiet_homeTouch _ _ _
  · exact Quiet.refl _

theorem quiet_l1Used (c : CoreId) (l : L1Line) (s : State) : Quiet s (l1Used c l s) := by
  unfold l1Used
  dsimp only
  split
  · exact Quiet.refl _
  · exact quiet_setCore _ _ _ rfl

theorem quiet_miss (k : StrandId) (va : Nat) (p : Place) : (readBytes.miss k va p).quiet := by
  unfold readBytes.miss
  refine Act.quiet_bind Act.quiet_get fun s => ?_
  dsimp only
  split
  · exact Act.fails_quiet (Act.fails_left (Act.fails_throw _))
  · split
    · refine Act.quiet_bind Act.quiet_get fun s => ?_
      split
      · exact Act.fails_quiet (Act.fails_right fun _ => Act.fails_left (Act.fails_throw _))
      · exact Act.quiet_modify fun s => quiet_l1Fill _ _ _ s
    · exact Act.quiet_modify fun s => quiet_l1Fill _ _ _ s

theorem quiet_readBytes (k : StrandId) (va : Nat) (p : Place) (n : Nat) : (readBytes k va p n).quiet := by
  unfold readBytes
  refine Act.quiet_bind Act.quiet_get fun s => ?_
  dsimp only
  split
  · split
    · exact Act.quiet_bind (Act.quiet_modify fun s => quiet_l1Used _ _ s) fun _ =>
        Act.quiet_bind Act.quiet_get fun _ => Act.quiet_pure _
    · exact Act.quiet_bind (quiet_miss _ _ _) fun _ => Act.quiet_bind Act.quiet_get fun _ => Act.quiet_pure _
  · exact Act.quiet_bind (quiet_miss _ _ _) fun _ => Act.quiet_bind Act.quiet_get fun _ => Act.quiet_pure _

theorem quiet_readLine (k : StrandId) (va : Nat) (p : Place) (n : Nat) : (readLine k va p n).quiet := by
  unfold readLine
  dsimp only
  split
  · exact Act.quiet_bind (Act.quiet_forM _ fun _ => quiet_checkSector _ _ _ _) fun _ => quiet_readBytes _ _ _ _
  · exact quiet_readBytes _ _ _ _

theorem quiet_readMem (k : StrandId) (va : Nat) (p : Place) (n : Nat) : (readMem k va p n).quiet := by
  unfold readMem
  refine Act.quiet_bind (quiet_readLine _ _ _ _) fun l => ?_
  dsimp only
  split
  · exact Act.fails_quiet (Act.fails_left (Act.fails_throw _))
  · exact Act.quiet_pure _

theorem quiet_ctlRead (s : State) (r : CtlReg) : Quiet s (ctlRead s r).2 := by
  cases r <;> first | exact Quiet.refl _ | exact quiet_setPanel _ _ _ | exact quiet_setCore _ _ _ rfl

theorem quiet_readPiece (k : StrandId) (p : Piece) : (readPiece k p).quiet := by
  unfold readPiece
  repeat' first
    | with_reducible exact Act.quiet_pure _
    | with_reducible exact Act.quiet_throw _
    | with_reducible exact Act.quiet_trapAt _ _
    | with_reducible exact quiet_readMem _ _ _ _
    | with_reducible exact Act.fails_quiet (Act.fails_left (Act.fails_throw _))
    | with_reducible refine Act.quiet_bind Act.quiet_get fun _ => ?_
    | with_reducible refine Act.quiet_bind (Act.quiet_modifyGet fun s => quiet_ctlRead s _) fun _ => ?_
    | split
    | dsimp only

theorem quiet_readPieces (k : StrandId) (ps : List Piece) : (readPieces k ps).quiet := by
  induction ps with
  | nil => exact Act.quiet_pure _
  | cons p ps ih =>
    unfold readPieces
    exact Act.quiet_bind (quiet_readPiece _ _) fun _ => Act.quiet_bind ih fun _ => Act.quiet_pure _

theorem quiet_awaitAcquire (k : StrandId) : (awaitAcquire k).quiet := by
  unfold awaitAcquire
  refine Act.quiet_bind Act.quiet_get fun s => ?_
  split
  · exact Act.quiet_throw _
  · exact Act.quiet_pure _

theorem quiet_fixedLoad (k : StrandId) (ps : List Piece) : (fixedLoad k ps).quiet := by
  unfold fixedLoad
  refine Act.quiet_bind Act.quiet_get fun s => ?_
  split
  · split
    · exact Act.quiet_trapAt _ _
    · exact Act.quiet_pure _
  · exact Act.quiet_pure _

/-- A load changes no strand and no byte. -/
theorem quiet_load (k : StrandId) (acc : Acc) (rs : List (Nat × Nat)) : (load k acc rs).quiet := by
  have hd : ∀ s : State, Quiet s (rs.foldl (fun s r => dropIfGone k.core (r.1 / 128) s) s) :=
    fun s => Quiet.foldl _ _ _ fun _ _ _ => quiet_dropIfGone _ _ _
  unfold load
  repeat' first
    | with_reducible exact Act.quiet_trapAt _ _
    | with_reducible exact quiet_readPieces _ _
    | with_reducible exact Act.fails_quiet (Act.fails_left (Act.fails_throw _))
    | with_reducible refine Act.quiet_bind Act.quiet_get fun _ => ?_
    | with_reducible refine Act.quiet_bind (Act.quiet_modify hd) fun _ => ?_
    | with_reducible refine Act.quiet_bind (quiet_awaitAcquire _) fun _ => ?_
    | with_reducible refine Act.quiet_bind (quiet_resolve _ _ _) fun _ => ?_
    | with_reducible refine Act.quiet_bind (quiet_fixedLoad _ _) fun _ => ?_
    | with_reducible refine Act.quiet_bind (quiet_panelLoads _ _ _) fun _ => ?_
    | split

theorem quiet_stripLanes (k : StrandId) (x : Strand) (w : Nat) (p : BitVec 3) (lanes : List Nat) :
    (stripLanes k x w p lanes).quiet := by
  unfold stripLanes
  repeat' first
    | with_reducible exact Act.quiet_pure _
    | with_reducible exact Act.quiet_trapAt _ _
    | with_reducible exact Act.quiet_bind (quiet_load _ _ _) fun _ => Act.quiet_pure _
    | split
    | dsimp only

theorem quiet_popChannel (k : StrandId) (x : Strand) (c : Nat) : (popChannel k x c).quiet := by
  unfold popChannel
  have hm : ∀ (id : Nat) (s : State), Quiet s (acquire k.core (s.setCore k.core
      (Core.freeClosed { s.core k.core with mailbox := (s.core k.core).mailbox.filter fun q => q.id != id }))) := by
    intro id s
    refine Quiet.trans ?_ (quiet_acquire _ _)
    exact quiet_setCore _ _ _ rfl
  repeat' first
    | with_reducible exact Act.quiet_pure _
    | with_reducible exact Act.quiet_throw _
    | with_reducible exact Act.quiet_trapAt _ _
    | with_reducible exact Act.fails_quiet (Act.fails_left (Act.fails_throw _))
    | with_reducible refine Act.quiet_bind Act.quiet_get fun _ => ?_
    | with_reducible refine Act.quiet_bind (Act.quiet_modify (hm _)) fun _ => ?_
    | split

theorem quiet_operandB (k : StrandId) (x : Strand) (o : LaneOps) (w : Nat) (lanes : List Nat) :
    (operandB k x o w lanes).quiet := by
  unfold operandB
  split
  · exact Act.quiet_bind (quiet_popChannel _ _ _) fun _ => Act.quiet_pure _
  · exact quiet_stripLanes _ _ _ _ _

/-- Reading the operands of a format-V instruction changes no strand and no byte. -/
theorem quiet_operandsOf (o : LaneOps) (ra rb : LaneOps → Strand → Option (List Nat)) (k : StrandId) (x : Strand) :
    (operandsOf o ra rb k x).quiet := by
  unfold operandsOf
  repeat' first
    | with_reducible exact Act.quiet_pure _
    | with_reducible refine Act.quiet_bind (quiet_stripLanes _ _ _ _ _) fun _ => ?_
    | with_reducible refine Act.quiet_bind (quiet_operandB _ _ _ _ _) fun _ => ?_
    | with_reducible refine Act.quiet_bind (Act.quiet_pure _) fun _ => ?_
    | split

/-- What a quiet body leaves of the strand in hand. -/
theorem Quiet.plain {s t : State} (h : Quiet s t) (hp : plain s = true) :
    plain t = true ∧ t.cur = s.cur ∧ own t = own s := by
  have he : ∀ j, t.strand j = s.strand j := fun j => by simp only [State.strand, h.strands]
  refine ⟨?_, h.cur, ?_⟩
  · unfold Sys2Proof.Machine.plain at hp ⊢
    rw [h.cur, he]
    exact hp
  · unfold own
    rw [h.cur, he]

/-- A format-V instruction whose result is simple completes wherever its operands are read. -/
theorem laneRuns_of {i : Instr} {o : LaneOps} {ra rb : LaneOps → Strand → Option (List Nat)} {f : LaneResult}
    (he : ∀ s, exec i s = run i 0 (destsOf i) (laneBody o ra rb f) s)
    (hs : ∀ x a b, (f x a b).all RegWrite.simple = true) : laneRuns i o ra rb f := by
  intro s t v hp hv
  obtain ⟨h1, h2, h3⟩ := (quiet_operandsOf _ _ _ _ _ _ _ _ hv).plain hp
  rw [he]
  have hb : (laneBody o ra rb f (own s)).gives s { ws := f (own s) v.1 v.2 ++ laneBumps o (own s) } t :=
    Act.gives_bind (Act.gives_get s) (Act.gives_bind hv (Act.gives_pure _ _))
  rw [issue_after (i := i) (la := 0) (plain_facts hp).view hb h1 h2 (by
    simp only [List.all_append, hs, Bool.true_and]
    unfold laneBumps bump
    repeat' split
    all_goals rfl) rfl rfl]
  rfl

theorem resultWrites_simple (r : Strip × Nat) : (resultWrites r).all RegWrite.simple = true := by
  unfold resultWrites flagWrite
  split <;> rfl

theorem cmpResult_simple (kd : BitVec 2) (o : LaneOps) (rel : CmpFn) (x : Strand) (a b : Nat → Nat) :
    (cmpResult kd o rel x a b).all RegWrite.simple = true := by
  unfold cmpResult flagWrite
  dsimp only
  split <;> rfl

end Sys2Proof.Machine
end

