-- ==== Sys2Proof/Laws/Stores.lean ====
section
/-!
SUPPORT. Stores.lean: a store changes no strand; a store to the own scratchpad writes its bytes there and nothing else.
-/
namespace Sys2Proof.Machine

/-- No strand differs. -/
structure Calm (s t : State) : Prop where
  strands : t.strands = s.strands
  cur : t.cur = s.cur

theorem Calm.refl (s : State) : Calm s s := ⟨rfl, rfl⟩
theorem Calm.trans {s t u : State} (h : Calm s t) (g : Calm t u) : Calm s u :=
  ⟨g.strands.trans h.strands, g.cur.trans h.cur⟩
theorem Quiet.calm {s t : State} (h : Quiet s t) : Calm s t := ⟨h.strands, h.cur⟩

/-- What a calm body leaves of the strand in hand. -/
theorem Calm.plain {s t : State} (h : Calm s t) (hp : plain s = true) :
    plain t = true ∧ t.cur = s.cur ∧ own t = own s := by
  have he : ∀ j, t.strand j = s.strand j := fun j => by simp only [State.strand, h.strands]
  refine ⟨?_, h.cur, ?_⟩
  · unfold Sys2Proof.Machine.plain at hp ⊢
    rw [h.cur, he]
    exact hp
  · unfold own
    rw [h.cur, he]

theorem Calm.foldl {α : Type} (l : List α) (f : State → α → State) (s : State) (h : ∀ t a, Calm t (f t a)) :
    Calm s (l.foldl f s) := by
  induction l generalizing s with
  | nil => exact Calm.refl s
  | cons a l ih => exact (h s a).trans (ih _)

/-- Where it succeeds, the body changes no strand. -/
def Act.calm {α : Type} (m : Act α) : Prop := ∀ s v t, m.gives s v t → Calm s t

theorem Act.quiet.calm {α : Type} {m : Act α} (h : m.quiet) : m.calm := fun s v t g => (h s v t g).calm
theorem Act.calm_bind {α β : Type} {m : Act α} {f : α → Act β} (h : m.calm) (g : ∀ v, (f v).calm) : (m >>= f).calm := by
  intro s w u hu
  obtain ⟨v, t, h1, h2⟩ := Act.bind_inv hu
  exact (h _ _ _ h1).trans (g v _ _ _ h2)
theorem Act.calm_pure {α : Type} (v : α) : (pure v : Act α).calm := (Act.quiet_pure v).calm
theorem Act.calm_get : (get : Act State).calm := Act.quiet_get.calm
theorem Act.calm_fails {α : Type} {m : Act α} (h : m.fails) : m.calm := (Act.fails_quiet h).calm
theorem Act.calm_throw {α : Type} (e : Stop) : (throw e : Act α).calm := (Act.quiet_throw e).calm
theorem Act.calm_trapAt {α : Type} (c : Nat) (a : W64) : (trapAt c a : Act α).calm := Act.calm_throw _
theorem Act.calm_modify {f : State → State} (h : ∀ s, Calm s (f s)) : (modify f : Act Unit).calm := by
  intro s w t ht
  cases ht
  exact h s
theorem Act.calm_modifyGet {α : Type} {f : State → α × State} (h : ∀ s, Calm s (f s).2) : (modifyGet f : Act α).calm := by
  intro s w t ht
  cases ht
  exact h s
theorem Act.calm_forM {α : Type} (l : List α) {f : α → Act Unit} (h : ∀ a, (f a).calm) : (l.forM f).calm := by
  induction l with
  | nil => exact Act.calm_pure _
  | cons a l ih => exact Act.calm_bind (h a) fun _ => ih

theorem Act.calm_mapM {α β : Type} (l : List α) {f : α → Act β} (h : ∀ a, (f a).calm) : (l.mapM f).calm := by
  induction l with
  | nil => rw [List.mapM_nil]; exact Act.calm_pure _
  | cons a l ih =>
    rw [List.mapM_cons]
    exact Act.calm_bind (h a) fun _ => Act.calm_bind ih fun _ => Act.calm_pure _

theorem calm_checkStore (k : StrandId) (p : Piece) : (checkStore k p).calm := by
  unfold checkStore
  repeat' first
    | with_reducible exact Act.calm_pure _
    | with_reducible exact Act.calm_throw _
    | with_reducible exact Act.calm_trapAt _ _
    | with_reducible exact Act.calm_fails (Act.fails_left (Act.fails_throw _))
    | with_reducible refine Act.calm_bind Act.calm_get fun _ => ?_
    | with_reducible exact Act.calm_forM _ fun _ => (quiet_checkSector _ _ _ _).calm
    | with_reducible refine Act.calm_bind (Act.calm_trapAt _ _) fun _ => ?_
    | split
    | dsimp only

theorem calm_sendStores (k : StrandId) (reply : Nat) (bad : Nat → Bool) (va : Nat) (bs : List (Place × Byte)) (s : State) :
    Calm s (sendStores k reply bad va bs s) := by
  refine Calm.trans (Calm.foldl (bs.head?.toList) (fun s b => countLine k.core.panel va b.1 s) s fun _ _ =>
    (quiet_countLine _ _ _ _).calm) ?_
  exact Calm.foldl _ _ _ fun _ _ => ⟨rfl, rfl⟩

theorem calm_bufferBytes (k : StrandId) (bad : Nat → Bool) (va key : Nat) (bs : List Byte) (s : State) :
    Calm s (bufferBytes k bad va key bs s) := by
  refine Calm.trans (t := (l1Room k.core (va / 128) s).getD s) ?_ ⟨rfl, rfl⟩
  cases h : l1Room k.core (va / 128) s with
  | none => exact Calm.refl s
  | some t => exact (quiet_l1Room h).calm

theorem calm_sendPiece (k : StrandId) (id : Nat) (bad : Nat → Bool) (p : Piece) (bs : List Byte) (s : State) :
    Calm s (sendPiece k id bad p bs s) := by
  unfold sendPiece
  split
  · split
    · exact ⟨rfl, rfl⟩
    · exact ⟨rfl, rfl⟩
  · exact ⟨rfl, rfl⟩
  · split
    · exact calm_bufferBytes _ _ _ _ _ _
    · exact calm_sendStores _ _ _ _ _ _
  · exact calm_sendStores _ _ _ _ _ _
  · exact calm_sendStores _ _ _ _ _ _
  · exact Calm.refl _

theorem calm_fixedRoom (k : StrandId) (ps : List Piece) : (fixedRoom k ps).calm := by
  unfold fixedRoom
  refine Act.calm_bind Act.calm_get fun s => ?_
  split
  · split
    · exact Act.calm_trapAt _ _
    · exact Act.calm_pure _
  · exact Act.calm_pure _

theorem calm_windowChecks (k : StrandId) (ps : List Piece) : (windowChecks k ps).calm := by
  unfold windowChecks
  refine Act.calm_bind Act.calm_get fun s => ?_
  split
  · refine Act.calm_forM _ fun p => ?_
    split
    · split
      · exact Act.calm_trapAt _ _
      · exact Act.calm_pure _
    · exact Act.calm_pure _
  · exact Act.calm_pure _

theorem calm_storeChecks (k : StrandId) (ps : List Piece) : (storeChecks k ps).calm := by
  have h : (do ps.forM fun p => checkStore k p; fixedRoom k ps; windowChecks k ps : Act Unit).calm :=
    Act.calm_bind (Act.calm_forM _ fun _ => calm_checkStore _ _) fun _ =>
      Act.calm_bind (calm_fixedRoom _ _) fun _ => calm_windowChecks _ _
  unfold storeChecks
  split
  · exact Act.calm_bind (quiet_awaitAcquire _).calm fun _ => h
  · exact h

theorem calm_scratchSpoil (c : CoreId) (l : List Nat) (s : State) : Calm s (scratchSpoil c l s) := by
  unfold scratchSpoil
  dsimp only
  split <;> exact ⟨rfl, rfl⟩

/-- A store changes no strand, wherever its pieces go. -/
theorem calm_storePieces (k : StrandId) (bad : Nat → Bool) (l : List (Piece × List Byte)) : (storePieces k bad l).calm := by
  have hm : ∀ (id : Nat) (s : State), Calm s (l.foldl (fun s e =>
      match e.1.target with
      | .scratch c _ => if c = k.core then s else sendPiece k id bad e.1 e.2 s
      | _ => sendPiece k id bad e.1 e.2 s) (scratchSpoil k.core (ownBad k bad l) (scratchStore k.core (ownBytes k l) s))) := by
    intro id s
    refine Calm.trans (t := scratchSpoil k.core (ownBad k bad l) (scratchStore k.core (ownBytes k l) s)) ?_
      (Calm.foldl _ _ _ fun t e => ?_)
    · refine Calm.trans (t := scratchStore k.core (ownBytes k l) s) ⟨rfl, rfl⟩ (calm_scratchSpoil _ _ _)
    · split
      · split
        · exact Calm.refl _
        · exact calm_sendPiece _ _ _ _ _ _
      · exact calm_sendPiece _ _ _ _ _ _
  unfold storePieces
  refine Act.calm_bind (calm_storeChecks _ _) fun _ => ?_
  dsimp only
  split
  · refine Act.calm_bind (Act.calm_modifyGet fun s => ⟨rfl, rfl⟩) fun id => ?_
    exact Act.calm_bind (Act.calm_modify (hm id)) fun _ => Act.calm_pure _
  · refine Act.calm_bind (Act.calm_pure _) fun id => ?_
    exact Act.calm_bind (Act.calm_modify (hm id)) fun _ => Act.calm_pure _

theorem calm_store (k : StrandId) (reqs : List (Nat × List Byte)) : (store k reqs).calm := by
  unfold store
  refine Act.calm_bind (Act.calm_mapM _ fun r => ?_) fun _ => calm_storePieces _ _ _
  exact Act.calm_bind (quiet_resolve _ _ _).calm fun _ => Act.calm_pure _

/-! ## The own scratchpad -/

/-- A run of n bytes at va of the own scratchpad that a store may write. -/
def ownWritable (s : State) (k : StrandId) (va n : Nat) : Prop :=
  ownRun (va, n) ∧ hitsHorizon s k.core (va - scratchBase) n = false ∧
    overlaps (s.core k.core) (va - scratchBase) n = false

theorem checkStore_own {s : State} {k : StrandId} {va n : Nat} (h : ownWritable s k va n) :
    (checkStore k (ownPiece k (va, n))).gives s () s := by
  obtain ⟨-, h2, h3⟩ := h
  unfold checkStore
  refine Act.gives_bind (Act.gives_get s) ?_
  simp only [ownPiece, if_true, h2, h3, Bool.false_eq_true, if_false]
  exact Act.gives_pure _ _

theorem withBytes_own (k : StrandId) (r : Nat × List Byte) :
    withBytes (fun a => r.2.getD (a - r.1) 0) [ownPiece k (r.1, r.2.length)] = [(ownPiece k (r.1, r.2.length), r.2)] := by
  unfold withBytes
  simp only [List.map_cons, List.map_nil, ownPiece]
  congr 2
  apply List.ext_getElem
  · simp
  · intro i h1 h2
    simp [List.getD_eq_getElem?_getD, List.getElem?_eq_getElem h2]

/-- Pieces of the own scratchpad need no room in the L1. -/
theorem fixedRoom_own {k : StrandId} (reqs : List (Nat × Nat)) (s : State) :
    (fixedRoom k (reqs.map (ownPiece k))).gives s () s := by
  have hn : ∀ lines, overflowAt lines (reqs.map (ownPiece k)) = none := by
    induction reqs with
    | nil => intro _; rfl
    | cons r rs ih => exact ih
  unfold fixedRoom
  refine Act.gives_bind (Act.gives_get s) ?_
  rw [hn]
  dsimp only
  split <;> exact Act.gives_pure _ _

/-- Pieces of the own scratchpad meet no other core. -/
theorem windowChecks_own {k : StrandId} (reqs : List (Nat × Nat)) (s : State) :
    (windowChecks k (reqs.map (ownPiece k))).gives s () s := by
  unfold windowChecks
  refine Act.gives_bind (Act.gives_get s) ?_
  split
  · exact forM_own reqs s fun r _ => by
      simp only [ownPiece, if_true]
      exact Act.gives_pure _ _
  · exact Act.gives_pure _ _

theorem storeChecks_own {s : State} {k : StrandId} (reqs : List (Nat × Nat)) (hq : acquired s k = true)
    (h : ∀ r ∈ reqs, ownWritable s k r.1 r.2) : (storeChecks k (reqs.map (ownPiece k))).gives s () s := by
  have hall : ((reqs.map (ownPiece k)).forM fun p => checkStore k p).gives s () s :=
    forM_own reqs s fun r hr => checkStore_own (h r hr)
  unfold storeChecks
  split
  · exact Act.gives_bind (awaitAcquire_done hq) (Act.gives_bind hall (Act.gives_bind (fixedRoom_own reqs s) (windowChecks_own reqs s)))
  · exact Act.gives_bind hall (Act.gives_bind (fixedRoom_own reqs s) (windowChecks_own reqs s))

/-- A store of runs of the own scratchpad writes their bytes there at once (08 R191). -/
theorem store_own {s : State} {k : StrandId} (reqs : List (Nat × List Byte)) (hq : acquired s k = true)
    (h : ∀ r ∈ reqs, ownWritable s k r.1 r.2.length) :
    (store k reqs).gives s none (scratchStore k.core (scratchBytes reqs) s) := by
  have h1 : (reqs.mapM fun r => do
      let l ← resolve k .write [(r.1, r.2.length)]
      pure (withBytes (fun a => r.2.getD (a - r.1) 0) l) : Act (List (List (Piece × List Byte)))).gives s
        (reqs.map fun r => [(ownPiece k (r.1, r.2.length), r.2)]) s := by
    induction reqs with
    | nil => rw [List.mapM_nil]; exact Act.gives_pure _ _
    | cons r rs ih =>
      rw [List.mapM_cons]
      refine Act.gives_bind (t := s) (v := [(ownPiece k (r.1, r.2.length), r.2)]) ?_ ?_
      · have hr := resolve_own (k := k) (acc := .write) [(r.1, r.2.length)] s (.inr rfl)
          (fun q hq => by rw [List.mem_singleton.1 hq]; exact (h r List.mem_cons_self).1)
        refine Act.gives_bind hr ?_
        simp only [List.map_cons, List.map_nil]
        rw [withBytes_own]
        exact Act.gives_pure _ _
      · exact Act.gives_bind (ih fun q hq => h q (List.mem_cons_of_mem _ hq)) (Act.gives_pure _ _)
  have h2 : (reqs.map fun r => [(ownPiece k (r.1, r.2.length), r.2)]).flatten =
      reqs.map fun r => (ownPiece k (r.1, r.2.length), r.2) := by
    clear h h1
    induction reqs with
    | nil => rfl
    | cons r rs ih => simp [ih]
  unfold store
  refine Act.gives_bind h1 ?_
  rw [h2]
  have h3 : (storeChecks k ((reqs.map fun r => (ownPiece k (r.1, r.2.length), r.2)).map Prod.fst)).gives s () s := by
    have hm := storeChecks_own (k := k) (reqs.map fun r => (r.1, r.2.length)) hq fun q hq => by
      obtain ⟨r, hr, rfl⟩ := List.mem_map.1 hq
      exact h r hr
    simpa only [List.map_map, Function.comp_def] using hm
  have h4 : ((reqs.map fun r => (ownPiece k (r.1, r.2.length), r.2)).any fun e => e.1.answered k) = false := by
    rw [List.any_eq_false]
    intro e he
    obtain ⟨r, -, rfl⟩ := List.mem_map.1 he
    simp [Piece.answered, Piece.away, ownPiece]
  have h5 : ownBytes k (reqs.map fun r => (ownPiece k (r.1, r.2.length), r.2)) = scratchBytes reqs := by
    clear h h1 h2 h3 h4
    induction reqs with
    | nil => rfl
    | cons r rs ih =>
      simp only [List.map_cons, ownBytes, ownPiece, if_true]
      unfold scratchBytes
      rw [List.flatMap_cons]
      congr 1
  have h6 : ownBad k (fun _ => false) (reqs.map fun r => (ownPiece k (r.1, r.2.length), r.2)) = [] := by
    unfold ownBad
    rw [List.flatMap_eq_nil_iff]
    intro e he
    obtain ⟨r, -, rfl⟩ := List.mem_map.1 he
    simp [ownPiece]
  have h7 : ∀ t : State, (reqs.map fun r => (ownPiece k (r.1, r.2.length), r.2)).foldl (fun s e =>
      match e.1.target with
      | .scratch c _ => if c = k.core then s else sendPiece k 0 (fun _ => false) e.1 e.2 s
      | _ => sendPiece k 0 (fun _ => false) e.1 e.2 s) t = t := by
    clear h h1 h2 h3 h4 h5 h6
    induction reqs with
    | nil => intro t; rfl
    | cons r rs ih =>
      intro t
      simp only [List.map_cons, List.foldl_cons, ownPiece, if_true]
      exact ih t
  unfold storePieces
  refine Act.gives_bind h3 ?_
  simp only [h4, h5, h6, Bool.false_eq_true, if_false]
  refine Act.gives_bind (Act.gives_pure _ _) ?_
  have hm := Act.gives_modify (fun s => (reqs.map fun r => (ownPiece k (r.1, r.2.length), r.2)).foldl (fun s e =>
      match e.1.target with
      | .scratch c _ => if c = k.core then s else sendPiece k 0 (fun _ => false) e.1 e.2 s
      | _ => sendPiece k 0 (fun _ => false) e.1 e.2 s)
      (scratchSpoil k.core [] (scratchStore k.core (scratchBytes reqs) s))) s
  rw [h7] at hm
  exact Act.gives_bind hm (Act.gives_pure _ _)

/-! ## Instructions that load and store -/

theorem bump_simple (x : Strand) (inc : Bool) (p : BitVec 3) : (bump x inc p).all RegWrite.simple = true := by unfold bump; split <;> rfl
theorem gives_memCheck {o : MemOps} {x : Strand} {lanes : List Nat} (h : memOk o x lanes = true) (s : State) :
    (memCheck o x lanes).gives s () s := by
  unfold memOk at h
  unfold memCheck
  simp only [Bool.and_eq_true, Bool.or_eq_true, beq_iff_eq, Bool.not_eq_true'] at h
  obtain ⟨h1, h2⟩ := h
  have c1 : ¬ (!lanes.isEmpty && !aligned o (x.ptr o.p).base) = true := by
    rcases h1 with h | h <;> simp [h]
  have c2 : ¬ (o.ord != 0 && x.isFixed) = true := by
    rcases h2 with h | h <;> simp [h]
  dsimp only
  rw [if_neg c1, if_neg c2]
  exact Act.gives_pure _ _

theorem acquire_calm (c s) : Calm s (acquire c s) := ⟨rfl, rfl⟩

theorem ranOr_of {i : Instr} {la : Nat} {body : Strand → Act Effect} {s t : State} {id : Option Nat}
    {ws : List RegWrite} (hv : (own s).view = none) (hp : plain t = true) (hc : t.cur = s.cur)
    (hb : (body (own s)).gives s { ws := ws, async := id } t) (hw : ws.all RegWrite.simple = true) :
    run i la (destsOf i) body s = .next (ranOr i la id ws t) := by
  cases id with
  | none => exact issue_after hv hb hp hc hw rfl rfl
  | some n => exact issue_async hv hb hp hc rfl rfl rfl
theorem moveBumps_simple (x : Strand) (d : Bool) (p : BitVec 3) (s : Bool) (q : BitVec 3) :
    (moveBumps x d p s q).all RegWrite.simple = true := by
  unfold moveBumps
  simp only [List.all_append, bump_simple, Bool.and_self]

/-! ## Moves -/

theorem quiet_movePiece (k : StrandId) (p : Piece) : (movePiece k p).quiet := by
  unfold movePiece
  repeat' first
    | with_reducible exact Act.quiet_pure _
    | with_reducible exact Act.quiet_throw _
    | with_reducible exact quiet_readLine _ _ _ _
    | with_reducible exact Act.fails_quiet (Act.fails_left (Act.fails_throw _))
    | with_reducible refine Act.quiet_bind Act.quiet_get fun _ => ?_
    | with_reducible refine Act.quiet_bind (quiet_readPiece _ _) fun _ => ?_
    | split
    | dsimp only

theorem quiet_movePieces (k : StrandId) (ps : List Piece) : (movePieces k ps).quiet := by
  induction ps with
  | nil => exact Act.quiet_pure _
  | cons p ps ih =>
    unfold movePieces
    exact Act.quiet_bind (quiet_movePiece _ _) fun _ => Act.quiet_bind ih fun _ => Act.quiet_pure _

/-- A move changes no strand. -/
theorem calm_moveBytes (k : StrandId) (d q n : Nat) : (moveBytes k d q n).calm := by
  have hd : ∀ s : State, Calm s ((cutLines (n / 128 + 2) q n).foldl (fun st r => dropIfGone k.core (r.1 / 128) st) s) :=
    fun s => Calm.foldl _ _ _ fun _ _ => (quiet_dropIfGone _ _ _).calm
  unfold moveBytes
  refine Act.calm_bind (quiet_awaitAcquire _).calm fun _ => ?_
  refine Act.calm_bind (Act.calm_modify hd) fun _ => ?_
  refine Act.calm_bind (quiet_resolve _ _ _).calm fun from_ => ?_
  refine Act.calm_bind (quiet_resolve _ _ _).calm fun dest => ?_
  refine Act.calm_bind (quiet_fixedLoad _ _).calm fun _ => ?_
  refine Act.calm_bind (quiet_panelLoads _ _ _).calm fun _ => ?_
  exact Act.calm_bind (quiet_movePieces _ _).calm fun _ => calm_storePieces _ _ _

/-! ## The store of a register performed (01 R41) -/

@[simp] theorem storeDone_package (id : Nat) (s : State) : (storeDone id s).package = s.package := rfl
@[simp] theorem storeDone_panel (id : Nat) (s : State) (p : Nat) : (storeDone id s).panel p = s.panel p := rfl
@[simp] theorem storeDone_core (id : Nat) (s : State) (c : CoreId) : (storeDone id s).core c = s.core c := rfl
@[simp] theorem storeDone_strand (id : Nat) (s : State) (k : StrandId) : (storeDone id s).strand k = s.strand k := rfl
@[simp] theorem storeDone_stack (id : Nat) (s : State) (n : Nat) : (storeDone id s).stack n = s.stack n := rfl
@[simp] theorem storeDone_tenant (id : Nat) (s : State) (n : Nat) : (storeDone id s).tenant n = s.tenant n := rfl
@[simp] theorem storeDone_stopped (id : Nat) (s : State) : bootStopped (storeDone id s) = bootStopped s := rfl

end Sys2Proof.Machine
end

