-- ==== Sys2Proof/Tests/Slice0.lean ====
section
/-!
SUPPORT. Slice0.lean: the model's own tests. Words of the spec's encodings decode to their instructions; ill-formed terms
are refused; one step of small machines gives what the rules give; and each statement's conditions are met by a machine.
-/
namespace Sys2Proof.Tests
open Sys2Proof Sys2Proof.Machine
set_option Elab.async false

/-! ## Decoding: words written out from the spec's encodings -/

/-- 10: `lda.acq.s128.la3 A, [P4]`. -/
theorem test_decode_lda : decodeTableWord 32 0x30007A11 =
    some (.lda { la := 3, k := 0, fmt := 0, ord := 1, sz := 7, ip := false, p := 4 }) := by decide
/-- 10: `br.cnz P3`, offset −6. -/
theorem test_decode_br : decodeTableWord 32 0xFFFF4CB1 = some (.brCnz (-6) 3) := by decide
/-- 11, Encodings: PSET, PADD, AIMM, PMOV. -/
theorem test_decode_pointers : decodeTableWord 32 0x448D11A7 = some (.pset 0x11234 1 0 3) ∧
    decodeTableWord 32 0xFFF003A9 = some (.paddImm (-64) 0 7) ∧
    decodeTableWord 32 0x3FF0082D = some (.aimmBcast 0x0FFC0 2) ∧
    decodeTableWord 32 0x203413AB = some (.pmovGld 2 false 6 4 7) := by decide
/-- 11, Encodings: KOPS, JUMP, CSR, TRAP, NOPS; a must-be-zero bit set is no instruction. -/
theorem test_decode_control : decodeTableWord 32 0x06C0002F = some (.kopsAnd 1 2 3) ∧
    decodeTableWord 32 0x00000833 = some .jumpRet ∧ decodeTableWord 32 0x00010045 = some (.csrRd 0 1) ∧
    decodeTableWord 32 0x00070047 = some (.trapSwt 7) ∧ decodeTableWord 32 0x0064044D = some (.nopsPause 100) ∧
    decodeTableWord 32 0x06C1002F = none := by decide
/-- 12, Encodings: VARI, VCMP, VRED, VCVT, RAND. -/
theorem test_decode_lanes :
    decodeTableWord 32 0x042C5483 =
      some (.variFma false 1 { k := 1, fmt := 4, cb := false, ib := true, pb := 2, ia := true, pa := 1 }) ∧
    decodeTableWord 32 0x0D040003 =
      some (.variMov false 0 { k := 0, fmt := 4, cb := false, ib := false, pb := 0, ia := false, pa := 0 }) ∧
    decodeTableWord 32 0x120D3007 =
      some (.vcmpLt 1 { k := 1, fmt := 5, cb := false, ib := false, pb := 6, ia := false, pa := 0 }) ∧
    decodeTableWord 32 0x0005000D =
      some (.vredSum false 0 { k := 0, fmt := 5, cb := false, ib := false, pb := 0, ia := false, pa := 0 }) ∧
    decodeTableWord 32 0x0B450109 =
      some (.vcvtTsk false 2 { k := 0, fmt := 5, cb := false, ib := false, pb := 0, ia := false, pa := 2 }) ∧
    decodeTableWord 32 0x200119C1 = some (.randRaw 2 0 false 3) := by decide
/-- By hand from 10 R227, R228: `vbit.and.i32 A, [P2]`, `vperm.bcast.f32 A`, `vfun.exp2.f32 A`. -/
theorem test_decode_bits_perm_fun :
    decodeTableWord 32 0x00011005 =
      some (.vbitAnd { k := 0, fmt := 1, cb := false, ib := false, pb := 2, ia := false, pa := 0 }) ∧
    decodeTableWord 32 0x0005000B =
      some (.vpermBcast { k := 0, fmt := 5, cb := false, ib := false, pb := 0, ia := false, pa := 0 }) ∧
    decodeTableWord 32 0x0005000F =
      some (.vfunExp2 0 { k := 0, fmt := 5, cb := false, ib := false, pb := 0, ia := false, pa := 0 }) := by decide
/-- 12: `h.cmplt.f32.k1 A, [P6]`, bytes DE 0A. -/
theorem test_decode_half : decodeTableWord 16 0x0ADE =
    some (.hCmplt { ch := false, k := 1, fmt := 1, inc := false, p := 6 }) := by decide
/-- 13, Encodings: STA, LDA.BC, LDA.ZX, GATH. -/
theorem test_decode_memory :
    decodeTableWord 32 0x00009913 = some (.sta { la := 0, k := 0, fmt := 0, ord := 2, sz := 3, ip := false, p := 2 }) ∧
    decodeTableWord 32 0x00251091 = some (.ldaBc { la := 0, k := 0, fmt := 5, ord := 0, sz := 2, ip := false, p := 1 }) ∧
    decodeTableWord 32 0x00401D91 = some (.ldaZx { la := 0, k := 0, fmt := 0, ord := 0, sz := 3, ip := true, p := 3 }) ∧
    decodeTableWord 32 0x000D1195 =
      some (.gathGather { la := 0, k := 1, fmt := 5, ord := 0, sz := 2, ip := false, p := 3 }) := by decide
/-- 13: SHIP, TICK, LAWO, PATN, CACH and FENC. -/
theorem test_decode_requests : decodeTableWord 32 0x18120119 = some (.ship 1 2 0 18 2) ∧
    decodeTableWord 32 0x4302029B = some (.tickLd 4 3 2 5) ∧ decodeTableWord 32 0x2300071B = some (.tickRd 2 3 6) ∧
    decodeTableWord 32 0x2004209D = some (.lawoRd 2 false 1) ∧ decodeTableWord 32 0x0001019F = some (.patnSet 0 1 3) ∧
    decodeTableWord 32 0x00010121 = some (.cachPf2 0 true 2) ∧ decodeTableWord 32 0x00900025 = some (.fenc 1 16 0) := by
  decide
/-- By hand from 10 R227, R228: `line.move.s128 [P1], [P2], 2` and `dram.promote A, [P3]`. -/
theorem test_decode_line_dram : decodeTableWord 32 0x00839097 = some (.lineMove 0 2 7 false 2 false 1) ∧
    decodeTableWord 32 0x000001A3 = some (.dramPromote 0 3) := by decide
/-- 14, Encodings: STRN, SYNC, RING, MSG. -/
theorem test_decode_strands : decodeTableWord 32 0x00000235 = some (.strnStart 4) ∧
    decodeTableWord 32 0x00030835 = some (.strnJoinw 3) ∧ decodeTableWord 32 0x00010AB7 = some (.syncArrwt 1 5) ∧
    decodeTableWord 32 0x00001137 = some (.syncCwait 2) ∧ decodeTableWord 32 0x000001B9 = some (.ringAwait 3) ∧
    decodeTableWord 32 0x100200BB = some (.msgSend 1 2 1) ∧ decodeTableWord 32 0x0002043B = some (.msgPop 0 2) ∧
    decodeTableWord 32 0x01090DBB = some (.msgBindc 0 1 9 3) := by decide
/-- 14, Encodings: COPY and MTRX. -/
theorem test_decode_engines : decodeTableWord 32 0x200002BD = some (.copyAppend 2 5) ∧
    decodeTableWord 32 0x0000073D = some (.copyExpect 0 6) ∧ decodeTableWord 32 0x0000033F = some (.mtrxSclaim 6) ∧
    decodeTableWord 32 0x0000083F = some .mtrxWait ∧ decodeTableWord 32 0x0000103F = some .mtrxSeal := by decide
/-- By hand from 10 R227, R228: `time.setst A`, `prot.inva P5`, `ctxs.load 10, [P1]`. -/
theorem test_decode_system : decodeTableWord 32 0x00000843 = some .timeSetst ∧
    decodeTableWord 32 0x00000AC9 = some (.protInva 5) ∧ decodeTableWord 32 0x000A08CB = some (.ctxsLoad 10 1) := by decide
/-- 10 R226, R229: encodings that are no instruction, each for its reason. -/
theorem test_decode_rejects : decodeTableWord 16 0x0000 = none ∧ decode [0x00, 0x40] = .error .badParcel ∧
    decode [0x01, 0x00, 0x00, 0x00] = .error .badWord ∧ decode [0x4F, 0x00, 0x00, 0x00] = .error .badWord ∧
    decode [0x01, 0x00] = .error .truncated := by decide
/-- A well-formed instruction of each length goes round. -/
theorem test_roundTrip : decode (encodeBytes (.pmovGld 2 false 6 4 7) ++ [0x55]) = .ok (.pmovGld 2 false 6 4 7, 4) ∧
    decode (encodeBytes (.hSta 1 3 true 7)) = .ok (.hSta 1 3 true 7, 2) := by decide +kernel
/-- The conditions of RoundTrip are met, and an event has no encoding. -/
theorem witness_RoundTrip : (Instr.pmovGld 2 false 6 4 7).wf = true ∧ hasEncoding (.pmovGld 2 false 6 4 7) = true ∧
    hasEncoding (.hSta 1 3 true 7) = true ∧ hasEncoding .bootStart = false ∧
    hasEncoding (.illegalInstruction 0) = false := by decide

/-! ## Well-formedness: an ill-formed term for each check -/

/-- The operand fields of format V, as a term. -/
def lane (fmt : BitVec 3) (cb ib : Bool) (pb : BitVec 3) (ia : Bool) (pa : BitVec 3) : LaneOps :=
  { k := 0, fmt := fmt, cb := cb, ib := ib, pb := pb, ia := ia, pa := pa }
/-- The fields of format M, as a term. -/
def mem (fmt : BitVec 3) (ord : BitVec 2) (sz : BitVec 3) : MemOps :=
  { la := 0, k := 0, fmt := fmt, ord := ord, sz := sz, ip := false, p := 0 }

/-- 10 R226, 12 R286: H forms: ch with inc, and the LDA that is parcel 0. -/
theorem test_wf_half : (Instr.hAdd { ch := true, k := 0, fmt := 0, inc := true, p := 0 }).wf = false ∧
    (Instr.hLda { ch := false, k := 0, fmt := 0, inc := false, p := 0 }).wf = false ∧
    (Instr.hShl true 0 true 0).wf = false ∧ (Instr.hSta 0 0 true 0).wf = true := by decide
/-- 10 R229, 12 R269: operand fields that the function does not read, cb with ib, one pointer stepped twice. -/
theorem test_wf_operands : (Instr.vbitNot (lane 0 false false 1 false 0)).wf = false ∧
    (Instr.vbitAnd (lane 0 true true 0 false 0)).wf = false ∧ (Instr.vbitAnd (lane 0 false false 0 true 0)).wf = false ∧
    (Instr.variFma false 0 (lane 0 false true 2 true 2)).wf = false ∧
    (Instr.vcvtTsk false 0 (lane 0 false true 0 false 2)).wf = false := by decide
/-- 12 R272: rm and sat: arithmetic, exact, ABS and NEG, conversion to an integer. -/
theorem test_wf_rounding : (Instr.variAdd true 0 (lane 4 false false 0 false 0)).wf = false ∧
    (Instr.variAdd false 1 (lane 0 false false 0 false 0)).wf = false ∧
    (Instr.variMin false 1 (lane 0 false false 0 false 0)).wf = false ∧
    (Instr.variAbs true 0 (lane 5 false false 0 false 0)).wf = false ∧
    (Instr.vcvtTi32 true 0 (lane 5 false false 0 false 0)).wf = false := by decide
/-- 12 R274–R283: the formats each function takes. -/
theorem test_wf_formats : (Instr.variDiv false 0 (lane 0 false false 0 false 0)).wf = false ∧
    (Instr.variMulh false 0 (lane 4 false false 0 false 0)).wf = false ∧
    (Instr.vbitAnd (lane 4 false false 0 false 0)).wf = false ∧
    (Instr.vcmpUn 0 (lane 0 false false 0 false 0)).wf = false ∧
    (Instr.vcmpLtu 0 (lane 4 false false 0 false 0)).wf = false ∧
    (Instr.vcvtTf64 false 0 (lane 4 false false 0 false 0)).wf = false ∧
    (Instr.vcvtTf64 false 1 (lane 5 false false 0 false 0)).wf = false ∧
    (Instr.vcvtTe4m3 false 0 (lane 0 false false 0 false 0)).wf = false ∧
    (Instr.vredAnd (lane 4 false false 0 false 0)).wf = false ∧
    (Instr.vfunExp2 0 (lane 4 false false 0 false 0)).wf = false := by decide
/-- 13 R288–R297: sizes and orders of format M, FILL's size, SHIP's routine and rounding, a ticket's size. -/
theorem test_wf_memory : (Instr.lda (mem 0 0 2)).wf = false ∧ (Instr.lda (mem 0 2 3)).wf = false ∧
    (Instr.ldaBc (mem 0 0 4)).wf = false ∧ (Instr.sta (mem 0 1 3)).wf = false ∧
    (Instr.gathGather (mem 0 0 4)).wf = false ∧ (Instr.gathScatter (mem 0 1 3)).wf = false ∧
    (Instr.lineFill 0 0 2 false 0).wf = false ∧ (Instr.ship 0 0 1 0 0).wf = false ∧
    (Instr.ship 0 0 0 24 0).wf = false ∧ (Instr.tickLd 0 0 3 0).wf = false := by decide
/-- 11 R242–R255: PSET's field, chunk and mode, PADD's field, a pointer group, the control registers. -/
theorem test_wf_control : (Instr.pset 0 0 3 0).wf = false ∧ (Instr.pset 0 2 1 0).wf = false ∧
    (Instr.pset 0x30000 0 0 0).wf = false ∧ (Instr.paddImm 0 3 0).wf = false ∧ (Instr.pmovGsv 0 false 1 2 0).wf = false ∧
    (Instr.csrRd 0 9).wf = false ∧ (Instr.csrWr 0 5).wf = false := by decide
/-- 11 R265, 14 R317, R323: CTXS's target, JOINW's helper, SEND's length. -/
theorem test_wf_strands : (Instr.ctxsStop 11).wf = false ∧ (Instr.strnJoinw 0).wf = false ∧
    (Instr.strnJoinw 11).wf = false ∧ (Instr.msgSend 0 17 0).wf = false ∧ (Instr.msgSend 0 16 0).wf = true := by decide

/-! ## Small machines -/

/-- A body that succeeds. -/
def good {α : Type} (m : Act α) (s : State) : Bool :=
  match ExceptT.run m s with
  | (.ok _, _) => true
  | (.error _, _) => false
theorem good_gives {α : Type} {m : Act α} {s : State} (h : good m s = true) : ∃ v t, m.gives s v t := by
  unfold good at h
  split at h
  · exact ⟨_, _, by assumption⟩
  · cases h

/-- Strand 0 of core 0, in the service domain, ready to issue at address 4,096. -/
def demo : State := placeBytes [] State.reset
/-- demo with its strand changed. -/
def demoWith (f : Strand → Strand) : State := demo.setStrand 0 (f (own demo))
/-- demo with its core changed. -/
def demoCore (f : Core → Core) : State := demo.setCore 0 (f (ownCore demo))
/-- Every pointer at offset 0x1000 of the own scratchpad, stride 8, count 4. -/
def pointing : State := demoWith fun x => { x with
  p := Vector.replicate 8 { base := BitVec.ofNat 64 (scratchBase + 0x1000), stride := 8, count := 4 } }
/-- Every pointer at a base. -/
def pointAt (n : Nat) : State := demoWith fun x => { x with p := Vector.replicate 8 { base := BitVec.ofNat 64 n } }
/-- demo in a user domain with a trap handler. -/
def user : State := demoWith fun x => { x with domain := 0x1001, xvec := 0x100 }
/-- demo in fixed mode. -/
def fixedDemo : State := demoWith fun x => { x with fixed := 1, xvec := 0x100 }

/-! ## The conditions of the statements are met -/

/-- plain and both cases of canTrap: TrapsTaken, PrivilegedTraps, TrapsRaised, KopsComplete, PointersComplete and every
other statement whose only condition is plain. -/
theorem witness_plain : plain demo = true ∧ canTrap demo = false ∧ plain user = true ∧ canTrap user = true ∧
    privileged (own demo).domain = true ∧ privileged (own user).domain = false := by decide +kernel
/-- A pointer group read by GLD. -/
theorem witness_PointersComplete : ((own pointing).ptr 7).base.toNat % 16 = 0 ∧ plain pointing = true ∧
    ∃ l t, (load pointing.cur .read [(((own pointing).ptr 7).base.toNat, 48)]).gives pointing l t :=
  ⟨by decide +kernel, by decide +kernel, good_gives (by decide +kernel)⟩
/-- The operands of format V, read from the own scratchpad: one, two, none. -/
theorem witness_VariCompletes :
    (∃ v t, (operandsOf (lane 4 false true 2 true 1) lanesRead lanesRead pointing.cur (own pointing)).gives pointing v t) ∧
    (∃ v t, (operandsOf (lane 3 false true 2 false 0) notRead lanesRead pointing.cur (own pointing)).gives pointing v t) ∧
    (∃ v t, (operandsOf (lane 0 false false 0 false 0) notRead notRead pointing.cur (own pointing)).gives pointing v t) :=
  ⟨good_gives (by decide +kernel), good_gives (by decide +kernel), good_gives (by decide +kernel)⟩
/-- The same for VBIT and VCMP (one operand, or none) and the reductions. -/
theorem witness_VbitVcmpVred :
    (∃ v t, (operandsOf (lane 1 false true 2 false 0) notRead lanesRead pointing.cur (own pointing)).gives pointing v t) ∧
    (∃ v t, (operandsOf (lane 5 false false 2 false 1) lanesRead lanesRead pointing.cur (own pointing)).gives pointing v t) ∧
    (∃ v t, (operandsOf (lane 2 false false 0 false 0) notRead notRead pointing.cur (own pointing)).gives pointing v t) :=
  ⟨good_gives (by decide +kernel), good_gives (by decide +kernel), good_gives (by decide +kernel)⟩
/-- The operand of format H, with every way its operation reads it. -/
theorem witness_HalfFormsComplete :
    let o : HOps := { ch := false, k := 0, fmt := 1, inc := true, p := 3 }
    (∃ v t, (operandsOf (halfOps o) notRead lanesRead pointing.cur (own pointing)).gives pointing v t) ∧
    (∃ v t, (operandsOf (halfBits o) notRead lanesRead pointing.cur (own pointing)).gives pointing v t) ∧
    (∃ v t, (operandsOf (halfShift false 0 true 3) notRead lanesRead pointing.cur (own pointing)).gives pointing v t) :=
  ⟨good_gives (by decide +kernel), good_gives (by decide +kernel), good_gives (by decide +kernel)⟩
/-- What VPERM's functions read. -/
theorem witness_VpermCompletes : let o := lane 5 false true 2 false 0
    ∀ rb ∈ [sldnReads o, slupReads o, zipReads 0 o, zipReads 1 o, unzReads 0 o, unzReads 1 o, expndReads o],
      good (operandsOf o notRead (fun _ => rb) pointing.cur (own pointing)) pointing = true := by decide +kernel

/-- VCVT.TSK through a skein of format f64 (FMT 0 of 09 R217 as reset leaves it), lanes of f64. -/
theorem witness_VcvtCompletes : (match tsk (Table.get 0 (ownCore demo).skeins 0) 4 false
    (codeOf 0 (own demo).fpctl) ((own demo).drow.toNat % 65536) (laneGuard (lane 4 false false 0 false 0) (own demo))
    (own demo).a with | .ok _ _ => true | _ => false) = true := by decide +kernel
/-- Lanes that lie in the own scratchpad: the first and the last it has room for; and both operands of a fused form. -/
theorem witness_ScratchOperandRead : lanesReady pointing 2 64 [0, 15] = true ∧
    lanesReady (pointAt (scratchBase + scratchSize - 128)) 2 8 [0, 127] = true ∧
    (let lanes := guardLanes (lane 4 false true 2 false 1) (own pointing)
     plain pointing = true ∧ lanesReady pointing 2 64 lanes = true ∧ lanesReady pointing 1 64 lanes = true) := by decide +kernel
/-- A packet to a channel. -/
def aPacket : Packet :=
  { id := 7, route := 0, time := 0, source := 5, payload := [1, 2], sender := none, domain := 0, trusted := true }
/-- demo with channel 2 bound to tag 9 and a packet for it in the mailbox. -/
def mailed : State := demoCore fun x => { x with
  bindings := [{ tag := 9, kind := 2, chan := 2, quota := 1, domain := 0, entry := 0 }]
  mailbox := [{ aPacket with route := routeTo 0 9 }] }
/-- A channel with a packet, and an empty one. -/
theorem witness_ChannelOperandRead : (own mailed).isFixed = false ∧
    (∃ m ms, channelOf (ownCore mailed) 2 = m :: ms ∧ m.bad = []) ∧ channelOf (ownCore demo) 2 = [] :=
  ⟨by decide +kernel, ⟨{ aPacket with route := routeTo 0 9 }, [], by decide +kernel, rfl⟩, by decide +kernel⟩
/-- Loads that are answered: LDA (plain, and an acquire), LDA.BC, GATHER, RAND. -/
theorem witness_LoadsComplete : let o := mem 4 1 7
    memOk o (own pointing) (coveredOn o (own pointing)) = true ∧ memOk (mem 5 0 2) (own pointing) (firstIfAny (mem 5 0 2) (own pointing)) = true ∧
    (∃ l t, (load 0 .read [(laneVa ((own pointing).ptr 0).base 8 0, 128)]).gives pointing l t) ∧
    (∃ l t, (load 0 .read [(((own pointing).ptr 3).base.toNat, 8)]).gives pointing l t) ∧
    runs (coveredOn o (own pointing)) = [(0, 16)] ∧
    (∀ i ∈ lanesOn (mem 0 0 3) (own pointing) 16, elementVa (mem 0 0 3) (own pointing) (Sys2Proof.Machine.lane 64 (own pointing).a i) % 8 = 0) :=
  ⟨by decide +kernel, by decide +kernel, good_gives (by decide +kernel), good_gives (by decide +kernel), by decide +kernel,
    by decide +kernel⟩
/-- LDA and STA of the own scratchpad. -/
theorem witness_ScratchLoadStore : let o := mem 4 0 7
    aligned o ((own pointing).ptr 0).base = true ∧ lanesReady pointing 0 64 (coveredOn o (own pointing)) = true ∧
    memOk o (own pointing) (coveredOn o (own pointing)) = true ∧ pushes o (own pointing) = false ∧
    scratchWrites pointing (staReqs o (own pointing)) = true := by decide +kernel
/-- Stores that may be performed: STA (plain and release), SCATTER, FILL, MOVE, GSV, PATN.GET. -/
theorem witness_StoresComplete : let x := own pointing
    (∃ id t, (store 0 (staReqs (mem 4 2 7) x)).gives pointing id t) ∧ corePerformed pointing 0 = true ∧
    (∃ id t, (store 0 (staReqs (halfSta 0 1 true 2) x)).gives pointing id t) ∧
    (∃ id t, (store 0 (scatterReqs (mem 0 0 3) x)).gives pointing id t) ∧
    (∃ id t, (store 0 [((x.ptr 1).base.toNat, fillBytes x (lineLength 2 3))]).gives pointing id t) ∧
    (∃ id t, (moveBytes 0 (x.ptr 1).base.toNat (x.ptr 2).base.toNat (lineLength 2 3)).gives pointing id t) ∧
    (∃ id t, (store 0 [((x.ptr 1).base.toNat, toBytes 32 0)]).gives pointing id t) ∧
    inScratch (x.ptr 1).base 32 = true ∧ (x.ptr 1).base.toNat % 32 = 0 :=
  ⟨good_gives (by decide +kernel), by decide +kernel, good_gives (by decide +kernel), good_gives (by decide +kernel),
    good_gives (by decide +kernel), good_gives (by decide +kernel), good_gives (by decide +kernel), by decide +kernel,
    by decide +kernel⟩
/-- A canonical table of cores and scratchpad, and a load and operands that are read. -/
theorem witness_Frames : Table.wf {} pointing.cores = true ∧ (pointing.core 0).scratch.wf = true ∧
    (∃ v t, (load 0 .read [(((own pointing).ptr 3).base.toNat, 8)]).gives pointing v t) :=
  ⟨by decide +kernel, by decide +kernel, good_gives (by decide +kernel)⟩
/-- PATN.SET and CSR.SKLD of a valid image: a slot of zeros is a pattern of KIND 0; and no command holds slot or skein. -/
theorem witness_PatternSkein : let va := ((own pointing).ptr 1).base
    inScratch va 64 = true ∧ va.toNat % 64 = 0 ∧ slotsHeld pointing 0 0 = false ∧
    skeinHeld pointing 0 3 = false ∧ patInvalid 0 = false ∧
    (∃ l t, (load 0 .read [(va.toNat, 32)]).gives pointing l t) ∧
    (∃ id t, (store 0 [(va.toNat, recBytes (skeinImage pointing 0 3))]).gives pointing id t) :=
  ⟨by decide +kernel, by decide +kernel, by decide +kernel, by decide +kernel, by decide +kernel,
    good_gives (by decide +kernel), good_gives (by decide +kernel)⟩

/-- demo with 1 GiB of device memory at virtual address 1 GiB, where every pointer points: the TLB of its panel holds a
leaf that names physical 1 GiB. -/
def device : State := (pointAt (2 ^ 30)).setPanel 0
  { (pointAt (2 ^ 30)).panel 0 with tlb := [(2 ^ 30, 2, BitVec.ofNat 64 (2 * 2 ^ 60 + 2 ^ 14))] }
/-- demo with another strand of its core. -/
def besides (n : Nat) (x : Strand) : State := pointing.setStrand n x
/-- demo with barrier, counter and ring 5 of its own domain, and every pointer naming them. -/
def synced : State := { pointAt 5 with
  barriers := Table.set {} [] 5 { owner := some 0 }
  counters := Table.set {} [] 5 { owner := some 0 }
  rings := Table.set {} [] 5 { owner := some 0, slots := 4, wr := 3, rd := 1 } }

/-- TrapReturns: in a handler, with no fault kept and with one. -/
theorem witness_TrapReturns : let f : PendFault := { fault := { cause := 0x14, addr := 8 }, pc := 4, parcels := 0, pager := none }
    let s := demoWith fun x => { x with xin := true, xvec := 0x100 }
    let t := demoWith fun x => { x with xin := true, xvec := 0x100, faults := [f] }
    (own s).canIssue = true ∧ (own s).xin = true ∧ (own s).faults = [] ∧ (own t).canIssue = true ∧ (own t).faults = [f] ∧
    f.fault.cause ≠ 0 := by decide +kernel
/-- PrivilegedComplete: HALT of a core whose only strand it is. -/
theorem witness_PrivilegedComplete : (demo.cur.num ≤ 10 ∧ (ownCore demo).status = .running ∧ (ownCore demo).active = none) ∧
    ∀ n ∈ List.range 11, n ≠ demo.cur.num → (demo.strand (mkStrand 0 n)).live = false := by decide +kernel
/-- ContextComplete: a FREE strand, a READY one and a held one beside the issuing one; an aligned record of zeros. -/
theorem witness_ContextComplete : (demo.strand 10).live = false ∧
    (let x : Strand := { state := .ready }
     (x.live = true ∧ x.state ≠ .stopped ∧ x.pending = [] ∧ x.redo = none) ∧ (besides 10 x).strand 10 = x) ∧
    (let x : Strand := { state := .stopped, held := true }
     (besides 1 x).strand 1 = x ∧ plain (besides 1 x) = true) ∧
    ((own pointing).ptr 0).base.toNat % 64 = 0 ∧ slotsHeld pointing 0 10 = false ∧
    recordReserved (List.replicate 768 0) = false := by decide +kernel
theorem witness_ContextComplete_memory :
    (∃ l t, (load 0 .read [(((own pointing).ptr 0).base.toNat, 768)]).gives pointing l t) ∧
    (∃ id t, (store 0 [(((own pointing).ptr 0).base.toNat, strandRecord {})]).gives pointing id t) :=
  ⟨good_gives (by decide +kernel), good_gives (by decide +kernel)⟩
/-- StrandsComplete: START, END, JOINW of a helper that runs and of none, BINDH. -/
theorem witness_StrandsComplete : let x := own pointing
    (pointing.cur.num = 0 ∧ x.isFixed = false ∧ badEntry (x.ptr 0).base = false ∧ corePerformed pointing 0 = true) ∧
    (freeHelper pointing 0 = some 1 ∧ slotsHeld pointing 0 1 = false) ∧
    (let h := (besides 1 { state := .ready, started := true }).strand 1
     h.live && h.started) = true ∧ ((pointing.strand 10).live && (pointing.strand 10).started) = false ∧
    ((x.ptr 0).base ≠ 0 ∧ 1 ≤ (x.ptr 0).count.toNat ∧ (x.ptr 0).count.toNat ≤ 64 ∧ (ownCore pointing).bindings = []) := by
  decide +kernel
/-- MessagesComplete: SEND to an own core, POP and PEEK of a channel with a packet and of an empty one, BINDC, UNBIND and
QUOTA. -/
theorem witness_MessagesComplete : let s := pointAt (2 ^ 38 + 9)
    (route s true ((own s).ptr 0).base = .core 0 9 ∧ sendFull s 0 = false ∧ corePerformed s 0 = true) ∧
    (channelOf (ownCore mailed) 2 = [{ aPacket with route := routeTo 0 9 }] ∧ channelOf (ownCore demo) 0 = []) ∧
    (∀ b ∈ (ownCore mailed).bindings, b.tag ≠ 8) ∧ (∃ b ∈ (ownCore mailed).bindings, b.tag = 9) ∧
    (let t := demoCore fun x => { x with bindings := (ownCore mailed).bindings }
     (∃ b ∈ (ownCore t).bindings, b.tag = 9) ∧ (ownCore t).mailbox = [] ∧ handlerLive t 0 9 = false) := by
  decide +kernel
/-- SyncComplete: a barrier and a counter of the own domain; a phase that is over and one that is not; a value reached and
one that is not. -/
theorem witness_SyncComplete : objCause synced .barrier 5 (own synced).domain = none ∧
    objCause synced .counter 5 (own synced).domain = none ∧ inPalette synced true 5 = false ∧
    inPalette synced false 5 = false ∧ corePerformed synced 0 = true ∧ overruns (barrierOf synced 5) false = false ∧
    ((own synced).ptr 0).base.toNat = 5 ∧ (barrierOf synced 5).phase = false ∧ (counterOf synced 5).value = 0 ∧
    overruns (barrierOf synced 5) true = true := by decide +kernel
/-- RingsComplete: a ring that is neither empty nor full. -/
theorem witness_RingsComplete : objCause synced .ring 5 (own synced).domain = none ∧
    (ringOf synced 5).wr ≠ (ringOf synced 5).rd ∧
    ((ringOf synced 5).wr - (ringOf synced 5).rd).toNat ≠ (ringOf synced 5).slots.toNat := by decide +kernel
/-- EnginesComplete: a claim word with a free bit and one without, a zone, an idle unit, and a push. -/
theorem witness_EnginesComplete : let x := own pointing
    let full := pointing.setCore 0 { ownCore pointing with scratch := Memory.setBytes [] 0x1000 [255, 255, 255, 255] }
    let cmd := pointAt 0x1F3000000000000
    (inScratch (x.ptr 0).base 4 = true ∧ hitsHorizon pointing 0 0x1000 4 = false ∧ overlaps (ownCore pointing) 0x1000 4 = false ∧
      scratchBad (ownCore pointing) 0x1000 4 = false) ∧
    (List.range 32).find? (fun i => !((ownCore pointing).scratch.nat 0x1000 4).testBit i) = some 0 ∧
    (List.range 32).find? (fun i => !((ownCore full).scratch.nat 0x1000 4).testBit i) = none ∧
    ((ownCore pointing).ranges = [] ∧ (ownCore pointing).stop = false ∧ matrixBusy (ownCore pointing) = false ∧
      acquired pointing 0 = true ∧ acquired cmd 0 = true) ∧
    (memOk (mem 0 0 6) (own cmd) (coveredOn (mem 0 0 6) (own cmd)) = true ∧ pushes (mem 0 0 6) (own cmd) = true ∧
      (ownCore cmd).cmdq = []) := by decide +kernel
/-- device in fixed mode. -/
def fixedDevice : State := device.setStrand 0 { own device with fixed := 1 }
/-- APPEND's checks pass on a queue header in device memory, which fixed mode reads without its checks. -/
theorem witness_EnginesComplete_append : (own fixedDevice).isFixed = true ∧ plain fixedDevice = true ∧
    (∃ p t, (hookPlace 0 .ship (BitVec.ofNat 64 (2 ^ 30))).gives fixedDevice p t) ∧
    (∃ l t, (headerBytes 0 (own fixedDevice) (2 ^ 30 + 32) 9).gives fixedDevice l t) ∧
    (∃ l t, (resolve 0 .write ((pagesOf (2 ^ 30) 64).map fun a => (a, 1))).gives fixedDevice l t) ∧
    (∃ v t, (bufferCheck 0 (2 ^ 30) (.dev (mediaKey 0 0 512 0)) 0 128).gives fixedDevice v t) ∧
    (∃ l t, (slotLeaves 0 (pagesOf (2 ^ 30) 64)).gives fixedDevice l t) :=
  ⟨by decide +kernel, by decide +kernel, good_gives (by decide +kernel), good_gives (by decide +kernel),
    good_gives (by decide +kernel), good_gives (by decide +kernel), good_gives (by decide +kernel)⟩
/-- RequestsComplete: addresses of device memory for SHIP, TICK and LAWO; a scratchpad word for LAWO; a stale ticket and
a live one. -/
theorem witness_RequestsComplete : (2 ^ 30 % shipAlign 18 = 0 ∧ acquired device 0 = true ∧ corePerformed device 0 = true) ∧
    (∃ p t, (hookPlace 0 .ship (BitVec.ofNat 64 (2 ^ 30))).gives device p t) ∧
    (let e := shipExtent 18 (2 ^ 30)
     ∃ v t, (bufferCheck 0 (2 ^ 30) (.dev (mediaKey 0 0 512 0)) e.1 e.2).gives device v t) ∧
    (∃ l t, (resolve 0 .ticket [(2 ^ 30, 128)]).gives device l t) ∧
    (∃ l t, (resolve 0 .law [(2 ^ 30, 16)]).gives device l t) ∧
    (∃ l t, (resolve 0 .law [(scratchBase + 0x1000, 16)]).gives pointing l t) ∧
    (∃ v t, (lawFetch 0 (BitVec.ofNat 64 (scratchBase + 0x1000)) (some 0) [5, 6]).gives (device.setTenant 0 { present := true, lawbase := BitVec.ofNat 64 (2 ^ 30) }) v t) :=
  ⟨by decide +kernel, good_gives (by decide +kernel), good_gives (by decide +kernel), good_gives (by decide +kernel),
    good_gives (by decide +kernel), good_gives (by decide +kernel), good_gives (by decide +kernel)⟩
theorem witness_RequestsComplete_tickets :
    let t := mkTicket 3 70 { used := true, gen := 5 }
    let s := setTicket 3 70 { used := true, gen := 5 } pointing
    tkGood t = true ∧ tkStale s t = false ∧ tkDomain t = (own s).domainId ∧ tkStale pointing t = true ∧
    inScratch ((own s).ptr 0).base (ticketBytes (tkSize t)) = true ∧ ((own s).ptr 0).base.toNat % 32 = 0 := by
  decide +kernel
/-- CachesComplete: a range of the own scratchpad has no line to fetch; DRAM's address is looked up, and no access is under way. -/
theorem witness_CachesComplete : (prefetchLines 0 (scratchBase / 128) 4 device).1 = false ∧
    objCause synced (pf2Kind 5) 5 (own synced).domain = none ∧ inPalette synced ((5 : W64).getLsbD 17) 5 = false ∧
    pathsPerformed device 0 0x7F = true ∧ (∃ pa t, (dramPa 0 (BitVec.ofNat 64 (2 ^ 30))).gives device pa t) ∧
    (match dramCases device (2 ^ 30) with | .error n => n | .ok _ => 0) = 2 ∧
    (match dramCases device (2 ^ 31) with | .error n => n | .ok _ => 0) = 0 :=
  ⟨by decide +kernel, by decide +kernel, by decide +kernel, by decide +kernel, good_gives (by decide +kernel),
    by decide +kernel, by decide +kernel⟩

/-! ## The step, traps and control -/

/-- A value that a body gives on a machine meets a test. -/
def goodWith {α : Type} (m : Act α) (test : α → Bool) (s : State) : Bool :=
  match ExceptT.run m s with
  | (.ok v, _) => test v
  | (.error _, _) => false
theorem goodWith_gives {α : Type} {m : Act α} {f : α → Bool} {s : State} (h : goodWith m f s = true) :
    ∃ v t, m.gives s v t ∧ f v = true := by
  unfold goodWith at h
  split at h
  · exact ⟨_, _, by assumption, h⟩
  · cases h

/-- StepRunsDecoded: with a word placed, strand 0 has its turn, may issue, and its parcels are read. -/
theorem witness_StepRunsDecoded : let s := State.reset.withFetchWord 32 0x06C0002F
    s.package.shutdown = false ∧ popTurn s (s.steps / 2 % 2 == 0) = some 0 ∧ (s.steps % 2 = 1 ∨ s.agenda = []) ∧ (s.strand 0).canIssue = true ∧
    ((s.strand 0).view = none ∧ (s.strand 0).pending = []) ∧ stands (s.core (StrandId.core 0)) = false ∧
    ∃ lo t, (fetchParcel 0 (s.strand 0).here).gives (dropIfGone (StrandId.core 0) ((s.strand 0).here.toNat / 128) (tick s)) lo t ∧
      (lo == 0x002F) = true :=
  ⟨by decide +kernel, by decide +kernel, by decide +kernel, by decide +kernel, by decide +kernel, by decide +kernel,
    goodWith_gives (f := fun lo => lo == 0x002F) (by decide +kernel)⟩
/-- 12 R270: strand 1 pops a channel at port M and has been READY longer; strand 0 is at a pop at port V. Of the same channel,
the lower strand's pop comes first. -/
theorem test_pop_turn : ∀ q ∈ [((2 : BitVec 3), some (0 : StrandId)), (3, some 1)],
    let s := placeBytes (leBytes 4 0x0002043B ++ encodeBytes (.hLda { ch := true, k := 0, fmt := 0, inc := false, p := q.1 })) State.reset
    let t := s.setStrand 0 { s.strand 0 with pc := (s.strand 0).pc + 4 }
    popTurn { t.setStrand 1 { s.strand 0 with state := .ready } with ready := [1, 0] } false = q.2 := by decide +kernel
/-- The second parcel of the word, a parcel that is no instruction, and words that decode and do not. -/
theorem witness_StepRunsDecoded_parcels : let s := State.reset.withFetchWord 32 0x06C0002F
    (∃ hi t, (fetchParcel 0 ((s.strand 0).here + 2)).gives (tick s) hi t ∧ (hi == 0x06C0) = true) ∧
    decode (leBytes 4 0x06C0002F) = .ok (.kopsAnd 1 2 3, 4) ∧ decode (leBytes 4 0x06C1002F) = .error .badWord ∧
    decode (leBytes 2 0x4000) = .error .badParcel :=
  ⟨goodWith_gives (f := fun hi => hi == 0x06C0) (by decide +kernel), by decide +kernel, by decide +kernel, by decide +kernel⟩
/-- An event whose turn it is, behind one of a core whose clock stands; on an odd step every ready strand's clock stands. -/
theorem witness_StepRunsDecoded_event : let s := ((demoCore fun x => { x with stretch := true }).post .handlerStart { core := 0 }).post .bootStart {}
    s.package.shutdown = false ∧ s.agenda = [.event .handlerStart { core := 0 }] ++ .event .bootStart {} :: [] ∧
    (∀ t ∈ [Turn.event .handlerStart { core := 0 }], turnStands s t = true) ∧ turnStands s (.event .bootStart {}) = false ∧
    s.steps % 2 = 0 ∧ ∀ k ∈ s.ready, stands (s.core k.core) = true := by decide +kernel
/-- StepAnswers: clocks that are stopped and clocks that run. -/
theorem witness_StepAnswers : (State.reset.withPackage fun p => { p with shutdown := true }).package.shutdown = true ∧
    State.reset.package.shutdown = false := by decide +kernel
/-- PrivilegedTraps: instructions of both majors; a word of each that is one and a word that is none, fetched. -/
theorem witness_PrivilegedTraps : isPrivileged (.protFlush) = true ∧ isPrivileged (.ctxsStop 10) = true ∧
    (0x49 / 2 % 64 = 36 ∧ 0x4B / 2 % 64 = 37) ∧
    (let s := State.reset.withFetchWord 32 0xFFFFFFC9
     (∃ lo t, (fetchParcel 0 4096).gives (dropIfGone 0 (4096 / 128) s) lo t ∧ (lo == 0xFFC9) = true) ∧
     (∃ hi t, (fetchParcel 0 4098).gives s hi t ∧ (hi == 0xFFFF) = true)) ∧
    decodeWord 0xFFFFFFC9 = .error .badWord :=
  ⟨by decide, by decide, by decide,
    ⟨goodWith_gives (f := fun lo => lo == 0xFFC9) (by decide +kernel),
      goodWith_gives (f := fun hi => hi == 0xFFFF) (by decide +kernel)⟩, by decide +kernel⟩
/-- FixedModeTime: a strand in fixed mode with a handler and one without. -/
theorem witness_FixedModeTime : plain fixedDemo = true ∧ (own fixedDemo).isFixed = true ∧ canTrap fixedDemo = true ∧
    (let s := demoWith fun x => { x with fixed := 1 }
     plain s = true ∧ (own s).isFixed = true ∧ canTrap s = false) := by decide +kernel
/-- BranchesComplete and TrapsRaised: even and odd targets. -/
theorem witness_jump_targets :
    (let s := pointAt 4
     plain s = true ∧ ((own s).ptr 1).base.getLsbD 0 = false ∧ (own s).link.getLsbD 0 = false ∧
      (lane64 (own s).a 0).getLsbD 0 = false ∧ (((own s).ptr 1).base + BitVec.ofNat 64 (2 * (7 : BitVec 12).toNat)).getLsbD 0 = false) ∧
    (let s := demoWith fun x => { x with link := 5, a := 5, xvec := 0x100, p := Vector.replicate 8 { base := 5 } }
     plain s = true ∧ (own s).xin = false ∧ canTrap s = true ∧ ((own s).ptr 1).base.toNat % 2 = 1 ∧ (own s).link.toNat % 2 = 1 ∧
      (lane64 (own s).a 0).toNat % 2 = 1 ∧ (((own s).ptr 1).base + BitVec.ofNat 64 (2 * (7 : BitVec 12).toNat)).toNat % 2 = 1) := by
  decide +kernel
/-- TrapsRaised: a lane-wise access and one of a fixed size that are not aligned, with enabled lanes. -/
theorem witness_TrapsRaised_misaligned : let s := pointAt (scratchBase + 0x1001)
    (mem 4 0 6).la = 0 ∧ ((own s).ptr (mem 4 0 6).p).base.toNat % (if size (mem 4 0 6).sz ≤ 8 then size (mem 4 0 6).sz else laneBytes (mem 4 0 6).fmt) ≠ 0 ∧
    coveredOn (mem 4 0 6) (own s) ≠ [] ∧
    ((own s).ptr (mem 0 0 3).p).base.toNat % (if size (mem 0 0 3).sz ≤ 8 then size (mem 0 0 3).sz else laneBytes (mem 0 0 3).fmt) ≠ 0 ∧
    coveredOn (mem 0 0 3) (own s) ≠ [] := by decide +kernel
/-- A strand with a handler and two misaligned pointers beside an aligned one: every other form that is misaligned. -/
def skewed : State := demoWith fun x => { x with
  xvec := 0x100
  p := (Vector.replicate 8 { base := BitVec.ofNat 64 (scratchBase + 0x1001) }).set 1 { base := BitVec.ofNat 64 (scratchBase + 0x1000) } }
theorem witness_TrapsRaised_misaligned_forms : let x := own skewed
    let element := fun (j : Nat) => let w := laneBytes 4
      ((x.ptr 0).base + BitVec.ofInt 64 (toSigned (8 * w) (Sys2Proof.Machine.lane (8 * w) x.a j) * w)).toNat
    plain skewed = true ∧ canTrap skewed = true ∧ (List.range (128 / laneBytes 4)).filter (x.guard 0) ≠ [] ∧
    (x.ptr (mem 4 0 6).p).base.toNat % laneBytes 4 ≠ 0 ∧ ({ mem 4 0 6 with la := 1 } : MemOps).la ≠ 0 ∧
    (((List.range (128 / laneBytes 4)).filter (x.guard 0)).map element).find? (fun a => a % laneBytes 4 != 0) =
      some (scratchBase + 0x1001) ∧
    (((List.range (128 / laneBytes 4 / 2)).filter (x.guard 0)).map fun j => element (128 / laneBytes 4 / 2 + j)).find?
      (fun a => a % laneBytes 4 != 0) = some (scratchBase + 0x1001) ∧
    ((x.ptr 2).base.toNat % size 3 ≠ 0 ∧ (x.ptr 1).base.toNat % size 3 = 0) ∧ (x.ptr 2).base.toNat % 16 ≠ 0 := by
  decide +kernel
/-- TimeCsrComplete: FIXED out of fixed mode with EN = 0 and EN = 1; in it the value that stands, another one, and 0 with no
words buffered and with some. -/
theorem witness_TimeCsrComplete_fixed :
    (let a0 := fun (n : W64) => lane64 (own (demoWith fun x => { x with a := n.setWidth 1024 })).a 0
     ((a0 0x40).toNat / 2 % 32 = 0 ∧ (a0 0x40).toNat < 2 ^ 19 ∧ (a0 0x40).getLsbD 0 = false) ∧ (a0 0x41).getLsbD 0 = true ∧
      (own demo).isFixed = false) ∧
    (own fixedDemo).isFixed = true ∧ (own fixedDemo).fixed = 1 ∧ (0x41 : W64) ≠ (own fixedDemo).fixed ∧
    holdsWords fixedDemo 0 = false ∧
    (let s := fixedDemo.setCore 0 { ownCore fixedDemo with
        buffered := [{ strand := 0, va := 4096, key := 4096, value := 5 }] }
     plain s = true ∧ (own s).isFixed = true ∧ canTrap s = true ∧ holdsWords s 0 = true) := by decide +kernel
/-- TimeCsrComplete and DiscardedControlWrites: a value of each register's range, and the first value out of it. -/
theorem witness_control_writes :
    (let a0 := fun (n : W64) => lane64 (own (demoWith fun x => { x with a := n.setWidth 1024 })).a 0
     (a0 4).toNat < 5 ∧ 5 ≤ (a0 5).toNat ∧ (a0 65535).toNat < 65536 ∧ 2 ^ 16 ≤ (a0 65536).toNat ∧
     ((a0 0x40001).toNat / 2 % 32 = 0 ∧ (a0 0x40001).toNat < 2 ^ 19) ∧ (a0 2).toNat / 2 % 32 ≠ 0 ∧ 2 ^ 19 ≤ (a0 0x80000).toNat ∧
     (a0 2).getLsbD 0 = false ∧ (a0 1).toNat % 2 = 1) ∧ plain demo = true ∧ (own demo).isFixed = false := by decide +kernel
/-- PointerSteps: the ends of j's range. -/
theorem witness_PointerSteps : (0 : BitVec 18).toNat < 2 ^ 17 ∧ (0x1FFFF : BitVec 18).toNat < 2 ^ 17 ∧
    ¬ (0x20000 : BitVec 18).toNat < 2 ^ 17 := by decide

/-! ## Boot, recovery, power and stacks -/

/-- An event in hand. -/
def given (e : EventArg) (s : State) : State := { s with arg := e }
/-- The machine after reset with its boot changed. -/
def booting (f : Boot → Boot) : State := withBoot f State.reset
/-- Results of the self-test of panel 0's cores. -/
def tested (f : Nat → Nat) : Table Nat := (List.range 208).map fun n => (n, f n)

/-- BootEvents: each phase of boot, its times past, and its replies. -/
theorem witness_BootEvents : State.reset.package.boot.phase = .notStarted ∧
    (let s := given { a := 207, ok := true } (booting fun b => { b with phase := .discovery })
     s.package.boot.phase = .discovery ∧ s.arg.a < 208 ∧ testResult s s.arg.panel s.arg.a = 0 ∧
       s.deviceTime < s.package.boot.since + 2000000) ∧
    (let s := given {} { booting fun b => { b with phase := .discovery, results := [(3, 1)] } with deviceTime := 2000000 }
     s.package.boot.mapped.contains s.arg.panel = false ∧ s.package.boot.since + 2000000 ≤ s.deviceTime ∧
     ((List.range 208).all fun n => testResult s s.arg.panel n == 0) = false) ∧
    (let s := given {} { booting fun b => { b with phase := .discovery } with deviceTime := 10000000 }
     ((List.range 208).any fun n => testResult s s.arg.panel n != 0) = false ∧ s.package.boot.since + 10000000 ≤ s.deviceTime) ∧
    (let s := given { core := mkCore 11 195 } { booting fun b => { b with phase := .delivery } with deviceTime := 10000000 }
     s.package.boot.phase = .delivery ∧ s.package.boot.delivered.contains s.arg.core = false ∧ 192 ≤ s.arg.core.index ∧
     s.arg.core.index < 196 ∧ s.arg.core.panel < 12 ∧ panelDelivered s s.arg.panel = false ∧
     s.package.boot.since + 10000000 ≤ s.deviceTime) ∧
    (let s := given { core := mkCore 11 195 } (booting fun b => { b with phase := .delivery })
     s.package.boot.phase = .delivery ∧ s.deviceTime < s.package.boot.since + 10000000) ∧
    (let s := booting fun b => { b with phase := .firmware }
     s.package.boot.phase = .firmware ∧ s.deviceTime < s.package.boot.since + 100000000) ∧
    (let s := { booting fun b => { b with phase := .firmware } with deviceTime := 100000000 }
     s.package.boot.phase = .firmware ∧ s.package.boot.since + 100000000 ≤ s.deviceTime) := by decide +kernel
/-- One of the two clauses of BOOT_START holds of every machine; which depends on the flash and its keys (log 9). -/
theorem witness_BootEvents_start (s : State) :
    (∃ stage reason, earlyStages s = .error (stage, reason)) ∨ ∃ key, earlyStages s = .ok key := by
  rcases h : earlyStages s with ⟨st, r⟩ | k
  · exact .inl ⟨st, r, rfl⟩
  · exact .inr ⟨k, rfl⟩
/-- A panel where no core passed, and one where all did and the configuration record retires none (log 9). -/
theorem witness_BootEvents_map : (let s := booting fun b => { b with phase := .discovery, results := tested fun _ => 2 }
     allResults s 0 = true ∧ (usableCores s 0).length < 196) ∧
    (let s := booting fun b => { b with phase := .discovery, results := tested fun _ => 1 }
     allResults s 0 = true ∧ (Config.retiredCores (configRecord s) 0 = [] → 196 ≤ (usableCores s 0).length)) := by
  refine ⟨by decide +kernel, by decide +kernel, fun h => ?_⟩
  unfold usableCores
  rw [h]
  decide +kernel

/-- RecoveryEvents: boot stopped, no operation and one of each kind in progress; an operation of no bytes at address 4,096
below the flash's end. The flash's size is the spec's open value (log 9). -/
theorem witness_RecoveryEvents : (let s := booting fun b => { b with phase := .stopped }
     bootStopped s = true ∧ recoveryBusy s = false) ∧
    (let b := (booting fun b => { b with phase := .stopped }).package.boot
     (b.rstat == 1) = false ∧ (4096 ≤ Config.flashSize → b.raddr.toNat + 4096 ≤ Config.flashSize) ∧
     b.raddr.toNat + b.rlen.toNat ≤ Config.flashSize) ∧
    ∀ n ∈ [1, 2, 3], let s := booting fun b => { b with phase := .stopped, rcmd := n, rstat := 1 }
      s.package.boot.rcmd = n ∧ bootStopped s = true := by
  refine ⟨by decide +kernel, ⟨by decide +kernel, ?_, ?_⟩, by decide +kernel⟩
  · exact fun h => (Nat.zero_add 4096).symm ▸ h
  · exact Nat.zero_le _

/-- PowerEvents: the thresholds, SRCCLK's limits on a source no core uses, a sequence at its source, trips of a core. -/
theorem witness_PowerEvents : (4800000 < 4800001 ∧ 4559999 < 4560000 ∧ 94 < 95) ∧
    (let s := given { v := 0x258076C } State.reset
     let a := s.arg.v.toNat % 4096
     let b := s.arg.v.toNat / 65536 % 4096
     s.arg.v.toNat < 2 ^ 28 ∧ s.arg.v.toNat / 4096 % 16 = 0 ∧ 600 ≤ a ∧ a ≤ 2100 ∧ 600 ≤ b ∧ b ≤ 2100 ∧
      a = (s.panel 0).fa.toNat ∧ b = (s.panel 0).fb.toNat ∧ sourceUsed s 0 true = false) ∧
    ((State.reset.core 0).status ≠ .retired ∧ (State.reset.core 0).forced = false ∧ (State.reset.core 0).gone = false) ∧
    (let x : Core := { hopping := true }
     x.hopping = true ∧ x.srcnow = x.srcTarget) := by decide +kernel
/-- PWRCTL's fields at both ends; the least voltage of a frequency is the spec's open value (log 10). -/
theorem witness_PowerEvents_pwrctl : (let v : W64 := 0x14200000
     v.toNat < 2 ^ 32 ∧ v.toNat % 2 ^ 17 = 0 ∧ v.toNat / 2 ^ 24 % 256 = 20 ∧ v.toNat / 2 ^ 18 % 64 = 8) ∧
    (let v : W64 := 0x8CC20000
     v.toNat < 2 ^ 32 ∧ v.toNat % 2 ^ 17 = 0 ∧ v.toNat / 2 ^ 24 % 256 = 140 ∧ v.toNat / 2 ^ 18 % 64 = 48 ∧ v.getLsbD 17 = true) := by
  decide
/-- The trip that makes sixteen within 10 µs, and one that does not. -/
theorem witness_PowerEvents_trips :
    (let x : Core := { trips := List.replicate 15 0 }
     16 ≤ ((x.trips.filter fun t => 10000 - t ≤ 10000) ++ [10000]).length ∧
     ((x.trips.filter fun t => 10001 - t ≤ 10000) ++ [10001]).length < 16) := by decide

/-- StackEvents: refresh on and off; entries of the region table; two regions of the far class set swapping, their
stacks apart, with nothing accepted for them. -/
theorem witness_StackEvents : (State.reset.stack 0).refresh = false ∧
    ((State.reset.setStack 0 { refresh := true }).stack 0).refresh = true ∧
    (let w := (0x80000000 : W64).setWidth 32
     (0x80000000 : W64).toNat < 2 ^ 32 ∧ rgClass w ≠ 3 ∧ rgStack w < 12 ∧ rgState w = 0) ∧
    (let w := (0xE5800000 : W64).setWidth 32
     rgClass w = 0 ∧ rgStack w = 11 ∧ rgState w = 3) ∧
    (let s := setRegion (setRegion State.reset 7 0xA0000005) 9 0xA0800006
     let ea := regionEntry s 7
     let eb := regionEntry s 9
     rgValid ea = true ∧ rgValid eb = true ∧ rgState ea = 1 ∧ rgState eb = 1 ∧ rgClass ea = rgClass eb ∧
      rgStack ea ≠ rgStack eb ∧ requestsIn s (entryMedia ea) (entryMedia eb) = false ∧ (s.stack (rgStack ea)).refresh = false ∧
      (s.stack (rgStack eb)).refresh = false) := by decide +kernel
/-- A stack that is neither dead nor short of a channel; an extent of the expander; slots that fill and empty. -/
theorem witness_StackEvents_slots : (State.reset.stack 3).dead = false ∧ (State.reset.stack 3).retired = none ∧
    (let s := setRegion State.reset 4 0x95800000
     extentRegions s 4 1 ≠ []) ∧
    (let s := State.reset.setStack 2 { slots := [(5, { state := .filling, next := some 9, heir := 3 })] }
     let v := Table.get {} (s.stack 2).slots 5
     v.state = .filling ∧ v.next = some 9) ∧
    ∀ b ∈ [false, true], let s := State.reset.setStack 2 { slots := [(5, { state := .filling, emptying := b })] }
      let v := Table.get {} (s.stack 2).slots 5
      v.state = .filling ∧ v.next = none ∧ v.emptying = b := by decide +kernel
/-- Every listed entry of a table of all numbers below n. -/
theorem get_listed {α : Type} (d : α) (f : Nat → α) (k : Nat) : ∀ n m : Nat, m ≤ k → k < m + n →
    Table.get d ((List.range' m n).map fun r => (r, f r)) k = f k := by
  intro n
  induction n with
  | zero => intro m h h'; omega
  | succ n ih =>
    intro m h h'
    simp only [List.range'_succ, List.map_cons, Table.get]
    split
    · next e => rw [e]
    · rw [if_neg (by omega)]
      exact ih (m + 1) (by omega) (by omega)
theorem state_set (e : BitVec 32) (n : Nat) (h : n < 4) : rgState (withRgState e n) = n := by
  have := e.isLt
  simp only [rgState, withRgState, BitVec.toNat_ofNat]
  omega
/-- A machine whose every region is in maintenance, so every stack's regions are. -/
def maintained : State := State.reset.withPackage fun p => { p with
  regions := (List.range' 0 524288).map fun r => (r, withRgState (defaultRegion r) 3 ^^^ defaultRegion r) }
theorem witness_StackEvents_retire (k : Nat) : ∀ r ∈ stackRegions maintained k, rgState (regionEntry maintained r) = 3 := by
  intro r h
  have hr : r < 524288 := by simpa using (List.mem_filter.1 h).1
  have : regionEntry maintained r = withRgState (defaultRegion r) 3 := by
    show Table.get 0 ((List.range' 0 524288).map fun r => (r, withRgState (defaultRegion r) 3 ^^^ defaultRegion r)) r ^^^
      defaultRegion r = _
    rw [get_listed _ _ _ _ _ (Nat.zero_le r) (by omega), BitVec.xor_assoc, BitVec.xor_self, BitVec.xor_zero]
  rw [this, state_set _ _ (by decide)]

/-! ## Links, registers, errors, items, tickets, hooks -/

/-- A flit of a kind, class and SEQ from package 0 (01 R29), without its CRC. -/
def rawFlit (kind cls seq : Nat) (payload : List Byte) : Flit :=
  { header := BitVec.ofNat 64 (kind * 2 ^ 60 + cls * 2 ^ 58 + seq * 2 ^ 50 + payload.length * 64), payload := payload, crc := 0 }
/-- The same with its CRC. -/
def aFlit (kind cls seq : Nat) (payload : List Byte) : Flit :=
  let f := rawFlit kind cls seq payload
  { f with crc := flitCrc f.header f.payload }
theorem aFlit_intact (kind cls seq : Nat) (payload : List Byte)
    (h : let f := aFlit kind cls seq payload
      (decide (flitKind f < 6) && decide (f.header.toNat / 64 % 256 ≤ 240) && f.header.toNat % 32 == 0 &&
        !(flitRsm f && flitKind f != 1) && !(flitClass f == 3 && flitKind f == 1)) = true) :
    flitIntact (aFlit kind cls seq payload) = true := by
  unfold flitIntact
  have : ((aFlit kind cls seq payload).crc == flitCrc (aFlit kind cls seq payload).header (aFlit kind cls seq payload).payload) =
    true := beq_self_eq_true _
  simpa [this, Bool.and_assoc] using h
/-- LinkEvents: an intact flit of each kind. -/
theorem witness_LinkEvents_intact : ∀ kind ∈ [0, 1, 2, 3, 4, 5], flitIntact (aFlit kind 0 9 [1]) = true := by
  intro kind h
  apply aFlit_intact
  revert kind
  decide +kernel
/-- LinkEvents: a link that is up, a first failure and an eighth, a refused flit that is
held, a clock that is ahead. -/
theorem witness_LinkEvents : (∀ kind ∈ [0, 1, 2, 3, 4, 5], flitKind (aFlit kind 0 9 [1]) = kind) ∧
    (let x : Link := { status := 0, failSeq := 9, fails := 7, replay := [rawFlit 0 2 9 []], hold := [(2, [rawFlit 0 2 8 []])] }
     let f := rawFlit 1 0 9 []
     let g := rawFlit 0 2 9 []
     x.status = 0 ∧ 8 ≤ (if x.failSeq == flitSeq f && x.fails != 0 then x.fails + 1 else 1) ∧
     x.replay.find? (fun g => flitSeq g == flitSeq f) = some g ∧ (Table.get [] x.hold (flitClass g)).isEmpty = false ∧
       (Table.get [] ({} : Link).hold (flitClass g)).isEmpty = true) ∧
    (let x : Link := { status := 0, failSeq := 9, fails := 6 }
     (if x.failSeq == flitSeq (rawFlit 1 0 9 []) && x.fails != 0 then x.fails + 1 else 1) < 8) ∧
    (let f := rawFlit 4 0 0 [1, 0, 0, 0, 0, 0, 0, 0]
     flitKind f = 4 ∧ flitSrc f / 128 = State.reset.package.pkg.toNat / 128 ∧
     State.reset.now.toNat < (BitVec.ofNat 64 (ofBytes (f.payload.take 8))).toNat) := by decide +kernel
/-- The hold queue, retraining, LINKEN and a link that closes, with its replay buffer empty and not. -/
theorem witness_LinkEvents_hold :
    (let x : Link := { status := 0, hold := [(1, [rawFlit 0 1 3 []])], holdUntil := [(1, 5)] }
     let held := Table.get [] x.hold 1
     x.status = 0 ∧ x.closing = false ∧ held.isEmpty = false ∧ Table.get 0 x.holdUntil 1 ≤ 5 ∧ x.replay.length < 128 ∧
       ∀ g ∈ x.replay, flitClass g ≠ 1) ∧
    (bootStopped (booting fun b => { b with phase := .stopped }) = true ∧ bootStopped State.reset = false) ∧
    (({ status := 1 } : Link).status = 1 ∧ (0x3FFFF : W64).toNat < 2 ^ 18) ∧
    (let x : Link := { closing := true, replay := [rawFlit 0 0 0 []], closeFrom := 7 }
     x.closing = true ∧ x.replay ≠ [] ∧ x.closeFrom + 100000 ≤ 100007) ∧ ({ closing := true } : Link).replay = [] := by
  decide +kernel
/-- RegisterEvents: registers of the three spaces; shootdowns, an epoch, a law shootdown, TRMODE's last code. -/
theorem witness_RegisterEvents : ctlReg 0x100 = some .bootst ∧ hostSizeOk 0x1FC 4 = true ∧ hostSizeOk 0x1F8 8 = true ∧ bootStopped State.reset = false ∧
    (let n := (0x1FFFFFFFFFF0002 : W64).toNat % 2 ^ 63
     n % 4 ≠ 3 ∧ n / 4 % 2 ^ 14 = 0 ∧ n < 2 ^ 57) ∧ State.reset.package.pgBusy = false ∧
    (let s := State.reset.withPackage fun p => { p with pgBusy := true }
     s.package.pgBusy = true ∧ oldAccess s (shootRange s 0) 1 = false) ∧
    ((1 : W64).toNat % 2 ^ 63 = 1 ∧ State.reset.package.flushBusy = false) ∧
    (let n := (0x1F0000FF05 : W64).toNat % 2 ^ 63
     State.reset.package.lawBusy = false ∧ n % 256 ≤ n / 256 % 256 ∧ n / 2 ^ 16 % 2 ^ 16 = 0 ∧ n < 2 ^ 37) ∧
    ((State.reset.core 0).status ≠ .retired ∧ (2 : W64).toNat < 3) := by decide +kernel
/-- ErrorEvents: a killed core in its panel's hands, scrubbed and not, with spares and without. -/
theorem witness_ErrorEvents : let c : CoreId := mkCore 1 5
    let s := (State.reset.setPanel 1 { kills := [c], spares := [200, 197] }).setCore c { status := .killed }
    ((s.panel c.panel).supervised = true ∧ c ∈ (s.panel c.panel).kills ∧ (s.core c).status = .killed) ∧
    (let t := s.setCore c { status := .killed, scrubbing := true }
     (t.core c).status = .killed ∧ (t.core c).scrubbing = true ∧ (t.core c).scrubFailed = false ∧
       (({ status := .killed, scrubFailed := true } : Core).scrubFailed = true) ∧ (t.panel c.panel).spares = [200, 197]) ∧
    (State.reset.panel 2).spares = [] := by decide +kernel
/-- ItemEvents: a store whose place answers; a load and a landing that their target takes, and one that an idle core turns
away; a request of each stage; a notification of a counter. -/
theorem witness_ItemEvents :
    (let r : StoreReq := { id := 7, core := 0, strand := 0, path := 0, va := 0, bytes := [(.dev 5, 1)] }
     findId StoreReq.id [r] 7 = some r ∧ storeBehind { demo with stores := [r] } r = false ∧ storeWaits demo r = none) ∧
    (let r : PanelRead := { id := 7, strand := 0, target := 0, off := 0, size := 8 }
     findId PanelRead.id [r] 7 = some r ∧ r.reply = none ∧ windowCause (demo.core 0) (demo.strand 0).domain = none ∧ inZone (demo.core 0) 0 8 = false ∧ readBehind demo r = false ∧
     windowCause (demo.core 1) (demo.strand 0).domain = some Cause.scratchDomain) ∧
    (let l : Landing := { id := 7, target := 0, off := 64, bytes := [(64, 1)], poison := [], sender := .strand 3, domain := 0
                          supervisor := true, zonesOnly := false }
     [l].find? (fun l => l.id == 7 && l.target == 0 && l.off == 64) = some l ∧ (demo.core 0).status ≠ .quiet ∧ windowCause (demo.core 0) l.domain = none ∧
     ((demo.core 0).parkedZones.any fun z => z.1 == l.domain && l.bytes.any fun b => z.2.2.off ≤ b.1 && b.1 < z.2.2.off + z.2.2.len) = false) ∧
    (let r : HookReq := { id := 7, routine := 0, place := .dev 0, va := 0, h0 := 0, h1 := 0, h3 := 0, rm := 0, tenant := 0
                          requester := .strand 0, acquire := false, stage := 0, domain := 0 }
     hookReq { demo with hookReqs := [r] } 7 = some r ∧ claimGone { demo with hookReqs := [r] } r = false ∧
     hookBehind { demo with hookReqs := [r] } r = false ∧ routineAllowed demo 0 29 = true ∧ (placeSlice demo r.place).isSome = true ∧
     ({ demo with stores := [{ id := 7, core := 0, strand := 0, path := 0, va := 0, bytes := [(.dev 5, 1)] }] } : State).stores.any (fun r => r.id == 7) = true ∧
     (([r].filter fun q => (q.stage == 1 || q.stage == 3)).length < 32) ∧ hookReq { demo with hookReqs := [r] } 8 = none ∧
     ticketReq demo 8 = none) ∧
    (let r : Prefetch := { id := 7, notify := some 0x1FFFF, lines := 2 }
     findId Prefetch.id [r] 7 = some r ∧ (0x1FFFF : W64).getLsbD 17 = false) := by decide +kernel
/-- Landings of each sender: at a core that takes them, one that is QUIET, one that has a parked zone there, one that is gone
and one of another domain; a part that finds an armed zone and one that does not. Notifications of a barrier that has room and
of one that has none. -/
theorem witness_ItemEvents_landings :
    (∀ from_ ∈ [LandingFrom.strand 3, .packet 7, .ticket 3],
      let l : Landing := { id := 7, target := 0, off := 64, bytes := [(64, 1), (65, 2)], poison := [], sender := from_, domain := 0
                           supervisor := true, zonesOnly := false }
      let s := { demo with landings := [l] }
      s.landings.find? (fun l => l.id == 7 && l.target == 0 && l.off == 64) = some l ∧ landingBehind s l = false ∧
      (s.core 0).status ≠ .quiet ∧ (s.core 0).gone = false ∧ windowCause (s.core 0) l.domain = none ∧
      windowCause (s.core 0) 0x1001 = some Cause.scratchDomain ∧
      windowCause { ownCore demo with status := .killed } l.domain = some Cause.remoteDead) ∧
    ({ ownCore demo with status := .killed } : Core).gone = true ∧ ({ ownCore demo with status := .quiet } : Core).gone = false ∧
    (let zone : Range := { off := 60, len := 8, zone := true, id := 1, landed := 0, strand := 0, armed := true }
     let hit := fun (b : Nat) => [zone].any fun r => r.zone && r.armed && r.off ≤ b && b < r.off + r.len
     hit 67 = true ∧ hit 68 = false ∧
     (([((0 : BitVec 16), 0, zone)] : List (BitVec 16 × Nat × Range)).any fun z => z.1 == 0 && z.2.2.off ≤ 64 && 64 < z.2.2.off + z.2.2.len) = true) ∧
    (let v : W64 := 0x20005
     let s := demoWith fun x => { x with
       pending := [{ parcels := 0, pc := 4096, left := 1, dests := [], state := .waiting 7 [] }] }
     v.getLsbD 17 = true ∧ overruns (barrierOf synced 5) (v.getLsbD 16) = false ∧ overruns (barrierOf synced 5) true = true ∧
     (((s.strand 0).pending.find? fun p => match p.state with | .waiting i _ => i == 7 | _ => false).isSome = true)) := by
  decide +kernel
/-- TicketEvents: a fetch that finds its slice's last entry free; a fill of a live and of a stale ticket; a redeem of an
entry that is filled and of one that is not; an age at its tenant's lifetime and one above it. -/
theorem witness_TicketEvents :
    (let r : TicketReq := { id := 7, strand := 0, lane := 0, bytes := [.dev 0], size := 0, stack := 0, slice := 0, ticket := 0
                            off := 0, redeem := false }
     let s := { demo with ticketReqs := [r] }
     ticketReq s 7 = some r ∧ r.ticket = 0 ∧ lineBusy s (.dev 0) = false ∧ fetchBehind s r = false ∧ mustWait s 0 = false ∧ (List.range 2048).find? (fun i => !(Table.get {} (s.stack r.stack).tickets
      (r.slice * 2048 + i)).used) = some 0) ∧
    (let e : TicketEntry := { used := true, gen := 5, filled := true, since := 0, tenant := 0 }
     let s := setTicket 3 70 e { demo with deviceTime := 1000000 }
     let t := mkTicket 3 70 e
     tkStale s t = false ∧ tkStale demo t = true ∧ tkDomain t = (s.strand 0).domainId ∧ (ticketEntry s t).filled = true ∧
      (ticketEntry (setTicket 3 70 { e with filled := false } demo) t).filled = false ∧ (let u := s.setTenant 0 { tlife := 0, activeFor := 1 }
       let age := fun (u : State) => (ticketEntry u t).age + ((u.tenant (ticketEntry u t).tenant).activeFor - (ticketEntry u t).since)
       age s ≤ (s.tenant 0).tlife.toNat * 1000 ∧ (u.tenant 0).tlife.toNat * 1000 < age u)) := by decide +kernel

/-- A request at its turn of routine n at a key, with first operand v. -/
def atHook (n key : Nat) (v : W64) : HookReq :=
  { id := 7, routine := n, place := .dev key, va := 0, h0 := v, h1 := 9, h3 := 0, rm := 0, tenant := 0, requester := .strand 0
    acquire := false, stage := 3, domain := 0 }
/-- The machine with bytes at key 4096 and a request in hand. -/
def hooked (r : HookReq) (bs : List Byte) : State :=
  given { id := 7 } { State.reset with hookReqs := [r], dmem := Memory.setBytes [] 4096 bs }
/-- HookAtomicEvents: a target that is not poisoned, with 5 in it; a sum at both ends of its range and past them; a
comparison that holds and one that does not. -/
theorem witness_HookAtomicEvents : let s := hooked (atHook 8 4096 5) [5]
    let so := fun (b : Byte) => toSigned 64 (ofBytes (((hookLine (hooked (atHook 8 4096 5) (List.replicate 7 b ++ [if b = 0 then 128 else 127]))
      (.dev 4096)).drop 0).take 8))
    hookReq s s.arg.id = some (atHook 8 4096 5) ∧ outMustWait s (atHook 8 4096 5) { reply := .done [] 0 0, writes := [(0, 1)] } = none ∧
    lineOffset (atHook 8 4096 5).place = 0 ∧ hookBad s (.dev 4096) 0 8 = false ∧
    hookBad s (.dev 4096) 0 4 = false ∧ ofBytes ((hookLine s (.dev 4096)).take 8) = 5 ∧
    (intMin 64 ≤ 5 + 5 ∧ 5 + 5 ≤ intMax 64) ∧ so 0 = intMin 64 ∧ so 255 = intMax 64 ∧ so 0 + -1 < intMin 64 ∧
    intMax 64 < so 255 + 1 := by decide +kernel
/-- An open queue header of capacity 2 with this CLAIM and PUB, READ and PEND 0. -/
def aHeader (claim pub : Nat) : List Byte := toBytes 8 claim ++ toBytes 8 pub ++ List.replicate 24 0 ++ [1, 1, 0, 0]
/-- HookRoutineEvents: a claim of the last slot and a publish of it, and a full queue. -/
theorem witness_HookRoutineEvents_queues :
    (let s := hooked (atHook 20 4096 0) (aHeader 1 1)
     let h := headerOf (hookLine s (.dev 4096))
     hookBad s (.dev 4096) 0 44 = false ∧ h.state = 1 ∧ h.tenant = 0 ∧ h.claim < h.read + h.cap ∧ h.claim < h.pub + 64) ∧
    (let h := headerOf (hookLine (hooked (atHook 21 4096 1) (aHeader 2 1)) (.dev 4096))
     h.pub ≤ 1 ∧ 1 < h.claim ∧ h.pend.testBit (1 - h.pub) = false ∧ ¬ h.claim < h.read + h.cap) := by decide +kernel
/-- Probes whose key stands in entry 1, and in none: entry 1 is empty. -/
theorem witness_HookRoutineEvents_hash :
    let key := fun (bs : List Byte) (i : Nat) => ofBytes (((hookLine (hooked (atHook 22 4096 5) bs) (.dev 4096)).drop (16 * i)).take 8)
    let full := toBytes 16 3 ++ toBytes 16 5
    ((∀ j < 1, key full j ≠ 5 ∧ key full j ≠ 0) ∧ key full 1 = 5) ∧
    ((∀ j < 1, key (toBytes 16 3) j ≠ 5 ∧ key (toBytes 16 3) j ≠ 0) ∧ key (toBytes 16 3) 1 = 0) ∧
    ∀ j ≤ 1, hookBad (hooked (atHook 22 4096 5) full) (.dev 4096) (16 * j) 16 = false := by decide +kernel
/-- Every law operation gives its word under an entry of kind 0 (13 R303, R305). -/
theorem witness_HookRoutineEvents_law : let s := hooked (atHook 24 4096 5) []
    lineOffset (.dev 4096) % 16 = 0 ∧ hookBad s (.dev 4096) 0 16 = false ∧
    ∀ f ∈ [LawForm.rd, .add, .set, .swap, .law, .chk],
      (match lawOp (hookLawEntry s (atHook f.routine 4096 5)) f 0 5 9 0 0 with | .ok _ => true | .error _ => false) = true ∧
      (match lawReach s (atHook f.routine 4096 5) (hookReads s (atHook f.routine 4096 5)) with | .ready _ => true | _ => false) =
        true := by
  decide +kernel
/-- A loadable routine's number. -/
theorem witness_HookRoutineEvents_loadable : 48 ≤ (atHook 48 4096 0).routine := by decide

/-! ## The host, the mailbox, the swift and core commands -/

/-- A record of fields: lowest bit and value. -/
def packed (fields : List (Nat × Nat)) : BitVec 512 := BitVec.ofNat 512 (fields.foldl (fun a f => a + f.2 * 2 ^ f.1) 0)
/-- A pair's first value meets a test. -/
def firstWith {α β : Type} (r : α × β) (test : α → Bool) : Bool := test r.1
theorem firstWith_eq {α β : Type} {r : α × β} {f : α → Bool} (h : firstWith r f = true) : ∃ a b, r = (a, b) ∧ f a = true :=
  ⟨r.1, r.2, rfl, h⟩
/-- A place was found. -/
def isPlace : Found → Bool
  | .place _ => true
  | _ => false
/-- device with a window of tenant 0 to its device memory, from window offset 0 on. -/
def windowed : State := device.setTenant 0 { present := true, windows := [(0, (1, BitVec.ofNat 64 (2 ^ 30)))] }
/-- HostEvents: an access that crosses a line of a window, read and written; a register. -/
theorem witness_HostEvents : windowVa (windowed.tenant 0) 120 16 = some (2 ^ 30 + 120) ∧
    windowVa (windowed.tenant 0) (2 ^ 21 - 7) 8 = none ∧
    (∃ l u, hostPlaces (tenantDomain windowed 0) .read (cutLines 2 (2 ^ 30 + 120) 16) windowed = (l, u) ∧
      (match l with | .ok l => l.length == 2 | _ => false) = true) ∧
    (∃ l u, hostPlaces (tenantDomain windowed 0) .write (cutLines 2 (2 ^ 30 + 120) 16) windowed = (l, u) ∧
      (match l with | .ok l => l.length == 2 | _ => false) = true) ∧
    (windowed.stores.any fun r => r.path == 7) = false ∧ hostSizeOk 8 4 = true ∧ bootStopped windowed = false :=
  ⟨by decide +kernel, by decide +kernel, firstWith_eq (by decide +kernel), firstWith_eq (by decide +kernel), by decide +kernel,
    by decide +kernel, by decide +kernel⟩
/-- SHIPGO's conditions, of a rounding mode too, and its target, shipped and as a law word. -/
theorem witness_HostEvents_ship : let x : Tenant := { present := true, shipAddr := BitVec.ofNat 64 (2 ^ 30), shipArgs := [BitVec.ofNat 64 (2 ^ 30), 5, 6, 7] }
    let s := device.setTenant 0 x
    bootStopped s = false ∧ bootStopped (booting fun b => { b with phase := .stopped }) = true ∧ (s.tenant 0).present = true ∧ shipBusy (s.tenant 0) = false ∧ ((0x30D : W64).toNat < 2 ^ 10 ∧ (0x30D : W64).toNat % 256 = 13) ∧
    (s.stores.any fun r => r.path == 7) = false ∧ (s.tenant 0).shipArgs = [x.shipAddr, 5, 6, 7] ∧ x.shipAddr.toNat % hostAlign 13 = 0 ∧ x.shipAddr.toNat % hostAlign 24 = 0 ∧
    (∃ f u, find 0 (tenantDomain s 0) .ship (2 ^ 30) s = (f, u) ∧ isPlace f = true) ∧
    ∃ f u, find 0 (tenantDomain s 0) .law (2 ^ 30) s = (f, u) ∧ isPlace f = true :=
  ⟨by decide +kernel, by decide +kernel, by decide +kernel, by decide +kernel, by decide +kernel, by decide +kernel, by decide +kernel, by decide +kernel,
    by decide +kernel, firstWith_eq (by decide +kernel), firstWith_eq (by decide +kernel)⟩
/-- Replies of each kind to the host's ship in hand. -/
theorem witness_HostEvents_reply : ∀ reply ∈ [HookReply.done [1, 2] 0 0, .error 9, .refused 0xFFFF],
    let r : HookReq := { atHook 0 4096 5 with requester := .host 3, reply := some reply }
    let s := (hooked r []).setTenant 3 { present := true, shipId := 7 }
    hookReq s 7 = some r ∧ (s.tenant 3).shipId = 7 ∧ (s.tenant 3).present = true := by decide +kernel

/-- The machine with a request in the mailbox: command, and fields by their first bit; tenant 31 present or not. -/
def asked (cmd : Nat) (fields : List (Nat × Nat)) (there : Bool) : State :=
  (demo.withPackage fun p => { p with doorbell := true, mailReq := sealRecord (packed ((0, cmd) :: fields)) }).setTenant 31
    { present := there, queues := if there then [(15, { header := 2 ^ 30, panel := 0, consumer := 0 })] else [] }
/-- MailboxEvents: a valid request of each command, and a request whose tenant is out of range. -/
theorem witness_MailboxEvents : ∀ q ∈ [(1, [(16, 31), (192, 15), (208, 1)], none), (2, [(16, 31)], none),
      (3, [(16, 31), (24, 15), (32, 11), (40, 3), (48, 8), (64, 2 ^ 30)], none), (4, [(16, 31), (24, 15)], none),
      (5, [(24, 48), (32, 1), (64, 1)], none), (6, [(416, 64)], none), (2, [(16, 32)], some 2), (7, [], some 0)],
    (let s := asked q.1 q.2.1 true
     s.package.doorbell = true ∧ bootStopped s = false ∧ mailProblem s = q.2.2 ∧ mailField s 0 2 = q.1) := by decide +kernel
/-- A search from c on meets a number that passes the test. -/
theorem look_some {c n i : Nat} {test : Nat → Bool} (h : test i = true) : ∀ m ≤ n,
    (∃ j, 1 ≤ j ∧ j ≤ m ∧ (c + (n - j)) % n = i) → (firstFrom.look c n test m).isSome = true
  | 0, _, ⟨j, h1, h2, _⟩ => by omega
  | m + 1, hm, ⟨j, h1, h2, e⟩ => by
    rw [firstFrom.look]
    split
    · rfl
    · next hf =>
      refine look_some h m (by omega) ⟨j, h1, ?_, e⟩
      rcases Nat.lt_or_ge m j with hj | hj
      · obtain rfl : j = m + 1 := by omega
        exact absurd (e ▸ h) hf
      · exact hj
theorem firstFrom_some {c n i : Nat} {test : Nat → Bool} (hi : i < n) (h : test i = true) : (firstFrom c n test).isSome = true := by
  have hc := Nat.mod_lt c (Nat.zero_lt_of_lt hi)
  have key : ∀ d < n, (c + d) % n = i → (firstFrom c n test).isSome = true := fun d hd e =>
    look_some h n (Nat.le_refl n) ⟨n - d, by omega, by omega, by rw [Nat.sub_sub_self (Nat.le_of_lt hd)]; exact e⟩
  rcases Nat.lt_or_ge i (c % n) with hl | hl
  · refine key (i + n - c % n) (by omega) ?_
    rw [Nat.add_mod, Nat.mod_eq_of_lt (a := i + n - c % n) (by omega), show c % n + (i + n - c % n) = i + n by omega,
      Nat.add_mod_right, Nat.mod_eq_of_lt hi]
  · refine key (i - c % n) (by omega) ?_
    rw [Nat.add_mod, Nat.mod_eq_of_lt (a := i - c % n) (by omega), show c % n + (i - c % n) = i by omega, Nat.mod_eq_of_lt hi]
/-- TENANT_CREATE of an absent tenant: no windows and no declarations, and the domains are all free. -/
theorem witness_MailboxEvents_create : let s := asked 1 [(16, 31), (192, 15), (208, 1)] false
    (s.tenant 31).present = false ∧ readWindows s (mailField s 32 8) (mailField s 40 1) = some [] ∧
    bootStopped s = false ∧ declBytes s = .ok [] ∧ readDecls s [] = some [] ∧ (s.package.gens = [] ∧ (Table.get ((0 : Nat), (0 : Nat)) [] 4).1 + 1 ≠ (Table.get ((0 : Nat), (0 : Nat)) [] 4).2) ∧
    (∀ c, (firstFrom c 4091 fun i => !(List.range 32).any fun t => tenantValid s t && domId (tenantDomain s t) == 4 + i).isSome =
      true) := by
  refine ⟨by decide +kernel, by decide +kernel, by decide +kernel, by decide +kernel, by decide +kernel, by decide +kernel,
    fun c => firstFrom_some (i := 0) (by decide) ?_⟩
  have h : ∀ t ∈ List.range 32, tenantValid (asked 1 [(16, 31), (192, 15), (208, 1)] false) t = false := by decide +kernel
  simp only [Bool.not_eq_true', List.any_eq_false, Bool.and_eq_true, not_and]
  intro t ht hv
  rw [h t ht] at hv
  cases hv
/-- A block of 8 KiB that can take the law table of the tenant. -/
theorem witness_MailboxEvents_lawTable : let s := asked 1 [(16, 31), (192, 15), (208, 1)] false
    declCount s = s ∧ (lawPlace s 31).isSome = true := by
  refine ⟨by unfold declCount; rw [if_pos (by decide +kernel)], ?_⟩
  unfold lawPlace
  rw [Option.isSome_map]
  exact firstFrom_some (i := 2 ^ 17 + 64) (by decide) (by decide +kernel)
/-- TENANT_DESTROY while a matrix command of the tenant runs, and while none does. -/
theorem witness_MailboxEvents_destroy : let runs := fun (s : State) =>
      (s.cores.any fun q => q.2.active.any fun m => m.domain == tenantDomain s 31)
    let m : Command := { word := 0, strand := 0, entry := 0, horizon := none, domain := tenantDomain (asked 2 [(16, 31)] true) 31 }
    runs ((asked 2 [(16, 31)] true).setCore 5 { active := some m }) = true ∧ runs (asked 2 [(16, 31)] true) = false := by
  decide +kernel
/-- QUEUE_CREATE with a slot of the swift free, QUEUE_DESTROY of a queue that is drained and of one that is not, a routine,
and a request that fails its CRC. -/
theorem witness_MailboxEvents_queues : (let s := asked 3 [(16, 31), (24, 14)] true
      ((s.tenant 31).queues.any fun q => q.1 == 14) = false ∧
      ((List.range 128).find? fun i => !(Table.get 0 (s.panel 0).qbind i).getLsbD 54) = some 0 ∧
      (s.tenant 31).queues.find? (fun q => q.1 == 15) = some (15, { header := 2 ^ 30, panel := 0, consumer := 0 })) ∧
    (∃ f u, find 0 serviceDomain .write (2 ^ 30) device = (f, u) ∧ isPlace f = true) ∧
    (∃ f u, headerAt 0 0 (2 ^ 30) device = (f, u) ∧ (match f with | .ok (_, h) => decide (h.pub ≤ h.read) | .error _ => false) = true) ∧
    (∃ f u, headerAt 0 0 (2 ^ 30) { device with dmem := device.dmem.setBytes (mediaKey 0 0 512 0) (aHeader 1 1) } = (f, u) ∧
      (match f with | .ok (_, h) => decide (h.read < h.pub ∧ h.state = 1) | .error _ => false) = true) ∧
    routineOk [0x90000000] = true ∧ routineRuns demo 48 = false ∧ recordOk 1 = false :=
  ⟨by decide +kernel, firstWith_eq (by decide +kernel), firstWith_eq (by decide +kernel), firstWith_eq (by decide +kernel),
    by decide +kernel, by decide +kernel, by decide +kernel⟩
/-- Nothing holds up a header: not the write of a new one, nor of a closing state, nor what TENANT_DESTROY writes. -/
theorem witness_MailboxEvents_headers :
    (match find 0 serviceDomain .write (2 ^ 30) device with
      | (.place p, u) => headerWaits u p ((newHeader 31 3 (2 ^ 31)).zipIdx.map fun b => (b.2, b.1))
      | _ => true) = false ∧
    (match headerAt 0 0 (2 ^ 30) device with
      | (.ok (p, _), u) => headerWaits u p [(41, 2)]
      | _ => true) = false ∧
    closeHeld device 0 (15, { header := 2 ^ 30, panel := 0, consumer := 0 }) = false ∧
    serviceHeld 0 (2 ^ 30 + 8) (toBytes 2 9) device = false := by decide +kernel
/-- A replacement that waits, and an identity for ATTEST. -/
theorem witness_MailboxEvents_replace : (Table.get (0, []) [(48, ((1 : BitVec 32), [(0x90000000 : BitVec 32)]))] 48).2 ≠ [] ∧
    (booting fun b => { b with identity := some 5 }).package.boot.identity = some 5 := by decide +kernel

/-- A record that waits for nothing. -/
def aRecord : TaskRec :=
  { id := 9, tenant := 0, queue := 1, slot := 0, word := packed [(440, 3)], ready := true, passedAt := some 0, agedAt := none }
/-- device with queue 1 of tenant 0 bound to panel 0's swift, and one record published in it. -/
def queued : State := { device with
  dmem := (device.dmem.setBytes (mediaKey 0 0 512 0) (toBytes 8 1 ++ toBytes 8 1 ++ List.replicate 16 0 ++
    toBytes 8 (2 ^ 30 + 128) ++ [1, 1, 0, 0])).setBytes (mediaKey 0 0 512 128) (recBytes (sealRecord (packed [(440, 1)]))) }
/-- SwiftEvents: a slot whose record is good. -/
theorem witness_SwiftEvents_slot : boundHeader (demo.setPanel 0 { qbind := [(0, BitVec.ofNat 64 (2 ^ 55 + 2 ^ 54 + 2 ^ 23))] }) 0 0 1 =
      some (2 ^ 30) ∧
    (∃ f u, headerAt 0 0 (2 ^ 30) queued = (f, u) ∧ (match f with
      | .ok (_, h) => decide (nextReadOf queued 0 0 1 h.read = h.read ∧ max 0 h.read < min h.pub (h.read + 64) ∧ (h.base + 0 % h.cap * 64) % 2 ^ 64 = 2 ^ 30 + 128)
      | .error _ => false) = true) ∧
    (∃ f u, find 0 0 .read (2 ^ 30 + 128) queued = (f, u) ∧ (match f with
      | .place p => (let w := ofRecBytes (placeRead queued p 64)
                     recordOk w && (recBad queued 0 w).isNone)
      | _ => false) = true) :=
  ⟨by decide +kernel, firstWith_eq (by decide +kernel), firstWith_eq (by decide +kernel)⟩
/-- A record passed over, chosen, started and completed. -/
theorem witness_SwiftEvents : let p : Panel := { records := [aRecord] }
    (p.records.find? (fun r => r.id == 9) = some aRecord ∧ aRecord.passedAt = some 0 ∧ aRecord.agedAt = none) ∧
    (let s := (demo.setPanel 0 p).setCore 3 { tmask := 1 }
     let l := p.records.filter fun r => r.ready && !(p.chosen.any fun k => k.2.id == r.id) && !(eligibleCores s 0 r).isEmpty
     p.supervised = true ∧ p.redispense = [] ∧ chooseRecord p l = some aRecord ∧
     rotated p.corePtr (eligibleCores s 0 aRecord) = some 3) ∧
    (let s := (demo.setPanel 0 { records := [aRecord], chosen := [(3, aRecord)] }).setCore 3 { tmask := 1 }
     (s.panel 0).chosen.find? (fun k => k.1 == 3) = some (3, aRecord) ∧ (s.core 3).active = none ∧ ((s.panel 0).redispense.any fun k => k.2.id == 9) = false ∧
     ((s.panel 0).records.any fun q => q.id == 9) = true ∧ mayLaunch s 3 aRecord = true ∧ slotsHeld s 3 0 = false ∧
     traceHeld s 3 (taskEntry aRecord) = false ∧ tenantOf s (tenantDomain s 0) = coreTenant s 3 ∧
     (let u := s.setTenant 0 { present := true, tdom := 0x11001 }
      tenantOf u (tenantDomain u 0) ≠ coreTenant u 3)) ∧
    (let s := (State.reset.setPanel 0 { runningTable := [(3, aRecord)] }).setCore 3 { status := .running }
     runningRec s 3 = some aRecord ∧ (s.core 3).status = .running ∧ (s.core 3).stop = false ∧ matrixBusy (s.core 3) = false ∧
     (coreStrands 3).any (taskStrand s) = false ∧ recDonev aRecord.word = true) := by decide +kernel
/-- A trace whose next entry can be read, and buckets of a tenant with a packet that waits: balances below one burst and
above. -/
theorem witness_SwiftEvents_trace : let s := { device.setCore 0 { trmode := 2, trpos := BitVec.ofNat 64 (2 ^ 30) } with deviceTime := 1000000 }
    let j : CopyJob := { id := 7, panel := 0, engine := 0, tenant := 0, queue := 0, slotAddr := 0, word := 0, appender := none
                         skeinS := 0, skeinD := 0, horizon := none, domain := 0, stage := 0, reason := 0, flags := 0
                         parked := none, parkedSeq := 0, bursts := 1 }
    (s.core 0).trmode = 2 ∧ (s.core 0).diverged = false ∧ (s.core 0).trSince = 0 ∧ traceNext s 0 = some 0 ∧
    traceKind 0 = 0 ∧ 3 ≤ traceKind (BitVec.ofNat 128 (3 * 2 ^ 124)) ∧ traceKind (taskEntry aRecord) = 1 ∧
    (∀ n ∈ [0, 1, 3], traceNext { s with dmem := s.dmem.setBytes (mediaKey 0 0 512 0) (toBytes 16 (n * 2 ^ 124)) } 0 =
      some (BitVec.ofNat 128 (n * 2 ^ 124))) ∧
    0 + (Table.get 1000 (s.panel 0).tdivto (traceTenant 0)).toNat * 1000 ≤ s.deviceTime ∧
    waitingJob { s with copyJobs := [j] } 0 0 0 = some j ∧ waitingJob s 0 0 0 = none ∧
    min ((0 : Int) + (255 : Nat)) ((1 : Nat) * 256) < 256 ∧ 256 ≤ min ((1 : Int) + (255 : Nat)) ((1 : Nat) * 256) := by decide +kernel

/-- CoreCommandEvents: a core in each state that a command takes; a save that ends; zones and a timeout. -/
theorem witness_CoreCommandEvents : (State.reset.core 0).status = .idle ∧ (demo.core 0).status = .running ∧
    (demo.core 0).ranges.any Range.zone = false ∧
    (let x : Core := { stopCmd := 5 }
     x.stopCmd = 5 ∧ x.gone = false ∧ x.tileBad = [] ∧ (x.tiles.any fun q => !cellOk q.2) = false) ∧
    (∀ st ∈ [CoreState.idle, .running, .halted],
      let x : Core := { status := st, ranges := [{ off := 60, len := 8, zone := true, id := 1, landed := 0, strand := 0, armed := true }] }
      ((demo.setCore 0 x).core 0).status = st ∧ ((demo.setCore 0 x).core 0).ranges.any Range.zone = true) ∧ noStrand demo 1 = true ∧
    (∀ st ∈ [CoreState.halted, .quiet], ((State.reset.setCore 0 { status := st }).core 0).status = .halted ∨
      ((State.reset.setCore 0 { status := st }).core 0).status = .quiet) ∧
    (∀ n ∈ [1, 4], let x : Core := { stopCmd := n, zoneWaitFrom := some 5 }
      x.zoneWaitFrom = some 5 ∧ x.stopCmd = n ∧ 5 + (demo.panel 0).zto.toNat * 1000 ≤ 200005) := by decide +kernel

/-! ## A save that is restored -/

/-- The CRC of a save of zeros (04 R118). -/
def zeroSave : List Byte := toBytes 4 (crc32 (List.replicate (saveSize - 4) 0)).toNat
/-- The host memory with a save of zeros from byte 1 MiB on: only its CRC is listed. -/
def saveMem : Memory := [(0x1002FC, zeroSave.getD 0 0), (0x1002FD, zeroSave.getD 1 0), (0x1002FE, zeroSave.getD 2 0),
  (0x1002FF, zeroSave.getD 3 0)]
/-- demo with this host memory. -/
def hosted : State := demo.withPackage fun p => { p with hostMem := saveMem }
theorem hosted_find : ∀ r ∈ pageRuns 0x100000 saveSize, (find 1 serviceDomain .read r.1 hosted).1 = .place (.host r.1) := by
  decide +kernel
theorem hosted_runs : pageRuns 0x100000 saveSize =
    ((List.range 14).map fun i => (0x100000 + 65536 * i, 65536 * i, 65536)) ++ [(0x1E0000, 0xE0000, 14336)] := by
  decide +kernel
theorem foldl_found (g : Nat × Nat × Nat → List Byte) (f : Except Found (List Byte) → Nat × Nat × Nat → Except Found (List Byte)) :
    ∀ (rs : List (Nat × Nat × Nat)), (∀ l, ∀ r ∈ rs, f (.ok l) r = .ok (l ++ g r)) → ∀ l,
      rs.foldl f (.ok l) = .ok (l ++ rs.flatMap g) := by
  intro rs
  induction rs with
  | nil => simp
  | cons r rs ih =>
    intro h l
    rw [List.foldl_cons, h l r List.mem_cons_self, ih (fun l q hq => h l q (List.mem_cons_of_mem _ hq)), List.flatMap_cons,
      List.append_assoc]
/-- With no request at a hook, the lines of a run of host memory hold nothing up. -/
theorem lines_free (s : State) (h : s.hookReqs = []) (l : List Place) : l.any (lineBusy s) = false := by
  simp [lineBusy, h]
theorem serviceLoad_found (s : State) (p va n : Nat) (hq : s.hookReqs = [])
    (h : ∀ r ∈ pageRuns va n, (find p serviceDomain .read r.1 s).1 = .place (.host r.1)) :
    serviceLoad s p va n = .ok ((pageRuns va n).flatMap fun r => placeRead s (.host r.1) r.2.2) := by
  have free : ∀ a k, ((placeLines (.host a) k).any fun q => placeHeld s q || lineBusy s q) = false := by
    intro a k
    simp [placeLines, lineBusy, hq, Place.plus, placeHeld]
  unfold serviceLoad
  rw [foldl_found (fun r => placeRead s (.host r.1) r.2.2) _ (pageRuns va n)
    (fun l r hr => by simp only [h r hr, free]; rfl) [], List.nil_append]
theorem range_runs (f : Nat → Byte) (c n : Nat) :
    (List.range n).flatMap (fun i => (List.range c).map fun j => f (c * i + j)) = (List.range (c * n)).map f := by
  induction n with
  | zero => simp
  | succ n ih =>
    rw [List.range_succ, List.flatMap_append, ih, Nat.mul_succ, List.range_add, List.map_append]
    simp [List.map_map, Function.comp_def]
theorem hosted_load : serviceLoad hosted 1 0x100000 saveSize =
    .ok ((List.range saveSize).map fun i => saveMem.byte (0x100000 + i)) := by
  rw [serviceLoad_found hosted 1 _ _ rfl hosted_find, hosted_runs]
  have key : ∀ a n, placeRead hosted (.host (0x100000 + a)) n = (List.range n).map fun j => saveMem.byte (0x100000 + (a + j)) := by
    intro a n
    unfold placeRead
    apply List.map_congr_left
    intro i _
    show saveMem.byte (0x100000 + a + i) = _
    rw [Nat.add_assoc]
  rw [List.flatMap_append, List.flatMap_map]
  have h := range_runs (fun i => saveMem.byte (0x100000 + i)) 65536 14
  simp only [key, List.flatMap_cons, List.flatMap_nil, List.append_nil]
  rw [h]
  have e : (0x1E0000 : Nat) = 0x100000 + 65536 * 14 := by decide
  rw [e, key]
  have e2 : saveSize = 65536 * 14 + 14336 := by decide
  rw [e2, List.range_add, List.map_append]
  simp [List.map_map, Function.comp_def]
theorem four_outside (b0 b1 b2 b3 : Byte) (i : Nat) (h : i < 0x2FC ∨ 0x300 ≤ i) : Memory.byte
    [(0x1002FC, b0), (0x1002FD, b1), (0x1002FE, b2), (0x1002FF, b3)] (0x100000 + i) = 0 := by
  simp only [Memory.byte, Table.get]
  split_ifs <;> first | rfl | (exfalso; omega)
theorem four_inside (b0 b1 b2 b3 : Byte) : (List.range' 0x2FC 4).map (fun i => Memory.byte
    [(0x1002FC, b0), (0x1002FD, b1), (0x1002FE, b2), (0x1002FF, b3)] (0x100000 + i)) = [b0, b1, b2, b3] := by
  simp [Memory.byte, Table.get, List.range'_succ]
/-- A byte string of zeros but for the four bytes from a on. -/
theorem zeros_but_four (f : Nat → Byte) (a n : Nat) (y : List Byte) (hn : a + 4 ≤ n) (h : ∀ i, i < a ∨ a + 4 ≤ i → f i = 0)
    (hy : (List.range' a 4).map f = y) :
    ((((List.range n).map f).drop a).take 4 = y) ∧
      ((List.range n).map f).take a ++ ((List.range n).map f).drop (a + 4) = List.replicate (n - 4) 0 := by
  have split : (List.range n).map f =
      (List.range a).map f ++ ((List.range' a 4).map f ++ (List.range' (a + 4) (n - (a + 4))).map f) := by
    have e : n = a + (4 + (n - (a + 4))) := by omega
    have e' : List.range' 0 a ++ List.range' a (4 + (n - (a + 4))) = List.range' 0 (a + (4 + (n - (a + 4)))) := by
      simpa using List.range'_append_1 (s := 0) (m := a) (n := 4 + (n - (a + 4)))
    rw [← List.map_append, ← List.map_append, List.range'_append_1, List.range_eq_range', List.range_eq_range', e', ← e]
  have h1 : (List.range a).map f = List.replicate a 0 := by
    refine List.eq_replicate_iff.2 ⟨by simp, fun b hb => ?_⟩
    obtain ⟨i, hi, rfl⟩ := List.mem_map.1 hb
    exact h i (.inl (List.mem_range.1 hi))
  have h3 : (List.range' (a + 4) (n - (a + 4))).map f = List.replicate (n - (a + 4)) 0 := by
    refine List.eq_replicate_iff.2 ⟨by simp, fun b hb => ?_⟩
    obtain ⟨i, hi, rfl⟩ := List.mem_map.1 hb
    exact h i (.inr (List.mem_range'_1.1 hi).1)
  have hl : y.length = 4 := by rw [← hy]; simp
  have ha : (List.replicate a (0 : Byte)).length = a := List.length_replicate
  rw [split, h1, h3, hy]
  refine ⟨by rw [List.drop_left' ha, List.take_left' hl], ?_⟩
  rw [List.take_left' ha, ← List.append_assoc, List.drop_left' (by simp [hl]), List.replicate_append_replicate]
  congr 1
  omega
theorem crc_bytes (c : BitVec 32) : let y := toBytes 4 c.toNat
    ofBytes [y.getD 0 0, y.getD 1 0, y.getD 2 0, y.getD 3 0] = c.toNat := by
  have hc := c.isLt
  generalize c.toNat = n at hc
  simp [toBytes, ofBytes]
  omega
/-- CoreCommandEvents: an IDLE core without strands, and a save area that can be read, and whose CRC is right. -/
theorem witness_CoreCommandEvents_resume : (hosted.core (mkCore 1 0)).status = .idle ∧ noStrand hosted (mkCore 1 0) = true ∧
    saveAddr 0x100003 = 0x100000 ∧ hosted.stores = [] ∧
    ∃ bs, serviceLoad hosted (mkCore 1 0).panel 0x100000 saveSize = .ok bs ∧
      ofBytes ((bs.drop 0x2FC).take 4) = (crc32 (bs.take 0x2FC ++ bs.drop (0x2FC + 4))).toNat := by
  refine ⟨by decide +kernel, by decide +kernel, by decide +kernel, by decide +kernel, _, hosted_load, ?_⟩
  obtain ⟨h, h'⟩ := zeros_but_four (fun i => saveMem.byte (0x100000 + i)) 0x2FC saveSize _ (by decide)
    (fun i => four_outside _ _ _ _ i) (four_inside _ _ _ _)
  rw [h, h']
  exact crc_bytes _

/-! ## A save that is written -/

theorem layout_length (n : Nat) (fields : List (Nat × Nat × Nat)) : (layout n fields).length = n := by
  have overlaid : ∀ (b : List Byte) (off : Nat) (bs : List Byte), (overlay b off bs).length = b.length := by
    intro b off bs
    simp only [overlay, List.length_append, List.length_take, List.length_drop]
    omega
  have : ∀ (l : List (Nat × Nat × Nat)) (b : List Byte),
      (l.foldl (fun b f => overlay b f.1 (toBytes f.2.1 f.2.2)) b).length = b.length := by
    intro l
    induction l with
    | nil => intro b; rfl
    | cons f l ih => intro b; rw [List.foldl_cons, ih, overlaid]
  unfold layout
  rw [this, List.length_replicate]
theorem bytes_length (n : Nat) : ∀ v : Nat, (toBytes n v).length = n := by
  induction n with
  | zero => intro v; rfl
  | succ n ih => intro v; rw [toBytes, List.length_cons, ih]
theorem flat_length {α : Type} (g : α → List Byte) (k : Nat) (h : ∀ a, (g a).length = k) (l : List α) :
    (l.flatMap g).length = l.length * k := by
  induction l with
  | nil => simp
  | cons a l ih => rw [List.flatMap_cons, List.length_append, h, ih, List.length_cons, Nat.add_mul]; omega
theorem saveImage_length (s : State) (c : CoreId) (zones : List Range) : (saveImage s c zones).length = saveSize := by
  have h1 : ∀ k, (savedRecord s c k).length = 768 := by
    intro k
    unfold savedRecord
    dsimp only
    split <;> exact layout_length _ _
  have h3 : (coreStrands c).length = 11 := by simp [coreStrands]
  unfold saveImage saveBody saveHeader
  simp only [List.length_append, layout_length, bytes_length, flat_length _ _ h1,
    flat_length _ _ (fun _ => bytes_length _ _), Memory.length_bytes, h3, saveSize]
  rw [flat_length _ 64 (fun i => by split; exacts [bytes_length _ _, List.length_replicate])]
  simp only [List.length_range]
/-- CoreCommandEvents: a core whose save is due, and a save area that holds nothing up. -/
def saving : State := hosted.setCore (mkCore 1 0) { stopCmd := 5, saveArea := 0x100000 }
theorem saving_find : ∀ r ∈ pageRuns 0x100000 saveSize, (match find 1 serviceDomain .write r.1 saving with
    | (.place (.host _), u) => u.hookReqs.isEmpty
    | _ => false) = true := by decide +kernel
theorem witness_CoreCommandEvents_save : let x := saving.core (mkCore 1 0)
    x.stopCmd = 5 ∧ x.gone = false ∧ x.tileBad = [] ∧
      serviceHeld (mkCore 1 0).panel x.saveArea (saveImage saving (mkCore 1 0) []) saving = false := by
  refine ⟨by decide +kernel, by decide +kernel, by decide +kernel, ?_⟩
  show serviceHeld 1 0x100000 _ saving = false
  unfold serviceHeld
  rw [saveImage_length, List.any_eq_false]
  intro r hr
  have h := saving_find r hr
  split at h
  · next a u hu =>
    rw [hu]
    simp only [runWaits, lines_free u (List.isEmpty_iff.1 h), Bool.false_or]
    simp
  · cases h

/-! ## Packets, strands, the edge engines and the matrix unit -/

/-- PacketEvents: a packet of a bound tag, with room for it and without. -/
theorem witness_PacketEvents : let p : Packet := { aPacket with route := routeTo 0 9, outstanding := true }
    let x : Core := { ownCore mailed with mailbox := [] }
    let b : Binding := { tag := 9, kind := 2, chan := 2, quota := 1, domain := 0, entry := 0 }
    let s := { demo.setCore 0 x with packets := [p] }
    findId Packet.id s.packets 7 = some p ∧ p.outstanding = true ∧ p.outcome = none ∧ route s true p.route = .core 0 9 ∧
    (s.core 0).gone = false ∧ (s.core 0).isSealed = false ∧ bindingOf (s.core 0) p.pair.2 = some b ∧ p.domain = b.domain ∧
    (s.core 0).status ≠ .quiet ∧ roomFor (s.core 0) b p = true ∧ roomFor (ownCore mailed) b p = false := by decide +kernel
/-- A reply with the next packet of its pair waiting and without; a handler that may start. -/
theorem witness_PacketEvents_reply : (let p : Packet := { aPacket with outcome := some 0 };
      let q : Packet := { aPacket with id := 8 };
      findId Packet.id [p, q] 7 = some p ∧ (dropId Packet.id [p, q] 7).find? (fun r => r.pair == p.pair) = some q ∧
      (dropId Packet.id [p] 7).find? (fun r => r.pair == p.pair) = none) ∧
    (let p : Packet := { aPacket with route := routeTo 0 9 }
     let b : Binding := { tag := 9, kind := 1, chan := 0, quota := 1, domain := 0, entry := 64 }
     let s := demoCore fun x => { x with bindings := [b], mailbox := [p] }
     freeHelper s 0 = some 1 ∧ nextHandler s 0 1 = some (p, b) ∧ p.bad = [] ∧
       traceHeld s 0 (handlerEntry s (s.core 0) b p) = false) := by decide +kernel
/-- StrandEvents: a strand parked on the pager, and a reply of each outcome. -/
theorem witness_StrandEvents : let f : PagerInfo := { addr := 4096, access := 0, found := 0 }
    let s := demoWith fun x => { x with state := .waiting, wait := .pager, parked := some f, parkedSeq := 7 }
    (s.strand 0).parked = some f ∧ (s.strand 0).wait = .pager ∧ (s.strand 0).parkedSeq = replySeq (7 : W64) ∧
    (7 : W64).toNat / 2 ^ 62 = 0 ∧ ((0x4009000000000007 : W64).toNat / 2 ^ 62 = 1 ∧ replySeq 0x4009000000000007 = 7) ∧
    2 ≤ (0x8000000000000007 : W64).toNat / 2 ^ 62 := by decide +kernel

/-- A packet of an engine, appended by strand 0 of core 0. -/
def aJob (w : BitVec 512) : CopyJob :=
  { id := 7, panel := 0, engine := 0, tenant := 0, queue := 1, slotAddr := 0, word := w, appender := some 0
    skeinS := packed [(0, scratchBase + 0x1000)], skeinD := packed [(0, scratchBase + 0x2000)], horizon := none, domain := 0
    stage := 0, reason := 0, flags := 0, parked := none, parkedSeq := 0 }
/-- The packet's checks pass, and its places are found. -/
def copyGood (plan : CopyJob → State → Except Nat CopyPlan) (j : CopyJob) (s : State) : Bool :=
  match checkStat (checkCobj s j) s with
  | (.ok k, u) =>
    k.reason == 0 &&
      (match plan k u with
      | .ok p =>
        planReached u p &&
          (match planRuns k p u with
          | (.ok (src, dst), v) => (planStops v k p src dst).isNone && !runZoned v src.flatten
          | _ => false)
      | .error _ => false)
  | _ => false
theorem copyGood_gives {plan : CopyJob → State → Except Nat CopyPlan} {j : CopyJob} {s : State} (h : copyGood plan j s = true) :
    ∃ k p src dst u v, checkStat (checkCobj s j) s = (.ok k, u) ∧ k.reason = 0 ∧ plan k u = .ok p ∧ planReached u p = true ∧
      planRuns k p u = (.ok (src, dst), v) ∧ planStops v k p src dst = none ∧ runZoned v src.flatten = false := by
  unfold copyGood at h
  split at h
  · next k u hk =>
    rw [Bool.and_eq_true, beq_iff_eq] at h
    obtain ⟨h0, h⟩ := h
    split at h
    · next p hp =>
      rw [Bool.and_eq_true] at h
      obtain ⟨h1, h⟩ := h
      split at h
      · next src dst v hr => exact ⟨k, p, src, dst, u, v, hk, h0, hp, h1, hr, by simpa using h⟩
      · cases h
    · cases h
  · cases h
/-- CopyEvents: a packet of each opcode, between places of the own scratchpad, with STAT and a ring slot too. -/
theorem witness_CopyEvents :
    let w := fun (l : List (Nat × Nat)) => packed ([(192, scratchBase + 0x2000), (256, scratchBase + 0x1000), (160, 8)] ++ l)
    (∀ q ∈ [(planCopy, w [(0, 1)]), (planCopy, w [(0, 1), (384, scratchBase + 0x3000)]), (planFill, w [(0, 3)]),
        (planReduce, w [(0, 4), (8, 1), (128, 16)]), (planPut, w [(0, 5)]), (planGet, w [(0, 6)])],
      copyGood q.1 (aJob q.2) demo = true) ∧ copyGood plan2d (aJob (packed [(0, 2)])) demo = true ∧
    findId CopyJob.id [aJob 0] 7 = some (aJob 0) ∧ (aJob 0).stage = 0 ∧ (aJob 0).bursts = 0 := by decide +kernel
/-- A copy queue's next slot whose packet is good, and a packet whose writes are done. -/
theorem witness_CopyEvents_slot : (let q : Queue := { header := 2 ^ 30, panel := 0, consumer := 1 };
      q.consumer ≠ 0 ∧ q.parked = none ∧ engineLoad demo q < 8) ∧
    (∃ f u, headerAt 0 0 (2 ^ 30) queued = (f, u) ∧ (match f with
      | .ok (_, h) => decide (h.read = 0 ∧ 0 < h.pub ∧ (h.base + 0 % h.cap * 64) % 2 ^ 64 = 2 ^ 30 + 128)
      | .error _ => false) = true) ∧
    (∃ f u, engineLine { panel := 0, n := 0, own := none, d := 0 } .read (2 ^ 30 + 128) 64 queued = (f, u) ∧
      (match f with | .ok _ => true | .error _ => false) = true) ∧
    (let w := sealRecord (packed [(0, 1), (192, scratchBase + 0x2000), (256, scratchBase + 0x1000), (160, 8)])
     recordOk w = true ∧ copyBadField w 0 = none) ∧
    (match (statusPlaced { aJob 0 with stage := 2 } demo).1 with | some j => j.reason == 0 | none => false) = true ∧
    packetBusy demo 7 = false ∧ completionHeld demo { aJob 0 with stage := 2 } = false :=
  ⟨by decide +kernel, firstWith_eq (by decide +kernel), firstWith_eq (by decide +kernel), by decide +kernel, by decide +kernel,
    by decide +kernel, by decide +kernel⟩

/-- A command of fields, with a skein of 2-bit elements. -/
def aCommand (fields : List (Nat × Nat)) : Command := { word := packed fields, strand := 0, entry := 0, horizon := none, domain := 0, skein := packed [(352, 10)] }
/-- demo with a command that runs on core 0. -/
def running (fields : List (Nat × Nat)) : State := demoCore fun x => { x with
  active := some (aCommand fields) }
/-- A LOAD of slot 0 of the pattern window, through a skein of one row. -/
def patterned : Command :=
  { aCommand [(0, 1), (36, 1)] with skein := packed [(0, 0x1F2 * 2 ^ 48), (352, 10)] }
/-- PatternSkeinComplete, EnginesComplete: slots and a skein that a queued command refers to; a queue that is full; copies and a
command that a wait and a fence wait for. -/
theorem witness_PatternSkein_held : let s := pointing.setCore 0 { ownCore pointing with cmdq := List.replicate 16 patterned }
    slotsHeld s 0 0 = true ∧ skeinHeld s 0 0 = true ∧ queueFull s 0 = true ∧ queueFull pointing 0 = false ∧
    busyBefore s 0 (issueMark { s with nextId := 1 } 0) = true ∧ busyBefore pointing 0 (issueMark pointing 0) = false ∧
    copiesBusy { s with copyJobs := [aJob 0], nextId := 8 } 0 8 = true := by decide +kernel
/-- A body of the unit that succeeds. -/
def unitGood (m : UAct Unit) (s : State) : Bool := match m.run s with | (.ok (), _) => true | _ => false
theorem unitGood_gives {m : UAct Unit} {s : State} (h : unitGood m s = true) : ∃ t, m.run s = (.ok (), t) := by
  unfold unitGood at h
  split at h
  · exact ⟨_, by assumption⟩
  · cases h
/-- MatrixEvents: LOAD and STORE beyond their skein's extents, and a row of one element of the own scratchpad. -/
theorem witness_MatrixEvents_load :
    (∃ t, (loadCmd { c := 0, m := aCommand [(0, 1), (36, 1), (288, 1)] }).run (running [(0, 1), (36, 1), (288, 1)]) = (.ok (), t)) ∧
    (∃ t, (storeCmd { c := 0, m := aCommand [(0, 4), (288, 1)] }).run (running [(0, 4), (288, 1)]) = (.ok (), t)) ∧
    cmdOpc (aCommand [(0, 1), (36, 1), (288, 1)]).word = 1 ∧ cmdOpc (aCommand [(0, 4), (288, 1)]).word = 4 :=
  ⟨unitGood_gives (by decide +kernel), unitGood_gives (by decide +kernel), by decide +kernel, by decide +kernel⟩
/-- The other commands: opcode, tiles and operands, and MROT's core. -/
theorem witness_MatrixEvents : let s := running []
    let x := s.core 0
    x.active = some (aCommand []) ∧ x.mparked = none ∧ (x.tileBad = [] ∧ ∀ q ∈ x.tiles, cellOk q.2 = true) ∧ 1 ≤ (s.panel 0).rampBalance ∧
    (let w := (aCommand [(0, 2), (36, 8), (64, 1), (69, 1)]).word
     cmdOpc w = 2 ∧ slotBad x (cmdSa w) (operandBytes (cmdFa w) (32 * cmdKc w)) = false) ∧
    (∀ n ∈ [3, 5, 6, 7, 8], cmdOpc (aCommand [(0, n)]).word = n) ∧ slotBad x 31 256 = false ∧
    (s.rotations.any fun r => r.fromCore == 0) = false ∧ mkCore 0 (recBits (aCommand [(0, 3), (48, 191)]).word 48 8) = 191 ∧
    rotationLost (s.setCore 191 { status := .running }) 191 0 = false ∧
    (∀ sg ∈ [none, some 5],
     let r : Rotation := { id := 7, fromCore := 0, target := 191, slot := 3, bytes := [], poison := [], signal := sg, domain := 0 }
     let t := s.setCore 191 { status := .running }
     findId Rotation.id [r] 7 = some r ∧ rotationLost t r.target r.domain = false ∧ (t.core r.target).domain = r.domain ∧ (t.core r.target).status ≠ .idle ∧
      (t.core r.target).status ≠ .quiet) := by decide +kernel

/-- PatternSkeinComplete: a skein image in the scratchpad whose CRC is right. -/
theorem witness_PatternSkein_image :
    let s := pointing.setCore 0 { ownCore pointing with scratch := Memory.setBytes [] 0x1000 (recBytes (sealRecord 0)) }
    ∃ l t, (load 0 .read [(scratchBase + 0x1000, 64)]).gives s l t ∧
      (!skeinBad (ofRecBytes (gathered l (scratchBase + 0x1000) 64))) = true :=
  goodWith_gives (f := fun l => !skeinBad (ofRecBytes (gathered l (scratchBase + 0x1000) 64))) (by decide +kernel)
/-- RequestsComplete: every law operation of the law unit on a word of zeros gives its result, under an entry of kind 0 of
a tenant of the strand's domain (13 R303). -/
theorem witness_RequestsComplete_law : let s := pointing.setTenant 0 { present := true, tdom := 0x10000, lawbase := 0x600000 }
    tenantOf s 0 = some 0 ∧ overlaps (s.core 0) 0x1000 16 = false ∧ scratchBad (s.core 0) 0x1000 16 = false ∧
    hitsHorizon s 0 0x1000 16 = false ∧
    ∀ f ∈ [LawForm.rd, .add, .set, .swap, .law, .chk],
      (match lawOp (unitEntry s 0 (some 0)) f 0 5 9 0 0 with | .ok _ => true | .error _ => false) = true := by decide +kernel

/-! ## Meanings: one step on a small machine, with results worked out by hand from the rules -/

/-- The machine after an instruction. -/
def after (i : Instr) (s : State) : State :=
  match exec i s with
  | .next t => t
  | _ => s
/-- demo with A. -/
def withA (a : Strip) : State := demoWith fun x => { x with a := a }
/-- pointing with A and bytes at offset 0x1000 of the own scratchpad. -/
def scratchy (a : Strip) (bs : List Byte) : State :=
  (pointing.setStrand 0 { own pointing with a := a }).setCore 0 { ownCore pointing with scratch := Memory.setBytes [] 0x1000 bs }
/-- Lane i of A, of w bits, after an instruction. -/
def laneAfter (w i : Nat) (j : Instr) (s : State) : Nat := Sys2Proof.Machine.lane w (own (after j s)).a i

/-- 11 R246: 1.0 in every f64 lane. -/
theorem test_aimm : laneAfter 64 15 (.aimmBcast 0x0FFC0 2) demo = 0x3FF0000000000000 := by
  decide +kernel
/-- 11 R242, R243: a chunk set, a sum that wraps, 3 post-increments of stride −8. -/
theorem test_pointers : ((own (after (.paddImm (-64) 0 7) demo)).ptr 7).base = 0xFFFFFFFFFFFFFFC0 ∧
    (let s := demoWith fun x => { x with p := Vector.replicate 8 { base := 16, stride := -8, count := 1 } }
     ((own (after (.paddStep 3 2) s)).ptr 2) = { base := 0xFFFFFFFFFFFFFFF8, stride := -8, count := 0xFFFFFFFE }) := by decide +kernel
/-- 11 R247: ANDN, FIRST, PREFIX, a write to K0, POPC. -/
theorem test_masks : let s := demoWith fun x => { x with k1 := 12, k2 := 10, p := Vector.replicate 8 { count := 5 } }
    (own (after (.kopsAndn 3 1 2) s)).k3 = 4 ∧ (own (after (.kopsFirst 3 1) s)).k3 = 4 ∧ (own (after (.kopsPrefix 3 0) s)).k3 = 31 ∧
    own (after (.kopsSet 0) s) = { own s with pc := 4100 } ∧ laneAfter 64 0 (.kopsPopc 1) s = 2 := by decide +kernel
/-- 11 R248, R249: a branch back, CALL's LINK, RET. -/
theorem test_branches : (own (after (.br (-3)) demo)).pc = 4090 ∧ (own (after (.brCall 5) demo)).pc = 4106 ∧
    (own (after (.brCall 5) demo)).link = 4100 ∧ (own (after .jumpRet (demoWith fun x => { x with link := 0x40 }))).pc = 0x40 := by
  decide +kernel
/-- 11 R258–R262: a software trap saves its pc and parcels and goes to the handler; RET goes back. -/
theorem test_traps : let t := after (.trapSwt 7) user
    (own t).pc = 0x100 ∧ (own t).xpc = 4096 ∧ (own t).xresume = 4100 ∧ (own t).xin = true ∧
    (own (after .trapRet t)).pc = 4100 ∧ (own (after .trapRet t)).xin = false := by decide +kernel
/-- 12 R274: an i8 sum wraps, and saturates; a lane that K1 masks keeps its value. -/
theorem test_integers : let s := (scratchy 0x7F7F [1, 1]).setStrand 0 { own pointing with a := 0x7F7F, k1 := 1 }
    let s := s.setCore 0 (scratchy 0 [1, 1] |>.core 0)
    laneAfter 8 0 (.variAdd false 0 (lane 3 false true 0 false 0)) s = 0x80 ∧
    laneAfter 8 0 (.variAdd true 0 (lane 3 false true 0 false 0)) s = 0x7F ∧
    laneAfter 8 1 (.variAdd false 0 { lane 3 false true 0 false 0 with k := 1 }) s = 0x7F := by decide +kernel
/-- 12 R274, 09: f64 1.5 + 1.5 = 3, 3 × 3 = 9, 9's root 3; 1 / 0 is infinite. -/
theorem test_floats :
    laneAfter 64 0 (.variAdd false 0 (lane 4 false true 0 false 0)) (scratchy 0x3FF8000000000000 (toBytes 8 0x3FF8000000000000)) = 0x4008000000000000 ∧
    laneAfter 64 0 (.variMul false 0 (lane 4 false true 0 false 0)) (scratchy 0x4008000000000000 (toBytes 8 0x4008000000000000)) = 0x4022000000000000 ∧
    laneAfter 64 0 (.variDiv false 0 (lane 4 false true 0 false 0)) (scratchy 0x3FF0000000000000 []) = 0x7FF0000000000000 := by
  decide +kernel
/-- 12 R275, R276: AND of i32 lanes; a comparison writes its mask. -/
theorem test_bits : laneAfter 32 1 (.vbitAnd (lane 1 false true 0 false 0)) (scratchy 0xFF00000000 (toBytes 8 0xF000000000)) = 0xF0 ∧
    (own (after (.vcmpLt 2 (lane 0 false true 0 false 0)) (scratchy 1 (toBytes 8 2)))).k2 = 1 := by decide +kernel
/-- 13 R288–R290: bytes of the scratchpad into A and back, little-endian; LDA.BC. -/
theorem test_memory : laneAfter 64 0 (.lda (mem 0 0 3)) (scratchy 0 [1, 2]) = 0x201 ∧
    laneAfter 64 15 (.ldaBc (mem 0 0 3)) (scratchy 0 [1, 2]) = 0x201 ∧
    (ownCore (after (.sta (mem 0 0 3)) (scratchy 0x0102 []))).scratch.bytes 0x1000 2 = [2, 1] := by decide +kernel
/-- 11 R256: a control register is written and read; a reserved code sets CSRIGN. -/
theorem test_control : (own (after (.csrWr 0 1) (withA 3))).fpctl = 3 ∧ (own (after (.csrWr 0 1) (withA 5))).sst = 0x200 ∧
    laneAfter 64 0 (.csrRd 0 0x10) (demoWith fun x => { x with xvec := 0x44 }) = 0x44 := by decide +kernel
/-- 11 R250: ADDST. -/
theorem test_time : (own (after .timeAddst (demoWith fun x => { x with stime := 5, a := 7 }))).stime = 12 := by decide +kernel
/-- 14 R319, 06 R141: START starts the lowest-numbered FREE helper at P0's entry. -/
theorem test_start : let t := after (.strnStart 0) (pointAt 0x80)
    (t.strand 1).pc = 0x80 ∧ (t.strand 1).state = .ready ∧ (t.strand 1).started = true := by decide +kernel
/-- 06 R156: EXPECT 3, with two arrivals for the current phase and two for the next: the third closes the phase. -/
theorem test_barrier : let s := { synced with barriers := Table.set {} [] 5 { owner := some 0, expect := 3, cur := 2, nxt := 2 } }
    let b := barrierOf (after (.syncArrive 0 5) s) 5
    b.phase = true ∧ b.cur = 2 ∧ b.nxt = 0 := by decide +kernel
/-- 13 R295: a host's find of an absent key, with entry 0 empty, answers status 3. -/
theorem test_hook : (hookReq (after .hookHashFind (hooked { atHook 23 4096 7 with requester := .host 3 } [])) 7).map
    HookReq.reply = some (some (.done [0, 0] 3 0)) := by decide +kernel
/-- 04 R111: RATE 128, DEPTH 8, a balance of 0.5: the refill brings it to 1. -/
theorem test_bucket : Table.get (0, 0, 0) (after .tokenBucketCycle { demo with buckets := [(0, (128, 8, 128))] }).buckets 0 = (256, 8, 128) := by
  decide +kernel
/-- 10 R223, 11 R247: a step fetches and runs the word placed, KOPS.SET K1. -/
theorem test_step : (match step (State.reset.withFetchWord 32 (encodeNat (.kopsSet 1))) with
    | .next t => (t.strand 0).k1 | _ => 0) = BitVec.allOnes 128 := by decide +kernel

end Sys2Proof.Tests
end

section
/-!
PROOFS. Answers.lean: a step is a fault only where all clocks are stopped (O2), and the machine after reset (O10).
-/
namespace Sys2Proof.Machine

/-- Every instruction and every event answers a next state: each arm of exec issues a body, runs a hook's routine or
transforms the machine, and each of these ends in a next state, whatever the machine is. -/
theorem exec_answers (i : Instr) (s : State) : ∃ t, exec i s = .next t := by
  cases i <;> exact ⟨_, rfl⟩

/-- The answer of an instruction or event whose arm leaves t, where t is u by the lemma about its meaning. -/
theorem exec_eq {i : Instr} {s t u : State} (hx : exec i s = .next t) (ht : t = u) : exec i s = .next u :=
  hx.trans (congrArg _ ht)

theorem strandTodo_ne_halted (k : StrandId) (s : State) : strandTodo k s ≠ .halted := by
  unfold strandTodo
  split <;> exact nofun

theorem takeTurn_ne_halted (t : Turn) (s : State) : takeTurn t s ≠ .halted := by
  cases t with
  | strand k => exact strandTodo_ne_halted k s
  | event i arg => exact nofun

theorem todo_of_shutdown {s : State} (h : s.package.shutdown = true) : todo s = .halted := by
  simp [todo, h]

theorem todo_ne_halted {s : State} (h : s.package.shutdown = false) : todo s ≠ .halted := by
  simp only [todo, h, Bool.false_eq_true, if_false]
  split
  next t u _ => exact takeTurn_ne_halted t (tick u)
  next => split <;> exact nofun

theorem step_of_shutdown {s : State} (h : s.package.shutdown = true) : step s = .fault .shutdown := by
  simp [step, todo_of_shutdown h]

theorem step_answers {s : State} (h : s.package.shutdown = false) : ∃ t, step s = .next t := by
  have hne := todo_ne_halted h
  unfold step
  split
  next i t _ => exact exec_answers i t
  next t _ => exact ⟨t, rfl⟩
  next he => exact absurd he hne

/-- Settles O2: what a step performs is answered, and only a stopped package has nothing to perform. -/
theorem stepAnswers : Obligations.StepAnswers :=
  ⟨fun _ => step_of_shutdown, fun _ => step_answers, exec_answers⟩

/-! ## The machine after reset -/

/-- With nothing due and no strand ready there is no next turn. -/
theorem nextTurn_of_idle {s : State} (ha : s.agenda = []) (hr : s.ready = []) : nextTurn s = none := by
  simp [nextTurn, dueFrom, popTurn, portChoice, ha, hr]

/-- 01 R20: an idle package that has not booted boots. -/
theorem step_of_unbooted {s : State} (h : s.package.shutdown = false) (ha : s.agenda = []) (hr : s.ready = [])
    (hb : s.package.boot.phase = .notStarted) : step s = exec .bootStart { tick s with arg := {} } := by
  simp [step, todo, h, nextTurn_of_idle ha hr, hb]

/-- A strand that the machine does not list is the default one, whose registers are 0 (log 1). -/
theorem State.reset_strand (k : StrandId) : State.reset.strand k = {} := rfl

/-- Settles O10: reset lists nothing, so every part reads as its default, and the idle package boots. -/
theorem resetState : Obligations.ResetState := by
  refine ⟨rfl, fun _ => rfl, rfl, rfl, rfl, fun k => ?_, step_of_unbooted rfl rfl rfl rfl⟩
  rw [State.reset_strand]
  exact ⟨rfl, rfl, rfl, rfl, rfl, rfl, rfl, rfl, rfl, rfl, rfl⟩

end Sys2Proof.Machine
end

section
/-!
PROOFS. BootLaws.lean: what each boot event and each recovery command does, one lemma per case of its function (O42, O43).
-/
namespace Sys2Proof.Machine

/-! ## The arms of the boot events -/

theorem exec_bootStart (s : State) : exec .bootStart s = .next (bootRom s) := rfl
theorem exec_selftestReply (s : State) :
    exec .selftestReply s = .next (selftestResult s.arg.panel s.arg.a s.arg.ok s) := rfl
theorem exec_selftestReplyTimeout (s : State) : exec .selftestReplyTimeout s = .next (selftestLate s.arg.panel s) := rfl
theorem exec_logicalMapBuild (s : State) : exec .logicalMapBuild s = .next (buildMap s.arg.panel s) := rfl
theorem exec_discoveryTimeout (s : State) : exec .discoveryTimeout s = .next (discoveryLate s.arg.panel s) := rfl
theorem exec_supervisorImageDelivered (s : State) :
    exec .supervisorImageDelivered s = .next (imageDelivered s.arg.core s) := rfl
theorem exec_deliveryTimeout (s : State) : exec .deliveryTimeout s = .next (deliveryLate s.arg.panel s) := rfl
theorem exec_fwReady (s : State) : exec .fwReady s = .next (firmwareReady s) := rfl
theorem exec_fwStartTimeout (s : State) : exec .fwStartTimeout s = .next (firmwareLate s) := rfl

/-! ## Stages 1–4 (01 R20) -/

/-- The machine as the boot ROM starts: device time begins at 0 (01 R16). -/
def atTimeZero (s : State) : State := { s with deviceTime := 0, package := { s.package with clockSkew := 0 } }

/-- The machine as the flood begins: stages 1–3 have found the identity key, and stage 4 uses the configuration record. -/
def atFlood (key : BitVec 384) (s : State) : State :=
  withBoot (fun b => { b with
    phase := .discovery, identity := some key, results := [], mapped := [], delivered := [], since := 0 })
    (stageEnter 4 ((atTimeZero s).withPackage fun p => { p with
      regions := [], regionRecord := some (configRecord (atTimeZero s)) }))

theorem bootRom_stops {s : State} {stage reason : Nat} (hp : s.package.boot.phase = .notStarted)
    (he : earlyStages (atTimeZero s) = .error (stage, reason)) : bootRom s = bootStop stage reason 0 (atTimeZero s) := by
  unfold atTimeZero at he ⊢
  unfold bootRom
  rw [if_neg (by simp [hp])]
  simp only [he]

theorem bootRom_floods {s : State} {key : BitVec 384} (hp : s.package.boot.phase = .notStarted)
    (he : earlyStages (atTimeZero s) = .ok key) :
    bootRom s = inStage 4 (fun s => (List.range 12).foldl (fun s p => flood p s) s) (atFlood key s) := by
  unfold atTimeZero at he
  unfold bootRom
  rw [if_neg (by simp [hp])]
  simp only [he]
  rfl

/-! ## Discovery and the logical map (01 R25) -/

section
variable {s : State} {panel : Nat}

/-- The first reply of a core counts, where it comes within 2 ms of the flood. -/
theorem selftestResult_counts {n : Nat} (ok : Bool) (hp : s.package.boot.phase = .discovery) (hn : n < 208)
    (hr : testResult s panel n = 0) (ht : s.deviceTime < s.package.boot.since + 2000000) :
    selftestResult panel n ok s = resultsCheck panel (withBoot (fun b => { b with
      results := Table.set 0 b.results (panel * 256 + n) (if ok then 1 else 2) }) s) :=
  if_neg (by simp [hp, hr, hn, ht])

theorem selftestLate_fails (hp : s.package.boot.phase = .discovery) (hm : s.package.boot.mapped.contains panel = false)
    (ht : s.package.boot.since + 2000000 ≤ s.deviceTime)
    (hr : ((List.range 208).all fun n => testResult s panel n == 0) = false) :
    selftestLate panel s = resultsCheck panel ((List.range 208).foldl (fun u n =>
      if testResult u panel n = 0 then
        withBoot (fun b => { b with results := Table.set 0 b.results (panel * 256 + n) 2 }) u
      else u) s) := by
  unfold selftestLate
  rw [if_neg (by simpa [hp] using hm), if_neg (by omega), if_neg (by simp [hr])]

section
variable (hp : s.package.boot.phase = .discovery) (hm : s.package.boot.mapped.contains panel = false)
  (hr : allResults s panel = true)
include hp hm hr

theorem buildMap_stops (hl : (usableCores s panel).length < 196) : buildMap panel s = bootStop 4 4 panel s := by
  unfold buildMap
  rw [if_neg (by simpa [hp, hr] using hm), if_pos hl]

theorem buildMap_maps (hl : 196 ≤ (usableCores s panel).length) :
    let l := usableCores s panel
    let t := withBoot (fun b => { b with mapped := b.mapped ++ [panel] }) (s.setPanel panel { s.panel panel with
      coreMap := (l.take 196).zipIdx.foldl (fun t e => Table.set 0 t e.2 (e.1 + 1)) []
      spares := l.drop 196
      lost := [] })
    buildMap panel s = if (List.range 12).all (fun p => t.package.boot.mapped.contains p) then deliver t else t := by
  unfold buildMap
  rw [if_neg (by simpa [hp, hr] using hm), if_neg (by omega)]
end

theorem discoveryLate_stops (hp : s.package.boot.phase = .discovery)
    (hr : ((List.range 208).any fun n => testResult s panel n != 0) = false)
    (ht : s.package.boot.since + 10000000 ≤ s.deviceTime) : discoveryLate panel s = bootStop 4 5 panel s := by
  unfold discoveryLate
  rw [if_neg (by simp [hp, hr]), if_neg (by omega)]

/-! ## Stages 5 and 6 (01 R20, R24, R26) -/

theorem deliveryLate_stops (hp : s.package.boot.phase = .delivery) (hd : panelDelivered s panel = false)
    (ht : s.package.boot.since + 10000000 ≤ s.deviceTime) : deliveryLate panel s = bootStop 5 6 panel s := by
  unfold deliveryLate
  rw [if_neg (by simp [hp, hd]), if_neg (by omega)]
end

/-- An image that is complete 10 ms after the start of delivery comes too late (01 R24). -/
theorem imageDelivered_late {s : State} (c : CoreId) (ht : s.package.boot.since + 10000000 ≤ s.deviceTime) :
    imageDelivered c s = s :=
  if_pos (by simp [ht])

/-- The domain of a supervisor core (07 R165; log 16). -/
def bootDomain (c : CoreId) : BitVec 16 := BitVec.ofNat 16 (16 * ((Config.supervisorDomain c).val + 1))

/-- The machine with the image of a supervisor core in its place and strand 0 of the core started. -/
def supervisorStarted (c : CoreId) (s : State) : State :=
  let w := setPaBytes (withBoot (fun b => { b with delivered := b.delivered ++ [c] }) s) (Config.imageAddress c)
    ((imageBytes s 2).getD [])
  startStrand (mkStrand c 0)
    { pc := Config.supervisorEntry c &&& ~~~1, bases := [], stime := 0, domain := bootDomain c, role := .lead }
    (w.setCore c { w.core c with status := .running, domain := bootDomain c })

/-- PANELS shows a pair of panels once both have their images. -/
def pairShown (pair : Nat) (t : State) : State :=
  if panelDelivered t (2 * pair) && panelDelivered t (2 * pair + 1) then
    withBoot (fun b => { b with bootst := b.bootst ||| BitVec.ofNat 32 (2 ^ (16 + pair)) }) t
  else t

theorem imageDelivered_starts {s : State} {c : CoreId} (hp : s.package.boot.phase = .delivery)
    (hd : s.package.boot.delivered.contains c = false) (hl : 192 ≤ c.index) (hu : c.index < 196) (hc : c.panel < 12)
    (ht : s.deviceTime < s.package.boot.since + 10000000) :
    let u := pairShown (c.panel / 2) (supervisorStarted c s)
    imageDelivered c s = if (List.range 12).all (panelDelivered u) then startFirmware u else u :=
  if_neg (by simpa [hp, ht, hl, hu, hc] using hd)

theorem firmwareReady_completes {s : State} (hp : s.package.boot.phase = .firmware)
    (ht : s.deviceTime < s.package.boot.since + 100000000) :
    firmwareReady s = withBoot (fun b => { b with phase := .ready, bootst := b.bootst ||| 1 }) s :=
  if_neg (by simp [hp, ht])

theorem firmwareReady_late {s : State} (ht : s.package.boot.since + 100000000 ≤ s.deviceTime) : firmwareReady s = s :=
  if_pos (by simp [ht])

theorem firmwareLate_stops {s : State} (hp : s.package.boot.phase = .firmware)
    (ht : s.package.boot.since + 100000000 ≤ s.deviceTime) : firmwareLate s = bootStop 6 7 0 s := by
  unfold firmwareLate
  rw [if_neg (by simp [hp]), if_neg (by omega)]

/-- Settles O42, clause by clause: each event by the lemma about the case of its function that the clause's conditions name. -/
theorem bootEvents : Obligations.BootEvents := fun s =>
  ⟨fun hp => ⟨fun _ _ he => exec_eq (exec_bootStart s) (bootRom_stops hp he),
      fun _ he => exec_eq (exec_bootStart s) (bootRom_floods hp he)⟩,
    fun hp hn hr ht => exec_eq (exec_selftestReply s) (selftestResult_counts _ hp hn hr ht),
    fun hp hm ht hr => exec_eq (exec_selftestReplyTimeout s) (selftestLate_fails hp hm ht hr),
    fun hp hm hr => ⟨fun hl => exec_eq (exec_logicalMapBuild s) (buildMap_stops hp hm hr hl),
      fun hl => exec_eq (exec_logicalMapBuild s) (buildMap_maps hp hm hr hl)⟩,
    fun hp hr ht => exec_eq (exec_discoveryTimeout s) (discoveryLate_stops hp hr ht),
    fun hp hd hl hu hc => ⟨fun ht => exec_eq (exec_supervisorImageDelivered s) (imageDelivered_late _ ht),
      fun ht => exec_eq (exec_supervisorImageDelivered s) (imageDelivered_starts hp hd hl hu hc ht)⟩,
    fun hp hd ht => exec_eq (exec_deliveryTimeout s) (deliveryLate_stops hp hd ht),
    fun hp => ⟨fun ht => exec_eq (exec_fwReady s) (firmwareReady_completes hp ht),
      fun ht => ⟨exec_eq (exec_fwReady s) (firmwareReady_late ht),
        exec_eq (exec_fwStartTimeout s) (firmwareLate_stops hp ht)⟩⟩⟩

/-! ## The recovery mailbox (01 R40) -/

theorem exec_rcmdErase (s : State) : exec .rcmdErase s = .next (recoveryStart 1 4096 s) := rfl
theorem exec_rcmdWrite (s : State) : exec .rcmdWrite s = .next (recoveryStart 2 s.package.boot.rlen.toNat s) := rfl
theorem exec_rcmdRead (s : State) : exec .rcmdRead s = .next (recoveryStart 3 s.package.boot.rlen.toNat s) := rfl
theorem exec_rcmdReboot (s : State) : exec .rcmdReboot s = .next (reboot s) := rfl
theorem exec_rcmdInvalid (s : State) :
    exec .rcmdInvalid s = .next (if bootStopped s then recoveryError 4 s else s) := rfl
theorem exec_recoveryCommandDone (s : State) : exec .recoveryCommandDone s = .next (recoveryDone s.arg.ok s) := rfl

/-- RSTAT done, with the effect of the operation that has ended. -/
def flashEnds (f : Boot → Boot) (s : State) : State := withBoot (fun b => { f b with rstat := 2, rerr := 0, rcmd := 0 }) s

section
variable {s : State} (hs : bootStopped s = true)
include hs

/-- A flash operation over n bytes starts where they lie in the flash, and sets error 1 where they do not. -/
theorem recoveryStart_idle (cmd n : Nat) (hb : recoveryBusy s = false) :
    recoveryStart cmd n s = if s.package.boot.raddr.toNat + n ≤ Config.flashSize then
        (withBoot (fun b => { b with rstat := 1, rerr := 0, rcmd := cmd }) s).post .recoveryCommandDone
          { ok := !Config.flashFails s.steps }
      else recoveryError 1 s := by
  unfold recoveryStart
  rw [if_neg (by simp [hs]), if_neg (by simp [hb])]
  by_cases h : s.package.boot.raddr.toNat + n ≤ Config.flashSize
  · rw [if_neg (by omega), if_pos h]
  · rw [if_pos (by omega), if_neg h]

theorem reboot_idle (hb : recoveryBusy s = false) :
    reboot s = (s.withPackage fun p => { p with boot := { flash := p.boot.flash } }).post .bootStart {} := by
  unfold reboot
  rw [if_neg (by simp [hs]), if_neg (by simp [hb])]

/-- The operation in progress ends: an ERASE or a WRITE with its effect or with its error, a READ with its effect. -/
theorem recoveryDone_erase (ok : Bool) (hc : s.package.boot.rcmd = 1) :
    recoveryDone ok s = if ok then
        flashEnds (fun y => { y with flash := y.flash.setBytes s.package.boot.raddr.toNat erasedSector }) s
      else recoveryError 2 (withBoot (fun b => { b with rcmd := 0 }) s) := by
  simp [recoveryDone, flashEnds, hs, hc]

theorem recoveryDone_write (ok : Bool) (hc : s.package.boot.rcmd = 2) :
    recoveryDone ok s = if ok then
        flashEnds (fun y => { y with
          flash := y.flash.setBytes s.package.boot.raddr.toNat (y.rbuf.bytes 0 s.package.boot.rlen.toNat) }) s
      else recoveryError 3 (withBoot (fun b => { b with rcmd := 0 }) s) := by
  simp [recoveryDone, flashEnds, hs, hc]

theorem recoveryDone_read (ok : Bool) (hc : s.package.boot.rcmd = 3) :
    recoveryDone ok s = flashEnds (fun y => { y with
      rbuf := y.rbuf.setBytes 0 (y.flash.bytes s.package.boot.raddr.toNat s.package.boot.rlen.toNat) }) s := by
  simp [recoveryDone, flashEnds, hs, hc]
end

/-- Settles O43: the three operations start by the one lemma about a start, and end by the lemma of their command. -/
theorem recoveryEvents : Obligations.RecoveryEvents := by
  intro s hs
  refine ⟨fun hb => ⟨?_, ?_, ?_, ?_⟩, ?_, fun hc => ?_, fun hc => ?_, fun hc => ?_⟩
  · exact exec_eq (exec_rcmdErase s) (recoveryStart_idle hs 1 4096 hb)
  · exact exec_eq (exec_rcmdWrite s) (recoveryStart_idle hs 2 s.package.boot.rlen.toNat hb)
  · exact exec_eq (exec_rcmdRead s) (recoveryStart_idle hs 3 s.package.boot.rlen.toNat hb)
  · exact exec_eq (exec_rcmdReboot s) (reboot_idle hs hb)
  · exact exec_eq (exec_rcmdInvalid s) (if_pos hs)
  · exact exec_eq (exec_recoveryCommandDone s) (recoveryDone_erase hs _ hc)
  · exact exec_eq (exec_recoveryCommandDone s) (recoveryDone_write hs _ hc)
  · exact exec_eq (exec_recoveryCommandDone s) (recoveryDone_read hs _ hc)

end Sys2Proof.Machine
end

section
/-!
PROOFS. PowerLaws.lean: limits of the package, clock sources, sequences and droop, one lemma per case of a function (O44).
-/
namespace Sys2Proof.Machine

/-! ## The arms of the power events -/

theorem exec_powerLimitClamp (s : State) :
    exec .powerLimitClamp s = .next (if 4800000 < s.arg.a then clampPackage true s else s) := rfl
theorem exec_powerLimitRelease (s : State) :
    exec .powerLimitRelease s = .next (if s.arg.a < 4560000 then clampPackage false s else s) := rfl
theorem exec_thermalClamp (s : State) :
    exec .thermalClamp s = .next (if 100 ≤ s.arg.a then clampDie s.arg.panel true s else s) := rfl
theorem exec_thermalClampRelease (s : State) :
    exec .thermalClampRelease s = .next (if s.arg.a < 95 then clampDie s.arg.panel false s else s) := rfl
theorem exec_packageShutdown (s : State) :
    exec .packageShutdown s = .next (if 110 ≤ s.arg.a then s.withPackage fun p => { p with shutdown := true } else s) := rfl
theorem exec_srcclkWrite (s : State) :
    exec .srcclkWrite s = .next (srcclkStore s.arg.panel s.arg.v (storeDone s.arg.id s)) := rfl
theorem exec_sourceSettled (s : State) : exec .sourceSettled s = .next (sourceSettle s.arg.panel s.arg.a s) := rfl
theorem exec_pwrctlWrite (s : State) :
    exec .pwrctlWrite s = .next (pwrctlStore s.arg.core s.arg.v (storeDone s.arg.id s)) := rfl
theorem exec_pwrSequenceDone (s : State) : exec .pwrSequenceDone s = .next (sequenceStep s.arg.core s) := rfl
theorem exec_pwrstatRead (s : State) : exec .pwrstatRead s = .next (pwrstatTake s.arg.core s) := rfl
theorem exec_droopTrip (s : State) : exec .droopTrip s = .next (droopTrip s.arg.core s) := rfl
theorem exec_droopRecover (s : State) : exec .droopRecover s = .next (droopRecover s.arg.core s) := rfl

/-! ## Sources (05 R122) -/

@[simp] theorem storeDone_sourceUsed (id : Nat) (s : State) (panel : Nat) (b : Bool) :
    sourceUsed (storeDone id s) panel b = sourceUsed s panel b := rfl

/-- A frequency that stays, or whose source no core uses, is no objection to a write. -/
theorem changed_free {s : State} {panel n m : Nat} {src : Bool} (h : n ≠ m → sourceUsed s panel src = false) :
    (n != m && sourceUsed s panel src) = false := by
  by_cases e : n = m <;> simp [e, h]

/-- SRCCLK takes two frequencies in range, of which one that changes belongs to a source that no core uses; each source that
changes has to settle. -/
theorem srcclkStore_takes {s : State} {panel : Nat} {v : W64} (hv : v.toNat < 2 ^ 28) (hz : v.toNat / 4096 % 16 = 0)
    (ha : 600 ≤ v.toNat % 4096) (ha' : v.toNat % 4096 ≤ 2100) (hb : 600 ≤ v.toNat / 65536 % 4096)
    (hb' : v.toNat / 65536 % 4096 ≤ 2100)
    (hua : v.toNat % 4096 ≠ (s.panel panel).fa.toNat → sourceUsed s panel false = false)
    (hub : v.toNat / 65536 % 4096 ≠ (s.panel panel).fb.toNat → sourceUsed s panel true = false) :
    let a := v.toNat % 4096
    let b := v.toNat / 65536 % 4096
    let p := s.panel panel
    let t := s.setPanel panel { p with
      fa := BitVec.ofNat 12 a, fb := BitVec.ofNat 12 b
      settlingA := p.settlingA || a != p.fa.toNat, settlingB := p.settlingB || b != p.fb.toNat }
    let u := if a = p.fa.toNat then t else t.post .sourceSettled { panel := panel, a := 0 }
    srcclkStore panel v s = if b = p.fb.toNat then u else u.post .sourceSettled { panel := panel, a := 1 } := by
  simp only [srcclkStore, changed_free hua, changed_free hub]
  rw [if_neg (by simpa [hz, ha, ha', hb, hb'] using hv)]
  simp only [bne_iff_ne, ne_eq, ite_not]

/-! ## The regulator and the hop (05 R123, R124) -/

/-- PWRCTL takes good fields and starts its sequence, where FORCED is not set. -/
theorem pwrctlStore_takes {s : State} {c : CoreId} {v : W64} (hr : (s.core c).status ≠ .retired)
    (hf : (s.core c).forced = false) (hv : v.toNat < 2 ^ 32) (hz : v.toNat % 2 ^ 17 = 0)
    (hl : 20 ≤ v.toNat / 2 ^ 24 % 256) (hu : v.toNat / 2 ^ 24 % 256 ≤ 140)
    (hd : 8 ≤ v.toNat / 2 ^ 18 % 64) (hd' : v.toNat / 2 ^ 18 % 64 ≤ 48)
    (hm : Config.minVolt (sourceFreq (s.panel c.panel) (v.getLsbD 17)) ≤ v.toNat / 2 ^ 24 % 256) :
    pwrctlStore c v s = startSequence c (BitVec.ofNat 8 (v.toNat / 2 ^ 24 % 256)) (v.getLsbD 17) (s.setCore c { s.core c with
      volt := BitVec.ofNat 8 (v.toNat / 2 ^ 24 % 256), dthr := BitVec.ofNat 6 (v.toNat / 2 ^ 18 % 64)
      src := v.getLsbD 17, pwrErr := false, forced := false }) := by
  simp only [pwrctlStore, hf, Bool.false_eq_true, if_false]
  rw [if_neg (by simpa using hr), if_neg]
  simp only [hv, hz, hl, hu, hd, hd', hm, and_self, decide_true, BEq.rfl, Bool.and_true, Bool.not_true,
    Bool.false_eq_true, not_false_eq_true]

/-- A sequence whose source is reached ends with its voltage. -/
theorem sequenceStep_ends {s : State} {c : CoreId} (hh : (s.core c).hopping = true)
    (hs : (s.core c).srcnow = (s.core c).srcTarget) :
    sequenceStep c s = endSequence c (s.setCore c { s.core c with vnow := (s.core c).vTarget }) := by
  unfold sequenceStep
  rw [if_neg (by simp [hh]), if_pos (by simp [hs])]

/-! ## Droop (05 R125–R128) -/

theorem droopTrip_stops {s : State} {c : CoreId} (hg : (s.core c).gone = false) :
    let x := s.core c
    let trips := (x.trips.filter fun t => s.deviceTime - t ≤ 10000) ++ [s.deviceTime]
    let force := x.forced || decide (16 ≤ trips.length)
    let t := s.setCore c { x with
      stretch := true
      srcTarget := if hopStands (s.panel c.panel) x then x.srcnow else x.srcTarget
      dcount := if x.dcount.toNat < 65535 then x.dcount + 1 else x.dcount
      trips := trips
      forced := force }
    let u := if force then startSequence c x.volt (slowerSource (s.panel c.panel) x.srcnow) t else t
    droopTrip c s = killDue c (u.post .droopRecover { core := c }) :=
  if_neg (by simp [hg])

/-- Settles O44: the limits by their thresholds, the stores and the trip by the lemma of the case that their conditions name. -/
theorem powerEvents : Obligations.PowerEvents := fun s =>
  ⟨fun h => exec_eq (exec_powerLimitClamp s) (if_pos h),
    fun h => exec_eq (exec_powerLimitRelease s) (if_pos h),
    fun h => exec_eq (exec_thermalClamp s) (if_pos h),
    fun h => exec_eq (exec_thermalClampRelease s) (if_pos h),
    fun h => exec_eq (exec_packageShutdown s) (if_pos h),
    fun hv hz ha ha' hb hb' hua hub => exec_eq (exec_srcclkWrite s) (srcclkStore_takes hv hz ha ha' hb hb' hua hub),
    exec_sourceSettled s,
    fun hr hf hv hz hl hu hd hd' hm => exec_eq (exec_pwrctlWrite s) (pwrctlStore_takes hr hf hv hz hl hu hd hd' hm),
    fun hh hs => exec_eq (exec_pwrSequenceDone s) (sequenceStep_ends hh hs),
    exec_pwrstatRead s,
    fun hg => exec_eq (exec_droopTrip s) (droopTrip_stops hg),
    exec_droopRecover s⟩

end Sys2Proof.Machine
end

section
/-!
PROOFS. LinkLaws.lean: what an intact flit does at a link that is up, by its kind; held flits, retraining and LINKEN (O46).
-/
namespace Sys2Proof.Machine

/-! ## The arms of the link events -/

theorem exec_linkFlitReceive (s : State) :
    exec .linkFlitReceive s = .next (onArrival s.arg.link s.arg.flit (receiveFlit s.arg.link s.arg.flit) s) := rfl
theorem exec_linkIdleFlit (s : State) : exec .linkIdleFlit s = .next (onArrival s.arg.link s.arg.flit id s) := rfl
theorem exec_linkRetryRequest (s : State) :
    exec .linkRetryRequest s = .next (onArrival s.arg.link s.arg.flit (retryFrom s.arg.link s.arg.flit) s) := rfl
theorem exec_linkRefusal (s : State) :
    exec .linkRefusal s = .next (onArrival s.arg.link s.arg.flit (refused s.arg.link s.arg.flit) s) := rfl
theorem exec_timeSyncFlit (s : State) :
    exec .timeSyncFlit s = .next (onArrival s.arg.link s.arg.flit (syncTime s.arg.flit) s) := rfl
theorem exec_linkManagementFlit (s : State) : exec .linkManagementFlit s = .next (onArrival s.arg.link s.arg.flit
    (onLink s.arg.link fun x => { x with management := s.arg.flit.payload }) s) := rfl
theorem exec_holdQueueResend (s : State) : exec .holdQueueResend s = .next (resendHeld s.arg.link s.arg.a s) := rfl
theorem exec_linkRetrainDone (s : State) : exec .linkRetrainDone s = .next (retrained s.arg.link s.arg.ok s) := rfl
theorem exec_linkenWrite (s : State) : exec .linkenWrite s = .next (linkenStore s.arg.v s) := rfl
theorem exec_linkenClearEffect (s : State) : exec .linkenClearEffect s = .next (linkClear s.arg.link s) := rfl

section
variable {s : State} {l : Nat} {f : Flit}

/-! ## A flit arrives (01 R29–R34) -/

/-- What every intact flit does once its kind has done its own: its ACK is taken, the link sends, its sender is reachable. -/
def heardFrom (l : Nat) (f : Flit) (t : State) : State :=
  markReachable f (onLink l (fun x => (takeAck (flitAck f) x).pump) t)

/-- An intact flit at a link that is up does what its kind does, and is heard. -/
theorem onArrival_up {g : State → State} {t : State} (hs : (s.link l).status = 0) (hf : flitIntact f = true) (hg : g s = t) :
    onArrival l f g s = heardFrom l f t := by
  subst hg
  unfold onArrival
  rw [if_neg (by simp [Link.off, hs]), if_neg (by simp [hf])]
  rfl

/-- The failures in a row of the flit that a retry request names, this one included (01 R31). -/
def failuresInRow (f : Flit) (x : Link) : Nat := if x.failSeq == flitSeq f && x.fails != 0 then x.fails + 1 else 1

theorem retryFrom_retrains (hn : 8 ≤ failuresInRow f (s.link l)) :
    retryFrom l f s = (linkEvent l 1 (s.setLink l { s.link l with status := 1, failSeq := flitSeq f, fails := 0 })).post
      .linkRetrainDone { link := l, ok := (Config.freeValue s.steps).getLsbD 0 } :=
  if_pos hn

theorem retryFrom_resends (hn : failuresInRow f (s.link l) < 8) :
    retryFrom l f s = s.setLink l { s.link l with
      failSeq := flitSeq f, fails := failuresInRow f (s.link l)
      wire := (s.link l).wire ++ (fromSeq (flitSeq f) (s.link l).replay).map fun g =>
        stampFlit g (flitSeq g) ((s.link l).rxSeq - 1) (flitRsm g) } :=
  if_neg (Nat.not_le.2 hn)

/-! ## Refusals (01 R32, R33) -/

/-- The link with a refused flit moved from the replay buffer to the hold queue of its class. -/
def holdFlit (f g : Flit) (x : Link) : Link :=
  { x with
    hold := Table.set [] x.hold (flitClass g) (Table.get [] x.hold (flitClass g) ++ [g])
    replay := x.replay.filter fun h => flitSeq h != flitSeq f }

section
variable {g : Flit} (hg : (s.link l).replay.find? (fun g => flitSeq g == flitSeq f) = some g)
include hg

/-- A refusal behind another one of its class: the time of the resend stays. -/
theorem refused_next (hh : (Table.get [] (s.link l).hold (flitClass g)).isEmpty = false) :
    refused l f s = s.setLink l (holdFlit f g (s.link l)) := by
  simp only [refused, hg, hh, Bool.false_eq_true, if_false]
  rfl

/-- The first refusal of a class sets the time of the resend. -/
theorem refused_first (hh : (Table.get [] (s.link l).hold (flitClass g)).isEmpty = true) :
    refused l f s = (s.setLink l { holdFlit f g (s.link l) with
      holdUntil := Table.set 0 (s.link l).holdUntil (flitClass g)
        (s.deviceTime + (ofBytes (f.payload.take 2) * 5 + 11) / 12) }).post
      .holdQueueResend { link := l, a := flitClass g } := by
  simp only [refused, hg, hh, if_true]
  rfl
end

theorem resendHeld_sends {c : Nat} (hs : (s.link l).status = 0) (hc : (s.link l).closing = false)
    (hh : (Table.get [] (s.link l).hold c).isEmpty = false) (ht : Table.get 0 (s.link l).holdUntil c ≤ s.deviceTime)
    (hr : (s.link l).replay.length < 128) (ha : ∀ g ∈ (s.link l).replay, flitClass g ≠ c) :
    let x := s.link l
    let held := Table.get [] x.hold c
    resendHeld l c s = s.setLink l (sendFlits true (held.take x.room) { x with
      hold := Table.set [] x.hold c []
      resend := Table.set [] x.resend c (held.drop x.room ++ Table.get [] x.resend c) }).pump := by
  have hroom : (s.link l).room ≠ 0 := by unfold Link.room; omega
  unfold resendHeld
  rw [if_neg (by simpa [Link.off, hs] using hh), if_neg (by simpa [hs, hc, ht, hroom] using ha)]

/-! ## Time and retraining (01 R31, R34) -/

theorem syncTime_forward (hk : flitKind f = 4) (hd : flitSrc f / 128 = s.package.pkg.toNat / 128)
    (ht : s.now.toNat < (BitVec.ofNat 64 (ofBytes (f.payload.take 8))).toNat) :
    syncTime f s = s.withPackage fun p => { p with
      clockSkew := p.clockSkew + (BitVec.ofNat 64 (ofBytes (f.payload.take 8)) - s.now) } := by
  unfold syncTime
  rw [if_pos (by simpa [hk, hd] using ht)]

theorem retrained_up (hs : (s.link l).status = 1) :
    retrained l true s = linkEvent l 0 (s.setLink l (Link.pump { s.link l with
      status := 0, fails := 0
      wire := (s.link l).wire ++ (s.link l).replay.map fun g =>
        stampFlit g (flitSeq g) ((s.link l).rxSeq - 1) (flitRsm g) })) := by
  unfold retrained
  rw [if_neg (by simp [hs]), if_pos rfl]

theorem retrained_down (hs : (s.link l).status = 1) :
    retrained l false s = reroute l (linkEvent l 2 (s.setLink l { s.link l with status := 2 })) := by
  unfold retrained
  rw [if_neg (by simp [hs]), if_neg (by simp)]

/-! ## LINKEN (01 R20, R37, R38) -/

theorem linkenStore_stopped (v : W64) (hb : bootStopped s = true) : linkenStore v s = s :=
  if_pos (by simp [hb])

theorem linkenStore_takes {v : W64} (hv : v.toNat < 2 ^ 18) (hb : bootStopped s = false) :
    linkenStore v s = (List.range 18).foldl (fun u n => linkEnable n (v.getLsbD n) u)
      (s.withPackage fun p => { p with linken := v.setWidth 18 }) :=
  if_neg (by simpa [hb] using hv)

/-- A link that is shut down is held in reset once its replay buffer is empty or 100 µs have passed. -/
theorem linkClear_resets (hc : (s.link l).closing = true)
    (he : (s.link l).replay = [] ∨ (s.link l).closeFrom + 100000 ≤ s.deviceTime) :
    let x := s.link l
    let t := linkEvent l 3 (s.setLink l { x with status := 3, closing := false, lost := x.lost ++ x.replay, replay := [] })
    linkClear l s = if x.replay.isEmpty then t else loseItems t := by
  unfold linkClear
  rw [if_neg (by simp [hc]), if_neg (by simpa [or_iff_not_imp_left] using he)]
end

/-- Settles O46: a flit by the one lemma about an arrival and the lemma of its kind, the other events by their own. -/
theorem linkEvents : Obligations.LinkEvents := by
  intro s
  refine ⟨fun hs hf => ⟨?_, ?_, ⟨fun hn => ?_, fun hn => ?_⟩, fun g hg => ⟨fun hh => ?_, fun hh => ?_⟩,
      fun hk hd ht => ?_, ?_⟩,
    fun hs hc hh ht hr ha => ?_, fun hs => ⟨fun ho => ?_, fun ho => ?_⟩, fun hb => ?_, fun hv hb => ?_, fun hc he => ?_⟩
  · exact exec_eq (exec_linkFlitReceive s) (onArrival_up hs hf rfl)
  · exact exec_eq (exec_linkIdleFlit s) (onArrival_up hs hf rfl)
  · exact exec_eq (exec_linkRetryRequest s) (onArrival_up hs hf (retryFrom_retrains hn))
  · exact exec_eq (exec_linkRetryRequest s) (onArrival_up hs hf (retryFrom_resends hn))
  · exact exec_eq (exec_linkRefusal s) (onArrival_up hs hf (refused_next hg hh))
  · exact exec_eq (exec_linkRefusal s) (onArrival_up hs hf (refused_first hg hh))
  · exact exec_eq (exec_timeSyncFlit s) (onArrival_up hs hf (syncTime_forward hk hd ht))
  · exact exec_eq (exec_linkManagementFlit s) (onArrival_up hs hf rfl)
  · exact exec_eq (exec_holdQueueResend s) (resendHeld_sends hs hc hh ht hr ha)
  · exact exec_eq (exec_linkRetrainDone s) (ho ▸ retrained_up hs)
  · exact exec_eq (exec_linkRetrainDone s) (ho ▸ retrained_down hs)
  · exact exec_eq (exec_linkenWrite s) (linkenStore_stopped _ hb)
  · exact exec_eq (exec_linkenWrite s) (linkenStore_takes hv hb)
  · exact exec_eq (exec_linkenClearEffect s) (linkClear_resets hc he)

end Sys2Proof.Machine
end

section
/-!
PROOFS. RegisterLaws.lean: writes of registers by their space, shootdowns, epochs, TRMODE and SWERR (O47).
-/
namespace Sys2Proof.Machine

/-! ## The arms of the register events -/

theorem exec_registerWrite (s : State) : exec .registerWrite s =
    .next (writeRegister s.arg.a s.arg.b s.arg.c s.arg.v (storeDone s.arg.id s)) := rfl
theorem exec_pageShootdown (s : State) :
    exec .pageShootdown s = .next (pageShootStart s.arg.v (storeDone s.arg.id s)) := rfl
theorem exec_pageShootdownDone (s : State) :
    exec .pageShootdownDone s = .next (pageShootEnd (s.arg.a, s.arg.b) s.arg.id s) := rfl
theorem exec_flushEpochStart (s : State) :
    exec .flushEpochStart s = .next (epochStart s.arg.v (storeDone s.arg.id s)) := rfl
theorem exec_lawTableShootdown (s : State) :
    exec .lawTableShootdown s = .next (lawShootStart s.arg.v (storeDone s.arg.id s)) := rfl
theorem exec_lawShootdownDone (s : State) : exec .lawShootdownDone s = .next (lawShootEnd s) := rfl
theorem exec_trmodeWrite (s : State) :
    exec .trmodeWrite s = .next (trmodeStore s.arg.core s.arg.v (storeDone s.arg.id s)) := rfl
theorem exec_swerrRead (s : State) : exec .swerrRead s = .next (swerrTake s.arg.panel s) := rfl

section
variable {s : State}

/-! ## The four spaces of REGISTER_WRITE (01 R40, R41; 03 R79, R82) -/

theorem writeRegister_control {o : Nat} {r : CtlReg} (size : Nat) (v : W64) (hr : ctlReg o = some r) :
    writeRegister 2 o size v s = ctlFollow r (ctlStore r v s) := by
  simp [writeRegister, hr]

theorem writeRegister_hostcb {o size : Nat} (v : W64) (ho : hostSizeOk o size = true) :
    writeRegister 0 o size v s = hostcbWrite o size v s := by
  simp [writeRegister, ho]

theorem writeRegister_page {o size : Nat} (v : W64) (ho : hostSizeOk o size = true) (hb : bootStopped s = false) :
    writeRegister 1 o size v s = pageWrite o size v s := by
  simp [writeRegister, ho, hb]

theorem writeRegister_msix (o size : Nat) (v : W64) (hb : bootStopped s = false) :
    writeRegister 3 o size v s = msixWrite o size v s := by
  simp [writeRegister, hb]

/-! ## Shootdowns and epochs (07 R168, R173; 13 R303) -/

/-- PGINV with good fields, while it is not busy: what its range covers is dropped, and its end is due. -/
theorem pageShootStart_starts {v : W64} (hb : s.package.pgBusy = false) (hs : v.toNat % 2 ^ 63 % 4 ≠ 3)
    (hz : v.toNat % 2 ^ 63 / 4 % 2 ^ 14 = 0) (hv : v.toNat % 2 ^ 63 < 2 ^ 57) :
    let t := (shootDown (shootRange s v) s).withPackage fun p => { p with
      pginv := BitVec.ofNat 64 (2 ^ 63 + v.toNat % 2 ^ 63), pgBusy := true }
    let r := shootRange t v
    pageShootStart v s = t.post .pageShootdownDone { a := r.1, b := r.2, id := t.nextId } := by
  have hq : v.toNat % 2 ^ 63 / 2 ^ 57 = 0 := Nat.div_eq_of_lt hv
  unfold pageShootStart
  rw [if_neg (by simp only [hb, hs, hz, hq, bne_self_eq_false, decide_false, Bool.or_false, Bool.false_eq_true,
    not_false_eq_true])]

theorem pageShootEnd_ends {r : Nat × Nat} {mark : Nat} (hb : s.package.pgBusy = true) (ho : oldAccess s r mark = false) :
    pageShootEnd r mark s = (shootLines r s).withPackage fun p => { p with
      pginv := BitVec.ofNat 64 (p.pginv.toNat % 2 ^ 63), pgBusy := false } := by
  unfold pageShootEnd
  rw [if_neg (by simp [hb]), if_neg (by simp [ho])]

theorem epochStart_starts {v : W64} (hv : v.toNat % 2 ^ 63 = 1) (hb : s.package.flushBusy = false) :
    epochStart v s = checkEpoch { s with
      package := { s.package with
        flushBusy := true
        epoch := s.package.gens.foldl (fun t g => Table.set 0 t g.1 g.2.1) [] }
      cores := Table.mapValues {} (fun (x : Core) => { x with flushed := false }) s.cores } := by
  unfold epochStart
  rw [if_neg (by simp only [hv, hb, bne_self_eq_false, Bool.or_false, Bool.false_eq_true, not_false_eq_true])]
  rfl

/-- LAWINV with good fields, while it is not busy: the named entries are dropped everywhere, and its end is due. -/
theorem lawShootStart_starts {v : W64} (hb : s.package.lawBusy = false)
    (ha : v.toNat % 2 ^ 63 % 256 ≤ v.toNat % 2 ^ 63 / 256 % 256) (hz : v.toNat % 2 ^ 63 / 2 ^ 16 % 2 ^ 16 = 0)
    (hv : v.toNat % 2 ^ 63 < 2 ^ 37) :
    let n := v.toNat % 2 ^ 63
    lawShootStart v s = ((dropLaws (n / 2 ^ 32 % 32) (n % 256) (n / 256 % 256) s).withPackage fun p => { p with
      lawinv := BitVec.ofNat 64 (2 ^ 63 + n), lawBusy := true }).post .lawShootdownDone { v := BitVec.ofNat 64 n } := by
  have hq : v.toNat % 2 ^ 63 / 2 ^ 37 = 0 := Nat.div_eq_of_lt hv
  unfold lawShootStart
  rw [if_neg (by simp only [hb, Nat.not_lt.2 ha, hz, hq, bne_self_eq_false, decide_false, Bool.or_false,
    Bool.false_eq_true, not_false_eq_true])]

/-! ## TRMODE (04 R113) -/

theorem trmodeStore_takes {c : CoreId} {v : W64} (hr : (s.core c).status ≠ .retired) (hv : v.toNat < 3) :
    trmodeStore c v s = ((traceSettle c (s.setCore c { s.core c with
      trmode := v.setWidth 2, diverged := false, trCounts := [], trSince := s.deviceTime })).post
        .dispatch { panel := c.panel }).post .handlerStart { core := c } := by
  unfold trmodeStore
  rw [if_neg (by simpa using hr), if_neg (by omega)]
end

/-- Settles O47: a write by the lemma of its space, the others by the lemma of the case that their conditions name. -/
theorem registerEvents : Obligations.RegisterEvents := by
  intro s
  refine ⟨fun r ha hr => ?_, fun ha ho => ?_, fun ha ho hb => ?_, fun ha hb => ?_, fun hb hs hz hv => ?_, fun hb ho => ?_,
    fun hv hb => ?_, fun hb ha hz hv => ?_, exec_lawShootdownDone s, fun hr hv => ?_, exec_swerrRead s⟩
  · exact exec_eq (exec_registerWrite s) (ha ▸ writeRegister_control _ _ hr)
  · exact exec_eq (exec_registerWrite s) (ha ▸ writeRegister_hostcb _ ho)
  · exact exec_eq (exec_registerWrite s) (ha ▸ writeRegister_page _ ho hb)
  · exact exec_eq (exec_registerWrite s) (ha ▸ writeRegister_msix _ _ _ hb)
  · exact exec_eq (exec_pageShootdown s) (pageShootStart_starts hb hs hz hv)
  · exact exec_eq (exec_pageShootdownDone s) (pageShootEnd_ends hb ho)
  · exact exec_eq (exec_flushEpochStart s) (epochStart_starts hv hb)
  · exact exec_eq (exec_lawTableShootdown s) (lawShootStart_starts hb ha hz hv)
  · exact exec_eq (exec_trmodeWrite s) (trmodeStore_takes hr hv)

end Sys2Proof.Machine
end

section
/-!
PROOFS. HostLaws.lean: host reads and writes of windows and registers, ships and EVCONS, one lemma per case (O53).
-/
namespace Sys2Proof.Machine

/-! ## The arms of the host events -/

theorem exec_hostWindowRead (s : State) : exec .hostWindowRead s = .next (hostRead s.arg s) := rfl
theorem exec_hostWindowWrite (s : State) : exec .hostWindowWrite s = .next (windowWrite s.arg s) := rfl
theorem exec_shipgo (s : State) : exec .shipgo s = .next (if bootStopped s then s else shipgoStore s.arg s) := rfl
theorem exec_hostShipReply (s : State) : exec .hostShipReply s = .next (shipReplied s.arg.tenant s.arg.id s) := rfl
theorem exec_evconsWrite (s : State) : exec .evconsWrite s =
    .next (if (s.tenant s.arg.tenant).present && !bootStopped s then
      ringResume s.arg.tenant (s.setTenant s.arg.tenant { s.tenant s.arg.tenant with evCons := s.arg.v }) else s) := rfl

section
variable {s u : State} {e : EventArg}

/-! ## Windows and registers (03 R79, R83) -/

/-- What a host read of a window touches at the home slices. -/
def touchPlaces (l : List (Place × Nat)) (u : State) : State :=
  l.foldl (fun u q => match q.1 with | .dev key => homeTouch key false u | _ => u) u

/-- A read of a window whose places are found answers with their bytes. -/
theorem hostRead_window {va : Nat} {l : List (Place × Nat)} (hb : bootStopped s = false)
    (hw : windowVa (s.tenant e.tenant) e.a e.b = some va) (hc : e.c = 0)
    (hl : hostPlaces (tenantDomain s e.tenant) .read (cutLines (e.b / 128 + 2) va e.b) s = (.ok l, u)) :
    let v := touchPlaces l u
    hostRead e s = v.withPackage fun p => { p with
      hostReads := p.hostReads ++ [(e.id, l.flatMap fun q => placeRead v q.1 q.2,
        l.any fun q => (List.range q.2).any fun i => placeBad v (q.1.plus i))] } := by
  unfold hostRead windowRead
  simp only [hc, hb, hw, hl, if_true, Bool.false_eq_true, if_false]
  rfl

theorem hostRead_register (hc : e.c ≠ 0) (ho : hostSizeOk e.a e.b = true) :
    hostRead e s = s.withPackage fun p => { p with
      hostReads := p.hostReads ++ [(e.id, toBytes e.b (hostRegRead s (e.c - 1) e.a e.b).toNat, false)] } := by
  unfold hostRead
  rw [if_neg hc, if_neg (by simp [ho])]

/-- A write of a window, behind no earlier one, goes out as a store that registers no owner. -/
theorem windowWrite_sends {va : Nat} {l : List (Place × Nat)} (hb : bootStopped s = false)
    (hw : windowVa (s.tenant e.tenant) e.a e.b = some va) (hq : (s.stores.any fun r => r.path == 7) = false)
    (hl : hostPlaces (tenantDomain s e.tenant) .write (cutLines (e.b / 128 + 2) va e.b) s = (.ok l, u)) :
    windowWrite e s = ({ u with
      nextId := u.nextId + 1
      stores := u.stores ++ [{ id := u.nextId, core := 0, strand := e.tenant, path := 7, va := va
                               bytes := (l.flatMap fun q => (List.range q.2).map fun i => q.1.plus i).zip
                                 (toBytes e.b e.v.toNat) }] } : State).post .homeAccess { id := u.nextId } := by
  unfold windowWrite
  simp only [hb, hw, hq, hl, Bool.false_eq_true, if_false]
  rfl

/-! ## Ships of the host (03 R84, R85) -/

theorem shipgoStore_takes (hx : (s.tenant e.tenant).present = true) (hb : shipBusy (s.tenant e.tenant) = false)
    (he : e.b = 0) :
    let x := s.tenant e.tenant
    shipgoStore e s = (s.setTenant e.tenant { x with
      shipRep := BitVec.ofNat 64 (2 ^ 61), shipArgs := [x.shipAddr, x.shipOp0, x.shipOp1, x.shipOp2] }).post .shipgo
        { tenant := e.tenant, v := e.v, b := 1 } := by
  unfold shipgoStore
  rw [if_neg (by simp [hx]), if_pos he]
  exact if_neg (by simp [hb])

/-- A ship that has been taken, whose fields are good, starts. -/
theorem shipgoStore_goes (hx : (s.tenant e.tenant).present = true) (he : e.b = 1) (hv : e.v.toNat < 2 ^ 10)
    (hr : e.v.toNat / 256 = 0 ∨ e.v.toNat % 256 = 13) : shipgoStore e s = shipStart e s := by
  unfold shipgoStore
  rw [if_neg (by simp [hx]), if_neg (by omega), if_neg]
  rcases hr with hr | hr <;> simpa [hr] using hv

/-- The request is sent once the host's earlier writes are performed and its target is found. -/
theorem shipStart_sends {addr h0 h1 h3 : W64} {p : Place} (hq : (s.stores.any fun r => r.path == 7) = false)
    (ha : (s.tenant e.tenant).shipArgs = [addr, h0, h1, h3]) (hm : addr.toNat % hostAlign (e.v.toNat % 256) = 0)
    (hf : find 0 (tenantDomain s e.tenant)
      (if 24 ≤ e.v.toNat % 256 ∧ e.v.toNat % 256 ≤ 29 then .law else .ship) addr.toNat s = (.place p, u)) :
    shipStart e s = sendHook
      { id := u.nextId, routine := e.v.toNat % 256, place := p, va := addr, h0 := h0, h1 := h1, h3 := h3
        domain := tenantDomain s e.tenant, rm := e.v.extractLsb' 8 2, tenant := e.tenant, requester := .host e.tenant
        acquire := false, stage := 0 }
      (({ u with nextId := u.nextId + 1 } : State).setTenant e.tenant { u.tenant e.tenant with shipId := u.nextId }) := by
  unfold shipStart
  simp only [hq, ha, Bool.false_eq_true, if_false, List.getD_cons_zero, List.getD_cons_succ, hm, bne_self_eq_false,
    decide_eq_true_eq, hf]
  rfl

/-! ## Replies of hooks (03 R85) -/

@[simp] theorem dropHook_tenant (id : Nat) (s : State) (t : Nat) : (dropHook id s).tenant t = s.tenant t := rfl

section
variable {t id o : Nat} {r : HookReq} (hr : hookReq s id = some r) (ho : r.requester = .host o)
  (hs : (s.tenant t).shipId = id)
include hr ho hs

theorem shipReplied_done {vals : List W64} {status flags : Nat} (hd : r.reply = some (.done vals status flags)) :
    shipReplied t id s = (dropHook id s).setTenant t { s.tenant t with
      shipRep := shipReport 1 0 0 status flags, shipVals := shipValues r vals } := by
  subst hs
  simp [shipReplied, hr, ho, hd]

theorem shipReplied_error {c : BitVec 8} (hd : r.reply = some (.error c)) :
    shipReplied t id s = (dropHook id s).setTenant t { s.tenant t with
      shipRep := shipReport 3 0 c.toNat 0 0, shipVals := [] } := by
  subst hs
  simp [shipReplied, shipFails, hr, ho, hd]

theorem shipReplied_refused {hint : BitVec 16} (hd : r.reply = some (.refused hint)) :
    shipReplied t id s = (dropHook id s).setTenant t { s.tenant t with
      shipRep := shipReport 2 hint.toNat 0 0 0, shipVals := [] } := by
  subst hs
  simp [shipReplied, hr, ho, hd]
end
end

/-- Settles O53: each access by the lemma of the case that its conditions name; a stopped boot leaves both registers alone. -/
theorem hostEvents : Obligations.HostEvents := by
  intro s
  refine ⟨fun va l u hb hw => ⟨fun hc hl => ?_, fun hq hl => ?_⟩, fun hc ho => ?_, fun hb hx hn he => ?_,
    fun addr h0 h1 h3 p u hb hx he hv hr hq ha hm hf => ?_,
    fun r o hr ho hs => ⟨fun vals status flags hd => ?_, fun c hd => ?_, fun hint hd => ?_⟩, fun hb hx => ?_,
    fun hb => ⟨?_, ?_⟩⟩
  · exact exec_eq (exec_hostWindowRead s) (hostRead_window hb hw hc hl)
  · exact exec_eq (exec_hostWindowWrite s) (windowWrite_sends hb hw hq hl)
  · exact exec_eq (exec_hostWindowRead s) (hostRead_register hc ho)
  · exact exec_eq (exec_shipgo s) ((if_neg (by simp [hb])).trans (shipgoStore_takes hx hn he))
  · exact exec_eq (exec_shipgo s) ((if_neg (by simp [hb])).trans
      ((shipgoStore_goes hx he hv hr).trans (shipStart_sends hq ha hm hf)))
  · exact exec_eq (exec_hostShipReply s) (shipReplied_done hr ho hs hd)
  · exact exec_eq (exec_hostShipReply s) (shipReplied_error hr ho hs hd)
  · exact exec_eq (exec_hostShipReply s) (shipReplied_refused hr ho hs hd)
  · exact exec_eq (exec_evconsWrite s) (if_pos (by simpa [hb] using hx))
  · exact exec_eq (exec_shipgo s) (if_pos hb)
  · exact exec_eq (exec_evconsWrite s) (if_neg (by simp [hb]))

end Sys2Proof.Machine
end

section
/-!
PROOFS. StackLaws.lean: self-refresh, the region table and swaps, retirement, counters, extents and promotions (O45).
-/
namespace Sys2Proof.Machine

/-! ## The arms of the stack events -/

theorem exec_selfRefreshEnter (s : State) : exec .selfRefreshEnter s = .next (refreshEnter s.arg.stack s) := rfl
theorem exec_selfRefreshExit (s : State) : exec .selfRefreshExit s = .next (refreshExit s.arg.stack s) := rfl
theorem exec_regionWrite (s : State) :
    exec .regionWrite s = .next (regionStore s.arg.a s.arg.v (storeDone s.arg.id s)) := rfl
theorem exec_regionSwapDrain (s : State) : exec .regionSwapDrain s = .next (swapDrain s.arg.a s.arg.b s) := rfl
theorem exec_regionSwapExchange (s : State) : exec .regionSwapExchange s = .next (swapMedia s.arg.a s.arg.b s) := rfl
theorem exec_channelRetireMove (s : State) :
    exec .channelRetireMove s = .next (retireChannel s.arg.stack s.arg.a s.arg.errs s) := rfl
theorem exec_regionCounterHalve (s : State) : exec .regionCounterHalve s = .next (halveRegions s) := rfl
theorem exec_pageCounterHalve (s : State) : exec .pageCounterHalve s = .next (halvePages s) := rfl
theorem exec_fabricReleaseRequest (s : State) :
    exec .fabricReleaseRequest s = .next (releaseRequest s.arg.a s.arg.b s) := rfl
theorem exec_forcedRelease (s : State) : exec .forcedRelease s = .next (releaseForced s.arg.a s.arg.b s) := rfl
theorem exec_promotionFillDone (s : State) : exec .promotionFillDone s = .next (fillDone s.arg.stack s.arg.a s) := rfl

section
variable {s : State}

/-! ## Self-refresh (02 R75, R76) -/

theorem refreshEnter_enters {stack : Nat} (h : (s.stack stack).refresh = false) :
    refreshEnter stack s = postThermal stack 0 (s.setStack stack { s.stack stack with refresh := true }) :=
  if_neg (by simp [h])

/-- What waited is served in order, before the exit is reported. -/
theorem refreshExit_serves {stack : Nat} (h : (s.stack stack).refresh = true) :
    refreshExit stack s = postThermal stack 1 ((s.stack stack).queue.foldl (fun u q => serveQueued q.1 u)
      (s.setStack stack { s.stack stack with refresh := false, queue := [] })) :=
  if_neg (by simp [h])

/-! ## The region table and swaps (02 R52, R58, R59) -/

/-- An entry with good fields is written, and STATE 0 and 3 start nothing. -/
theorem regionStore_writes {r : Nat} {v : W64} (hv : v.toNat < 2 ^ 32) (hc : rgClass (v.setWidth 32) ≠ 3)
    (hk : rgStack (v.setWidth 32) < 12) (hz : rgState (v.setWidth 32) = 0 ∨ rgState (v.setWidth 32) = 3) :
    let t := setRegion s r (v.setWidth 32)
    regionStore r v s = t.withPackage fun p => { p with
      releasing := p.releasing.filter fun q => extentValid t q.1 q.2.1 } := by
  unfold regionStore
  rw [if_neg (by simpa [hc, hk] using hv)]
  rcases hz with hz | hz <;> simp only [hz] <;> exact ite_self _

section
variable {ra rb : Nat} (hs : swapping (regionEntry s ra) (regionEntry s rb) = true)
  (hh : swapHeld s (regionEntry s ra) (regionEntry s rb) = false)
include hs hh

theorem swapDrain_empties (hq : requestsIn s (entryMedia (regionEntry s ra)) (entryMedia (regionEntry s rb)) = false) :
    swapDrain ra rb s = (cleanMedia (entryMedia (regionEntry s rb)) (cleanMedia (entryMedia (regionEntry s ra)) s)).post
      .regionSwapExchange { a := ra, b := rb } := by
  unfold swapDrain
  rw [if_neg (by simp [hs])]
  exact if_neg (by simp [hq, hh])

theorem swapMedia_exchanges :
    let a := entryMedia (regionEntry s ra)
    let b := entryMedia (regionEntry s rb)
    swapMedia ra rb s = { s with
      dmem := swapTable (0 : Byte) a b (2 ^ 21) s.dmem
      sectors := swapTable 0 a b 65536 s.sectors
      hookReqs := s.hookReqs.map fun r => { r with place := swapPlace a b r.place }
      copyJobs := s.copyJobs.map fun j => { j with statPlace := j.statPlace.map (swapPlace a b) }
      cores := Table.mapValues {} (swapCore a b) s.cores } := by
  unfold swapMedia
  rw [if_neg (by simp [hs]), if_neg (by simp [hh])]
end

/-! ## Channel retirement (02 R60) -/

/-- The first channel of a quiesced stack that fails is retired, and the regions return to normal. -/
theorem retireChannel_quiesced {stack channel : Nat} {errs : List StoreErr} (hd : (s.stack stack).dead = false)
    (hr : (s.stack stack).retired = none) (hm : ∀ r ∈ stackRegions s stack, rgState (regionEntry s r) = 3) :
    let t := dropTickets stack channel (poisonLines errs (recallWhere (fun q => keyStack (q * 32) == stack) s))
    let y := t.stack stack
    retireChannel stack channel errs s = (stackRegions s stack).foldl
      (fun u r => setRegion u r (withRgState (regionEntry u r) 0))
      (t.setStack stack { y with
        home := [], slots := [], retired := some channel, lawCache := y.lawCache.filter fun l => l.1 != channel }) := by
  unfold retireChannel
  rw [if_neg (by simp [hd]), if_neg (by simp [hr])]
  exact if_neg (by simpa using hm)

/-! ## Release of expander extents (02 R77) -/

section
variable {a n : Nat} (he : extentRegions s a n ≠ [])
include he

theorem releaseRequest_releases :
    releaseRequest a n s = (extentRegions s a n).foldl
      (fun u r => releaseRegion r (setRegion u r (withRgState (regionEntry u r) 2)))
      (s.withPackage fun p => { p with
        releasing := (p.releasing.filter fun q => q != (a, n, false)) ++ [(a, n, false)] }) :=
  if_neg (by simpa using he)

theorem releaseForced_poisons :
    releaseForced a n s = ((extentRegions s a n).foldl (fun u r =>
        let u := setRegion u r (withRgState (regionEntry u r) 2)
        let m := entryMedia (regionEntry u r)
        dropCopies m (poisonDirty m u)) s).withPackage fun p => { p with
      releasing := (p.releasing.filter fun q => q.1 != a || q.2.1 != n) ++ [(a, n, true)] } :=
  if_neg (by simpa using he)
end

/-! ## Promotion slots (02 R45–R48) -/

section
variable {stack n : Nat} {v : Slot} (hv : Table.get {} (s.stack stack).slots n = v) (hf : v.state = .filling)
include hv hf

/-- A copy-back that ends hands its slot to the promotion that waits for it. -/
theorem fillDone_next {f : Nat} (hn : v.next = some f) :
    fillDone stack n s = (setSlot stack n
      { v with row := f, tenant := v.heir, next := none, emptying := false, wrote := false } s).post
      .promotionFillDone { stack := stack, a := n } := by
  subst hv
  unfold fillDone
  rw [if_neg (by simp [hf])]
  simp only [hn]

theorem fillDone_promoted (hn : v.next = none) (he : v.emptying = false) :
    fillDone stack n s = setSlot stack n { v with state := if v.wrote then .dirty else .clean, wrote := false } s := by
  subst hv
  unfold fillDone
  rw [if_neg (by simp [hf])]
  simp only [hn, he, Bool.false_eq_true, if_false]

theorem fillDone_emptied (hn : v.next = none) (he : v.emptying = true) : fillDone stack n s = setSlot stack n {} s := by
  subst hv
  unfold fillDone
  rw [if_neg (by simp [hf])]
  simp only [hn, he, if_true]
end
end

/-- Settles O45: each event by the lemma of the case that its conditions name. -/
theorem stackEvents : Obligations.StackEvents := by
  intro s
  refine ⟨fun h => ?_, fun h => ?_, fun hv hc hk hz => ?_, fun hva hvb hsa hsb hc hk => ?_, fun hd hr hm => ?_,
    exec_regionCounterHalve s, exec_pageCounterHalve s, fun he => ⟨?_, ?_⟩, fun f hf hn => ?_,
    fun hf hn => ⟨fun he => ?_, fun he => ?_⟩⟩
  · exact exec_eq (exec_selfRefreshEnter s) (refreshEnter_enters h)
  · exact exec_eq (exec_selfRefreshExit s) (refreshExit_serves h)
  · exact exec_eq (exec_regionWrite s) (regionStore_writes hv hc hk hz)
  · have hs : swapping (regionEntry s s.arg.a) (regionEntry s s.arg.b) = true := by
      simp [swapping, hva, hvb, hsa, hsb, hc, hk]
    refine ⟨fun hq ha hb => ?_, fun ha hb => ?_⟩
    · exact exec_eq (exec_regionSwapDrain s) (swapDrain_empties hs (by simp [swapHeld, ha, hb]) hq)
    · exact exec_eq (exec_regionSwapExchange s) (swapMedia_exchanges hs (by simp [swapHeld, ha, hb]))
  · exact exec_eq (exec_channelRetireMove s) (retireChannel_quiesced hd hr hm)
  · exact exec_eq (exec_fabricReleaseRequest s) (releaseRequest_releases he)
  · exact exec_eq (exec_forcedRelease s) (releaseForced_poisons he)
  · exact exec_eq (exec_promotionFillDone s) (fillDone_next rfl hf hn)
  · exact exec_eq (exec_promotionFillDone s) (fillDone_promoted rfl hf hn he)
  · exact exec_eq (exec_promotionFillDone s) (fillDone_emptied rfl hf hn he)

end Sys2Proof.Machine
end

section
/-!
PROOFS. ItemLaws.lean: stores at their homes, panel reads, landings, hook requests, retries and prefetches (O49).
-/
namespace Sys2Proof.Machine

/-! ## The arms of the item events -/

theorem exec_homeAccess (s : State) : exec .homeAccess s = .next (storeArrive s.arg.id s) := rfl
theorem exec_panelWindowRead (s : State) : exec .panelWindowRead s = .next (panelAnswer s.arg.id s) := rfl
theorem exec_landingArrive (s : State) :
    exec .landingArrive s = .next (landingArrive s.arg.id s.arg.core s.arg.a s) := rfl
theorem exec_hookRequest (s : State) : exec .hookRequest s = .next (hookArrive s.arg.id s) := rfl
theorem exec_ownerRecallAck (s : State) : exec .ownerRecallAck s = .next (recallAnswered s.arg.id s) := rfl
theorem exec_requestRetry (s : State) : exec .requestRetry s = .next (retryItem s.arg.id s.arg.a s) := rfl
theorem exec_pf2Notify (s : State) : exec .pf2Notify s = .next (prefetchDone s.arg.id s.arg.strand s) := rfl

section
variable {s : State} {id : Nat}

/-! ## Stores at their homes (08 R183) -/

/-- A store with nothing before it, whose DRAM answers, is performed and leaves the list. -/
theorem storeArrive_performs {r : StoreReq} (hr : findId StoreReq.id s.stores id = some r) (hb : storeBehind s r = false)
    (hw : storeWaits s r = none) :
    let u := { storeLands r s with stores := dropId StoreReq.id (storeLands r s).stores id }
    storeArrive id s = if r.path = 5 then packetMoved r.strand u else replyDone r.strand r.reply u := by
  unfold storeArrive
  simp only [hr, hb, hw, Bool.false_eq_true, if_false]

/-! ## Loads through the panel window (07 R163) -/

section
variable {r : PanelRead} (hr : findId PanelRead.id s.panelReads id = some r) (hn : r.reply = none)
include hr hn

theorem panelAnswer_error {c : Nat} (hc : windowCause (s.core r.target) (s.strand r.strand).domain = some c) :
    panelAnswer id s = { s with
      panelReads := putId PanelRead.id s.panelReads { r with reply := some (.error (BitVec.ofNat 8 c)) } } := by
  unfold panelAnswer
  simp only [hr, hn, hc, Option.isSome_none, Option.isNone_some, Bool.false_and, Bool.false_eq_true, if_false]

/-- A load that no armed zone and no earlier landing holds gets its bytes with their poison. -/
theorem panelAnswer_bytes (hc : windowCause (s.core r.target) (s.strand r.strand).domain = none)
    (hz : inZone (s.core r.target) r.off r.size = false) (hb : readBehind s r = false) :
    panelAnswer id s = { s with
      panelReads := putId PanelRead.id s.panelReads { r with
        reply := some (.ok ((s.core r.target).scratch.bytes r.off r.size))
        poison := (s.core r.target).scratchPoison.filter fun q => q * 32 < r.off + r.size && r.off < q * 32 + 32 } } := by
  unfold panelAnswer
  simp only [hr, hn, hc, hz, hb, Option.isSome_none, Bool.or_self, Bool.and_false, Bool.false_eq_true, if_false]
end

/-! ## Landings (14 R330; 08 R191; 20 R379) -/

/-- The bytes of a landing lie in a zone of its domain that is parked at its target. -/
def landingParked (x : Core) (l : Landing) : Bool :=
  x.parkedZones.any fun z => z.1 == l.domain && l.bytes.any fun b => z.2.2.off ≤ b.1 && b.1 < z.2.2.off + z.2.2.len

/-- A landing is held back: its range is parked, its target is QUIET, or an earlier one of its strand comes first. -/
def landingStays (s : State) (c : CoreId) (l : Landing) : Bool :=
  !(s.core c).gone && (landingParked (s.core c) l || (s.core c).status == .quiet || landingBehind s l)

/-- The cause with which a target answers a landing that it turns down: a ticket's lands in its strand's own scratchpad. -/
def landingCause (x : Core) (l : Landing) : Option Nat :=
  match l.sender with
  | .ticket _ => if x.gone then some Cause.remoteDead else none
  | _ => windowCause x l.domain

/-- The bytes of a landing that land: all of them, or those in armed zones. -/
def landingGood (x : Core) (l : Landing) : List (Nat × Byte) :=
  if l.zonesOnly then l.bytes.filter fun b =>
    x.ranges.any fun r => r.zone && r.armed && r.off ≤ b.1 && b.1 < r.off + r.len
  else l.bytes

/-- Bytes of a landing written at its target, and its range off the scoreboard. -/
def landingWritten (c : CoreId) (bytes : List (Nat × Byte)) (l : Landing) (s : State) : State :=
  landBytes c bytes (l.poison.filter fun o => bytes.any fun b => b.1 == o) (dropRange l s)

/-- The machine without a landing. -/
def landingGone (l : Landing) (s : State) : State := { s with landings := s.landings.erase l }

theorem landingStays_of_parked {c : CoreId} {l : Landing} (hg : (s.core c).gone = false)
    (hw : landingParked (s.core c) l = true ∨ (s.core c).status = .quiet) : landingStays s c l = true := by
  rcases hw with hw | hw <;> simp [landingStays, hg, hw]

theorem landingStays_of_gone {c : CoreId} (l : Landing) (hg : (s.core c).gone = true) : landingStays s c l = false := by
  simp [landingStays, hg]

theorem landingStays_of_free {c : CoreId} {l : Landing} (hp : landingParked (s.core c) l = false)
    (hq : (s.core c).status ≠ .quiet) (hb : landingBehind s l = false) : landingStays s c l = false := by
  simp [landingStays, hp, hq, hb]

theorem landingGood_all {x : Core} {l : Landing} (hz : l.zonesOnly = false) : landingGood x l = l.bytes :=
  if_neg (by simp [hz])

theorem landingCause_ticket {x : Core} {l : Landing} {k : StrandId} (hk : l.sender = .ticket k) :
    landingCause x l = if x.gone then some Cause.remoteDead else none := by
  simp only [landingCause, hk]

theorem landingCause_window {x : Core} {l : Landing} (hk : ∀ k, l.sender ≠ .ticket k) :
    landingCause x l = windowCause x l.domain := by
  unfold landingCause
  split
  next k h => exact absurd h (hk k)
  next => rfl

theorem landingBehind_packet {l : Landing} {p : Nat} (hk : l.sender = .packet p) : landingBehind s l = false := by
  simp only [landingBehind, hk]

theorem landingBehind_ticket {l : Landing} {k : StrandId} (hk : l.sender = .ticket k) : landingBehind s l = false := by
  simp only [landingBehind, hk]

theorem landingDone_strand {l : Landing} {k : StrandId} (hk : l.sender = .strand k) :
    landingDone l none s = replyDone k l.id (landingGone l s) := by
  simp only [landingDone, hk]
  rfl

theorem landingDone_packet {l : Landing} {p : Nat} (hk : l.sender = .packet p) (short : Prop) [Decidable short] :
    landingDone l (if short then some Cause.fixedPath else none) s =
      packetMoved p (if short then packetFails p 5 (landingGone l s) else landingGone l s) := by
  by_cases h : short <;> simp only [landingDone, hk, h, if_true, if_false] <;> rfl

theorem landingDone_ticket {l : Landing} {k : StrandId} (hk : l.sender = .ticket k) :
    let t := landingGone l s
    landingDone l none s = landingsMoved l.target (complete k l.id [] none (t.setCore l.target { t.core l.target with
      ranges := (t.core l.target).ranges.filter fun r => r.zone || r.id != l.id })) := by
  simp only [landingDone, hk]
  rfl

section
variable {c : CoreId} {off : Nat} {l : Landing}
  (hl : s.landings.find? (fun l => l.id == id && l.target == c && l.off == off) = some l)
include hl

theorem landing_id : l.id = id := by
  have h := List.find?_some hl
  simp only [Bool.and_eq_true, beq_iff_eq] at h
  exact h.1.1

theorem landing_target : l.target = c := by
  have h := List.find?_some hl
  simp only [Bool.and_eq_true, beq_iff_eq] at h
  exact h.1.2

/-- A landing that is held back is refused (04 R120). -/
theorem landingArrive_refused (hh : landingStays s c l = true) :
    landingArrive id c off s = s.post .requestRetry { id := id, a := off } := by
  simp only [landingArrive, hl]
  exact if_pos hh

section
variable (hw : landingStays s c l = false)
include hw

/-- A landing that nothing holds back is answered with the cause, or performed. -/
theorem landingArrive_answers :
    landingArrive id c off s = match landingCause (s.core c) l with
      | some e => landingDone l (some e) (dropRange l s)
      | none => landingDone l
          (if (landingGood (s.core c) l).length < l.bytes.length then some Cause.fixedPath else none)
          (landingWritten c (landingGood (s.core c) l) l s) := by
  simp only [landingArrive, hl]
  refine (if_neg (Bool.eq_false_iff.1 hw)).trans ?_
  cases hk : l.sender <;> simp only [landingCause, hk] <;> rfl

theorem landingArrive_cause {e : Nat} (he : landingCause (s.core c) l = some e) :
    landingArrive id c off s = landingDone l (some e) (dropRange l s) := by
  simp only [landingArrive_answers hl hw, he]

theorem landingArrive_lands (he : landingCause (s.core c) l = none) :
    landingArrive id c off s = landingDone l
      (if (landingGood (s.core c) l).length < l.bytes.length then some Cause.fixedPath else none)
      (landingWritten c (landingGood (s.core c) l) l s) := by
  simp only [landingArrive_answers hl hw, he]

/-- A landing that lands whole. -/
theorem landingArrive_whole (he : landingCause (s.core c) l = none) (hz : l.zonesOnly = false) :
    landingArrive id c off s = landingDone l none (landingWritten c l.bytes l s) := by
  rw [landingArrive_lands hl hw he, landingGood_all hz, if_neg (Nat.lt_irrefl _)]
end
end

/-! ## Hook requests (02 R68, R69; 06 R150) -/

section
variable {r : HookReq} (hr : hookReq s id = some r)
include hr

/-- An allowed request for which its slice has room joins its hook's queue. -/
theorem hookArrive_joins (h0 : r.stage = 0) (hg : claimGone s r = false) (ha : routineAllowed s r.tenant r.routine = true)
    (hb : hookBehind s r = false)
    (hq : (s.hookReqs.filter fun q => (q.stage == 1 || q.stage == 3) && (placeSlice s r.place).isSome &&
      placeSlice s q.place == placeSlice s r.place).length < 32) :
    hookArrive id s = hookNext (lineStart r.place)
      (setHook { r with stage := 1, arrival := s.nextId } { s with nextId := s.nextId + 1 }) := by
  unfold hookArrive
  simp only [hr, hg, ha, hb, h0, bne_self_eq_false, Bool.not_true, Bool.false_eq_true, if_false]
  exact if_neg (Nat.not_le.2 hq)

theorem recallAnswered_runs (h3 : r.stage = 3) : recallAnswered id s = s.post (hookEvent r.routine) { id := id } := by
  simp [recallAnswered, hr, h3]

theorem retryItem_hook (off : Nat) (h2 : r.stage = 2) :
    retryItem id off s = hookArrive id (setHook { r with stage := 0 } s) := by
  simp [retryItem, hr, h2]
end

theorem retryItem_store (off : Nat) (hr : hookReq s id = none) (ht : ticketReq s id = none)
    (hs : (s.stores.any fun r => r.id == id) = true) : retryItem id off s = s.post .homeAccess { id := id } := by
  simp only [retryItem, hr, ht, hs, if_true]

/-! ## Notifications of prefetches (13 R313) -/

/-- The machine without a prefetch. -/
def prefetchGone (id : Nat) (s : State) : State := { s with prefetches := dropId Prefetch.id s.prefetches id }

/-- A pending instruction waits for an item. -/
def waitsFor (id : Nat) (p : Pending) : Bool := match p.state with | .waiting i _ => i == id | _ => false

theorem faultPc_waiting {k : StrandId} {p : Pending} (hp : (s.strand k).pending.find? (waitsFor id) = some p) :
    prefetchDone.faultPc s k id = p.pc :=
  congrArg (fun o : Option Pending => match o with | some p => p.pc | none => 0) hp

section
variable {r : Prefetch} (hr : findId Prefetch.id s.prefetches id = some r) (k : StrandId)
include hr

theorem prefetchDone_plain (hn : r.notify = none) : prefetchDone id k s = complete k id [] none (prefetchGone id s) := by
  simp only [prefetchDone, hr, hn]
  rfl

section
variable {v : W64} (hn : r.notify = some v)
include hn

theorem prefetchDone_counter (hb : v.getLsbD 17 = false) :
    prefetchDone id k s = complete k id [] none (signalCounter (v.toNat % 65536) 1 (prefetchGone id s)) := by
  simp only [prefetchDone, hr, hn, hb, Bool.false_eq_true, if_false]
  rfl

section
variable (hb : v.getLsbD 17 = true)
include hb

theorem prefetchDone_barrier (ho : overruns (barrierOf s (v.toNat % 65536)) (v.getLsbD 16) = false) :
    prefetchDone id k s =
      complete k id [] none (arriveBarrier (v.toNat % 65536) (v.getLsbD 16) none 0 (prefetchGone id s)) := by
  simp only [prefetchDone, hr, hn, hb, if_true]
  exact if_neg (Bool.eq_false_iff.1 ho)

/-- An arrival past the barrier's EXPECT faults at the instruction that waits for the prefetch. -/
theorem prefetchDone_overrun {p : Pending} (ho : overruns (barrierOf s (v.toNat % 65536)) (v.getLsbD 16) = true)
    (hp : (s.strand k).pending.find? (waitsFor id) = some p) :
    prefetchDone id k s =
      complete k id [] (some { cause := BitVec.ofNat 8 Cause.barrierOverrun, addr := p.pc }) (prefetchGone id s) := by
  have hpc : prefetchDone.faultPc (prefetchGone id s) k id = p.pc := faultPc_waiting hp
  simp only [prefetchDone, hr, hn, hb, if_true]
  rw [← hpc]
  exact if_pos ho
end
end
end
end

/-- Settles O49: a landing by what holds it back, its cause and the lemma of its sender, each other item by the lemma of the case
that its conditions name. -/
theorem itemEvents : Obligations.ItemEvents := by
  intro s
  refine ⟨fun r hr hb hw => ?_, fun r hr hn => ⟨fun c hc => ?_, fun hc hz hb => ?_⟩,
    fun l hl => ⟨fun hg hw => ?_, fun c hc hw hk => ?_, fun k hk hg => ?_,
      fun hp hq hc => ⟨fun k hk hz hb => ?_, fun p hk => ?_⟩, fun k hk hz hp hq hg => ?_⟩,
    fun r hr => ⟨fun h0 hg ha hb hq => ?_, fun h3 => ?_, fun h2 => ?_⟩, fun hr ht hs => ?_,
    fun r hr => ⟨fun hn => ?_, fun v hn => ⟨fun hb => ?_, fun hb ho => ?_, fun p hb ho hp => ?_⟩⟩⟩
  · exact exec_eq (exec_homeAccess s) (storeArrive_performs hr hb hw)
  · exact exec_eq (exec_panelWindowRead s) (panelAnswer_error hr hn hc)
  · exact exec_eq (exec_panelWindowRead s) (panelAnswer_bytes hr hn hc hz hb)
  · exact exec_eq (exec_landingArrive s) (landingArrive_refused hl (landingStays_of_parked hg hw))
  · have hh : landingStays s s.arg.core l = false :=
      hw.elim (landingStays_of_gone l) fun ⟨hp, hq, hb⟩ => landingStays_of_free hp hq hb
    exact exec_eq (exec_landingArrive s) (landingArrive_cause hl hh ((landingCause_window hk).trans hc))
  · exact exec_eq (exec_landingArrive s)
      (landingArrive_cause hl (landingStays_of_gone l hg) ((landingCause_ticket hk).trans (if_pos hg)))
  · have he := (landingCause_window (by simp [hk])).trans hc
    exact exec_eq (exec_landingArrive s) ((landingArrive_whole hl (landingStays_of_free hp hq hb) he hz).trans
      ((landingDone_strand hk).trans (by rw [landing_id hl]; rfl)))
  · have he := (landingCause_window (by simp [hk])).trans hc
    have hh := landingStays_of_free hp hq (landingBehind_packet hk)
    exact exec_eq (exec_landingArrive s) ((landingArrive_lands hl hh he).trans (landingDone_packet hk _))
  · have he := (landingCause_ticket hk).trans (if_neg (Bool.eq_false_iff.1 hg))
    have hh := landingStays_of_free hp hq (landingBehind_ticket hk)
    exact exec_eq (exec_landingArrive s) ((landingArrive_whole hl hh he hz).trans
      ((landingDone_ticket hk).trans (by rw [landing_id hl, landing_target hl]; rfl)))
  · exact exec_eq (exec_hookRequest s) (hookArrive_joins hr h0 hg ha hb hq)
  · exact exec_eq (exec_ownerRecallAck s) (recallAnswered_runs hr h3)
  · exact exec_eq (exec_requestRetry s) (retryItem_hook hr _ h2)
  · exact exec_eq (exec_requestRetry s) (retryItem_store _ hr ht hs)
  · exact exec_eq (exec_pf2Notify s) (prefetchDone_plain hr _ hn)
  · exact exec_eq (exec_pf2Notify s) (prefetchDone_counter hr _ hn hb)
  · exact exec_eq (exec_pf2Notify s) (prefetchDone_barrier hr _ hn hb ho)
  · exact exec_eq (exec_pf2Notify s) (prefetchDone_overrun hr _ hn hb ho hp)

end Sys2Proof.Machine
end

section
/-!
PROOFS. MailboxLaws.lean: valid requests of the management mailbox, by command, and the answers to invalid ones (O54).
-/
namespace Sys2Proof.Machine

/-! ## The arms of the mailbox events -/

theorem exec_tenantCreate (s : State) : exec .tenantCreate s = .next (mailCommand 1 createTenant s) := rfl
theorem exec_tenantDestroy (s : State) : exec .tenantDestroy s = .next (mailCommand 2 destroyTenant s) := rfl
theorem exec_queueCreate (s : State) : exec .queueCreate s = .next (mailCommand 3 createQueue s) := rfl
theorem exec_queueDestroy (s : State) : exec .queueDestroy s = .next (mailCommand 4 destroyQueue s) := rfl
theorem exec_routineLoad (s : State) : exec .routineLoad s = .next (mailCommand 5 loadRoutine s) := rfl
theorem exec_routineReplace (s : State) : exec .routineReplace s = .next (replaceRoutine s.arg.a s) := rfl
theorem exec_attest (s : State) : exec .attest s = .next (mailCommand 6 attestReport s) := rfl
theorem exec_mailboxInvalid (s : State) : exec .mailboxInvalid s = .next (mailInvalid s) := rfl

/-! ## Requests (03 R97) -/

/-- A valid request with this command stands in the mailbox of a package whose boot is not stopped. -/
def mailValid (s : State) (cmd : Nat) : Prop :=
  s.package.doorbell = true ∧ bootStopped s = false ∧ mailProblem s = none ∧ mailField s 0 2 = cmd

section
variable {s u : State}

theorem mailCommand_valid {cmd : Nat} {f : State → State} (hv : mailValid s cmd) : mailCommand cmd f s = f s := by
  obtain ⟨hd, hb, hp, hc⟩ := hv
  unfold mailCommand
  rw [if_neg (by simp [hd, hb]), if_neg (by simp [hp, hc])]

/-- A valid request is answered as its command's body does. -/
theorem mail_answers {i : Instr} {cmd : Nat} {f : State → State} (hx : exec i s = .next (mailCommand cmd f s))
    (hv : mailValid s cmd) (hf : f s = u) : exec i s = .next u :=
  exec_eq hx ((mailCommand_valid hv).trans hf)

/-! ## TENANT_CREATE (03 R97, R98) -/

section
variable {windows : Table (W64 × W64)} {decls : List Decl} {id base : Nat}

/-- A request whose windows, declarations, domain and law table can be had goes on to be installed. -/
theorem createTenant_goes {bs : List Byte} (hx : (s.tenant (mailField s 2 1)).present = false)
    (hw : readWindows s (mailField s 32 8) (mailField s 40 1) = some windows) (hb : declBytes s = .ok bs)
    (hd : readDecls (declCount s) bs = some decls) (hi : chooseDomain (declCount s) = some id)
    (hl : lawPlace (declCount s) (mailField s 2 1) = some base)
    (hg : (Table.get (0, 0) (declCount s).package.gens id).1 + 1 ≠ (Table.get (0, 0) (declCount s).package.gens id).2) :
    createTenant s = installTenant (mailField s 2 1) id base windows decls (declCount s) := by
  simp only [createTenant, hx, hw, hb, hd, hi, hl, Bool.false_eq_true, if_false]
  exact if_neg (by simpa using hg)

/-- The domain that a new tenant gets: the next generation of its identifier (07 R168). -/
def newDomain (a : State) (id : Nat) : BitVec 16 :=
  BitVec.ofNat 16 (id * 16 + ((Table.get (0, 0) a.package.gens id).1 + 1).toNat)
/-- The machine with a new tenant that has nothing but its registers and an empty law table, of which no copy is left. -/
def freshTenant (t id base : Nat) (windows : Table (W64 × W64)) (a : State) : State :=
  let fresh := a.setTenant t (newTenant a (newDomain a id) windows base)
  dropLaws t 0 255 (setPaBytes fresh (lawEntryPa fresh t 0) (List.replicate 8192 0))
/-- The place of a declaration's ID field. -/
def idField (a : State) (q : Nat × Nat) : Nat := mailField a 8 8 + q.1 + 10

/-- A tenant whose objects can all be had, and whose ID fields can be written, is installed. -/
theorem installTenant_installs {t : Nat} {ids : List (Nat × Nat)}
    (hi : installDecls t (BitVec.ofNat 12 id) (declsOrdered decls) (freshTenant t id base windows s, []) = some (u, ids))
    (hh : ∀ q ∈ ids, serviceHeld 0 (idField s q) (toBytes 2 q.2) s = false) :
    let g := Table.get (0, 0) s.package.gens id
    let v := ids.foldl (fun u q => serviceStore 0 (idField s q) (toBytes 2 q.2) (fun _ => false) u) u
    installTenant t id base windows decls s = mailReply 0 0 [(4, 2, (newDomain s id).toNat)]
      (setWeights t (v.withPackage fun p => { p with gens := Table.set (0, 0) p.gens id (g.1 + 1, g.2) })) := by
  have hno : ¬(ids.any fun q => serviceHeld 0 (idField s q) (toBytes 2 q.2) s) = true := by simpa using hh
  unfold freshTenant newDomain at hi
  simp only [installTenant, hi]
  exact if_neg hno
end

/-! ## TENANT_DESTROY (03 R97; 04 R121) -/

/-- The queues of a tenant closed and forgotten by their consumers. -/
def queuesClosed (t : Nat) (s : State) : State :=
  (s.tenant t).queues.foldl (fun u q => unbindQueue t q.1 (closeHeader t q u)) s
/-- The records chosen for the cores, and the copy packets, of a tenant discarded. -/
def workDiscarded (t : Nat) (s : State) : State :=
  { s with
    panels := Table.mapValues {} (fun (p : Panel) => { p with
      redispense := p.redispense.filter fun q => q.2.tenant != t
      chosen := p.chosen.filter fun q => q.2.tenant != t }) s.panels
    copyJobs := discardJobs t s.copyJobs }
/-- Every core cleared of a tenant's work in a domain. -/
def coresCleared (t : Nat) (d : BitVec 16) (s : State) : State := s.cores.foldl (fun u q => clearCore t d q.1 u) s
/-- The suspended tasks of a tenant discarded. -/
def suspendedDiscarded (t : Nat) (s : State) : State :=
  { s with panels := Table.mapValues {} (fun (p : Panel) => { p with
    suspended := p.suspended.filter fun q => q.2.2.tenant != t }) s.panels }
/-- The machine once a tenant's queues are closed and its work is discarded. -/
def tenantStopped (t : Nat) (s : State) : State :=
  suspendedDiscarded t (coresCleared t (tenantDomain s t) (workDiscarded t (queuesClosed t s)))
/-- A matrix command of a domain runs on some core. -/
def commandRuns (d : BitVec 16) (s : State) : Bool := s.cores.any fun q => q.2.active.any fun m => m.domain == d

section
variable (hx : (s.tenant (mailField s 2 1)).present = true)
  (hq : (s.tenant (mailField s 2 1)).queues.any (closeHeld s (mailField s 2 1)) = false)
include hx hq

/-- A running command of the tenant finishes first (04 R117; log 56). -/
theorem destroyTenant_waits
    (hr : commandRuns (tenantDomain s (mailField s 2 1)) (tenantStopped (mailField s 2 1) s) = true) :
    destroyTenant s = (tenantStopped (mailField s 2 1) s).post .tenantDestroy {} := by
  unfold destroyTenant
  simp only [hx, hq, Bool.not_true, Bool.false_eq_true, if_false]
  exact if_pos hr

theorem destroyTenant_discards
    (hr : commandRuns (tenantDomain s (mailField s 2 1)) (tenantStopped (mailField s 2 1) s) = false) :
    let t := mailField s 2 1
    let c := (List.range 12).foldl (fun u k => clearStack t k u) (tenantStopped t s)
    destroyTenant s = mailReply 0 0 []
      ((dropLaws t 0 255 (clearObjects (BitVec.ofNat 12 (domId (tenantDomain s t))) c)).setTenant t {}) := by
  unfold destroyTenant
  simp only [hx, hq, Bool.not_true, Bool.false_eq_true, if_false]
  exact if_neg (Bool.eq_false_iff.1 hr)
end

/-! ## Queues (03 R86, R97, R98) -/

/-- The first free entry of a panel's queue bindings. -/
def freeBinding (s : State) (panel : Nat) : Option Nat :=
  (List.range 128).find? fun i => !(Table.get 0 (s.panel panel).qbind i).getLsbD 54
/-- The bytes of a new queue's header, with their offsets in its line, by the fields of the request. -/
def newHeaderBytes (s : State) : List (Nat × Byte) :=
  (newHeader (mailField s 2 1) (mailField s 5 1) (mailField s 16 8)).zipIdx.map fun b => (b.2, b.1)

/-- A queue whose number is free, and whose header can be found and written, is created; the swift of its panel consumes it
where the request says so. -/
theorem createQueue_creates {p : Place} (hx : (s.tenant (mailField s 2 1)).present = true)
    (hn : ((s.tenant (mailField s 2 1)).queues.any fun q => q.1 == mailField s 3 1) = false)
    (hs : mailField s 6 1 = 0 → (freeBinding s (mailField s 4 1)).isSome = true)
    (hf : find (mailField s 4 1) serviceDomain .write (mailField s 8 8) s = (.place p, u))
    (hw : headerWaits u p (newHeaderBytes s) = false) :
    let t := mailField s 2 1
    let n := mailField s 3 1
    let panel := mailField s 4 1
    let header := mailField s 8 8
    let v := hookWrite p (newHeaderBytes s) u
    let w := v.setTenant t { v.tenant t with
      queues := Table.set noQueue (v.tenant t).queues n { header := header, panel := panel, consumer := mailField s 6 1 } }
    let q := w.panel panel
    let bound := BitVec.ofNat 64 (t * 2 ^ 59 + n * 2 ^ 55 + 2 ^ 54 + header / 128 % 2 ^ 50)
    createQueue s = mailReply 0 0 [] (if mailField s 6 1 = 0 then
        w.setPanel panel { q with qbind := Table.set 0 q.qbind ((freeBinding s panel).getD 0) bound }
      else w) := by
  have hslot : ¬(decide (mailField s 6 1 = 0) && (freeBinding s (mailField s 4 1)).isNone) = true := by
    simpa [Option.isSome_iff_ne_none] using hs
  unfold createQueue
  simp only [hx, hn, hf, Bool.not_true, Bool.false_eq_true, if_false]
  exact (if_neg hslot).trans (if_neg (Bool.eq_false_iff.1 hw))

section
variable {m : Nat} {q : Queue} {p : Place} {h : Header}
  (hq : (s.tenant (mailField s 2 1)).queues.find? (fun q => q.1 == mailField s 3 1) = some (m, q))
  (hh : headerAt q.panel (mailField s 2 1) q.header s = (.ok (p, h), u)) (hw : headerWaits u p [(41, 2)] = false)
include hq hh hw

/-- A queue with published records still to be consumed drains. -/
theorem destroyQueue_drains (hr : h.read < h.pub) :
    destroyQueue s = (if h.state = 1 then headerWrite q.panel q.header p [(41, 2)] u else u).post .queueDestroy {} := by
  simp only [destroyQueue, hq, hh, hw, hr, Bool.false_eq_true, if_false, if_true]

theorem destroyQueue_ends (hr : h.pub ≤ h.read) :
    destroyQueue s = mailReply 0 0 [] (unbindQueue (mailField s 2 1) (mailField s 3 1) (headerWrite q.panel q.header p
      [(41, 0)] (if h.state = 1 then headerWrite q.panel q.header p [(41, 2)] u else u))) := by
  simp only [destroyQueue, hq, hh, hw, Nat.not_lt.2 hr, Bool.false_eq_true, if_false]
end

/-! ## Loadable routines (02 R73) -/

/-- The micro-ops of a ROUTINE_LOAD. -/
def mailOps (s : State) : List (BitVec 32) :=
  (List.range (mailField s 8 1)).map fun i => BitVec.ofNat 32 (ofBytes (hostBytes s (mailField s 16 8 + 4 * i) 4))

/-- A good routine that no hook runs is installed at once. -/
theorem loadRoutine_installs (ho : routineOk (mailOps s) = true) (hr : routineRuns s (mailField s 3 1) = false) :
    loadRoutine s = mailReply 0 0 []
      (installRoutine (mailField s 3 1) (BitVec.ofNat 32 (mailField s 4 4), mailOps s) s) := by
  unfold mailOps at ho ⊢
  simp only [loadRoutine, ho, hr, Bool.not_true, Bool.false_eq_true, if_false]

/-- A replacement takes its place once no request for the old routine runs. -/
theorem replaceRoutine_installs {n : Nat} (hn : (Table.get (0, []) s.package.routineNext n).2 ≠ [])
    (hr : routineRuns s n = false) :
    replaceRoutine n s = installRoutine n (Table.get (0, []) s.package.routineNext n) s := by
  unfold replaceRoutine
  rw [if_neg (by simpa using hn), if_neg (by simp [hr])]

/-! ## Attestation (03 R99) -/

theorem attestReport_signs {key : BitVec 384} (hk : s.package.boot.identity = some key) :
    let body := reportBody s key
    let bs := body ++ padTo 96 (Config.ecdsaSign key (Config.sha384 body) s.steps)
    attestReport s = mailReply 0 0 [(4, 4, bs.length)] (setHostBytes s (mailField s 52 8) bs) := by
  simp only [attestReport, hk]

/-! ## Invalid requests (03 R90, R93, R97) -/

/-- A request whose CRC fails is answered by no single field, and the service tenant learns of it (log 56). -/
theorem mailInvalid_crc (hd : s.package.doorbell = true) (hc : recordOk s.package.mailReq = false) :
    mailInvalid s = mailReply 2 0xFFFF []
      (postEvent s none srcFirmware 2 [(24, 8, 0x20000), (32, 1, 3), (33, 1, 0xFF)]) := by
  have hp : mailProblem s = some 0xFFFF := if_pos (by simp [hc])
  simp only [mailInvalid, hd, hp]
  rfl

/-- A request with a bad field is answered with its offset, and the tenant that it names learns of it, if present. -/
theorem mailInvalid_field {off : Nat} (hd : s.package.doorbell = true) (hp : mailProblem s = some off)
    (ho : off ≠ 0xFFFF) :
    let t := mailField s 2 1
    mailInvalid s = mailReply 2 off []
      (postEvent s (if t < 32 && (s.tenant t).present then some t else none) srcFirmware 3
        [(24, 8, 0x20000), (32, 1, 3), (33, 1, 0xFF), (34, 2, 8 * off)]) := by
  have hb : (off != 0xFFFF) = true := bne_iff_ne.2 ho
  simp only [mailInvalid, hd, hp, hb, ho, Bool.not_true, Bool.false_eq_true, if_false, Bool.true_and]
  rfl
end

/-- Settles O54: a valid request by the lemma of its command's case, an invalid one by what makes it invalid. -/
theorem mailboxEvents : Obligations.MailboxEvents := by
  intro s
  refine ⟨fun windows bs decls id base u ids hv hx hw hb hd hi hl hg hu hh => ?_,
    fun hv hx hq => ⟨fun hr => ?_, fun hr => ?_⟩, fun p u hv hx hn hs hf hw => ?_,
    fun m q p h u hv hq hh hw => ⟨fun hr => ?_, fun hr => ?_⟩, fun hv ho hr => ?_, fun hn hr => ?_,
    fun key hv hk => ?_, fun hc hd => ?_, fun off hd hp ho => ?_⟩
  · exact mail_answers (exec_tenantCreate s) hv
      ((createTenant_goes hx hw hb hd hi hl hg).trans (installTenant_installs hu hh))
  · exact mail_answers (exec_tenantDestroy s) hv (destroyTenant_waits hx hq hr)
  · exact mail_answers (exec_tenantDestroy s) hv (destroyTenant_discards hx hq hr)
  · exact mail_answers (exec_queueCreate s) hv (createQueue_creates hx hn hs hf hw)
  · exact mail_answers (exec_queueDestroy s) hv (destroyQueue_drains hq hh hw hr)
  · exact mail_answers (exec_queueDestroy s) hv (destroyQueue_ends hq hh hw hr)
  · exact mail_answers (exec_routineLoad s) hv (loadRoutine_installs ho hr)
  · exact exec_eq (exec_routineReplace s) (replaceRoutine_installs hn hr)
  · exact mail_answers (exec_attest s) hv (attestReport_signs hk)
  · exact exec_eq (exec_mailboxInvalid s) (mailInvalid_crc hd hc)
  · exact exec_eq (exec_mailboxInvalid s) (mailInvalid_field hd hp ho)

end Sys2Proof.Machine
end

section
/-!
PROOFS. HookLaws.lean: how a routine at its turn ends, and what each queue, hash, law and loadable routine leaves (O52).
-/
namespace Sys2Proof.Machine

/-! ## The arms of the routines -/

theorem exec_hookQueueClaim (s : State) : exec .hookQueueClaim s = hookRun (· == 20) queueClaim s := rfl
theorem exec_hookQueuePublish (s : State) : exec .hookQueuePublish s = hookRun (· == 21) queuePublish s := rfl
theorem exec_hookHashProbe (s : State) : exec .hookHashProbe s = hookRun (· == 22) (hashRoutine true) s := rfl
theorem exec_hookHashFind (s : State) : exec .hookHashFind s = hookRun (· == 23) (hashRoutine false) s := rfl
theorem exec_hookLoadableRoutine (s : State) :
    exec .hookLoadableRoutine s = hookRun (fun n => 48 ≤ n) loadable s := rfl

/-- The event of a law form runs that form. -/
theorem exec_hookEvent_law (form : LawForm) (s : State) :
    exec (hookEvent form.routine) s = hookRun (· == form.routine) (lawRoutineRun form) s := by
  cases form <;> rfl

section
variable {s : State} {r : HookReq}

/-! ## A routine at its turn (02 R68) -/

theorem lawFormOf_of_not_law {n : Nat} (hl : lawRoutine n = false) : lawFormOf n = none := by
  unfold lawFormOf
  split <;> simp_all [lawRoutine]

/-- A routine that is no law operation reads no law entry. -/
theorem hookReads_of_not_law (hl : lawRoutine r.routine = false) : hookReads s r = [] := by
  simp only [hookReads, lawFormOf_of_not_law hl]

/-- Without law entries to read, no home cache is asked. -/
@[simp] theorem lawTouch_nil (s : State) : lawTouch [] s = s := rfl

/-- A routine ends with what it leaves, once its law entries can be had and its writes need no DRAM in self-refresh. -/
theorem hookPerform_finishes {f : State → HookReq → HookOut} {keys : List Nat} {o : HookOut}
    (hk : lawReach s r (hookReads s r) = .ready keys) (ho : f s r = o)
    (hw : outMustWait (lawTouch keys s) r o = none) :
    hookPerform f r s = hookFinish r o (lawTouch keys s) := by
  simp only [hookPerform, hk, ho, hw]

section
variable (hr : hookReq s s.arg.id = some r) (h3 : r.stage = 3) {ok : Nat → Bool} (hok : ok r.routine = true)
  {f : State → HookReq → HookOut} {o : HookOut} (ho : f s r = o)
include hr h3 hok ho

/-- The event of a routine that reads law entries. -/
theorem hookRun_finishes {keys : List Nat} (hk : lawReach s r (hookReads s r) = .ready keys)
    (hw : outMustWait (lawTouch keys s) r o = none) :
    hookRun ok f s = .next (hookFinish r o (lawTouch keys s)) := by
  simp only [hookRun, event, hr, h3, hok, beq_self_eq_true, Bool.and_self, if_true]
  rw [hookPerform_finishes hk ho hw]

/-- The event of any other routine. -/
theorem hookRun_finishes_of_not_law (hl : lawRoutine r.routine = false) (hw : outMustWait s r o = none) :
    hookRun ok f s = .next (hookFinish r o s) := by
  have hk : lawReach s r (hookReads s r) = .ready [] := by rw [hookReads_of_not_law hl]; rfl
  have h := hookRun_finishes hr h3 hok ho hk (by rwa [lawTouch_nil])
  rwa [lawTouch_nil] at h
end

/-- The event of the fixed routine n, which is no law operation. -/
theorem exec_routine_finishes {i : Instr} {n : Nat} {f : State → HookReq → HookOut} {o : HookOut}
    (hr : hookReq s s.arg.id = some r) (h3 : r.stage = 3) (hx : exec i s = hookRun (· == n) f s) (hn : r.routine = n)
    (hl : lawRoutine n = false) (ho : f s r = o) (hw : outMustWait s r o = none) :
    exec i s = .next (hookFinish r o s) :=
  hx.trans (hookRun_finishes_of_not_law (ok := (· == n)) hr h3 (beq_iff_eq.2 hn) ho (hn ▸ hl) hw)

/-! ## Queues (03 R87, R88) -/

/-- An open queue of the tenant passes cases 1 and 2 of R87. -/
theorem headerError_of_open {h : Header} {tenant : Nat} (hs : h.state = 1) (ht : h.tenant = tenant) :
    headerError h tenant = none := by
  simp [headerError, hs, ht]

theorem Header.cap_pos (h : Header) : 0 < h.cap := Nat.two_pow_pos _

section
variable (hb : hookBad s r.place 0 44 = false) (hs : (headerOf (hookLine s r.place)).state = 1)
  (ht : (headerOf (hookLine s r.place)).tenant = r.tenant)
include hb hs ht

/-- A claim of a queue that is not full takes the slot CLAIM. -/
theorem queueClaim_claims :
    let h := headerOf (hookLine s r.place)
    h.claim < h.read + h.cap → h.claim < h.pub + 64 →
    queueClaim s r =
      { reply := .done [BitVec.ofNat 64 h.claim, 0] 0 0
        writes := (toBytes 8 (h.claim + 1)).zipIdx.map fun b => (b.2, b.1) } := by
  intro h hc hp
  have hroom : ¬(h.cap ≤ h.claim - h.read ∨ 64 ≤ h.claim - h.pub) := by
    have := h.cap_pos
    omega
  simp only [queueClaim, hb, headerError_of_open hs ht, Bool.false_eq_true, if_false]
  exact if_neg (by simpa using hroom)

/-- A publish of a slot that is claimed and not yet published advances PUB past the run of published slots. -/
theorem queuePublish_publishes :
    let h := headerOf (hookLine s r.place)
    let slot := r.h0.toNat
    let after := pubLoop 64 (h.pend + 2 ^ (slot - h.pub)) h.pub
    h.pub ≤ slot → slot < h.claim → h.pend.testBit (slot - h.pub) = false →
    queuePublish s r =
      { reply := .done [BitVec.ofNat 64 after.2, 0] 0 0
        writes := ((toBytes 8 after.2).zipIdx.map fun b => (8 + b.2, b.1)) ++
          (toBytes 8 after.1).zipIdx.map fun b => (24 + b.2, b.1)
        published := after.2 != h.pub } := by
  intro h slot after hp hc hn
  have hclaimed : ¬((slot < h.pub ∨ h.claim ≤ slot) ∨ h.pend.testBit (slot - h.pub) = true) :=
    not_or.2 ⟨not_or.2 ⟨hp.not_gt, hc.not_ge⟩, Bool.eq_false_iff.1 hn⟩
  simp only [queuePublish, hb, headerError_of_open hs ht, Bool.false_eq_true, if_false]
  exact if_neg (by simpa using hclaimed)
end

/-! ## Hash entries (13 R295) -/

/-- The key of an entry of a line. -/
def hashKey (l : List Byte) (i : Nat) : Nat := ofBytes ((l.drop (16 * i)).take 8)

/-- The search of a request passes over an entry: it can be read, and holds another key. -/
def hashPasses (s : State) (r : HookReq) (l : List Byte) (i : Nat) : Prop :=
  hookBad s r.place (16 * i) 16 = false ∧ hashKey l i ≠ r.h0.toNat ∧ hashKey l i ≠ 0

theorem hashFrom_of_passes (insert : Bool) {l : List Byte} {i : Nat} (is : List Nat) (hi : hashPasses s r l i) :
    hashFrom s r insert l (i :: is) = hashFrom s r insert l is := by
  obtain ⟨hb, hk, h0⟩ := hi
  rw [hashFrom, hb, if_neg Bool.false_ne_true]
  exact (if_neg hk).trans (if_neg h0)

theorem hashFrom_append (insert : Bool) {l : List Byte} (js is : List Nat) (hj : ∀ j ∈ js, hashPasses s r l j) :
    hashFrom s r insert l (js ++ is) = hashFrom s r insert l is := by
  induction js with
  | nil => rfl
  | cons j js ih =>
    obtain ⟨hhead, htail⟩ := List.forall_mem_cons.1 hj
    exact (hashFrom_of_passes insert _ hhead).trans (ih htail)

/-- An empty entry does not hold the key that is sought, which is not 0. -/
theorem hashKey_ne_of_empty {l : List Byte} {i : Nat} (hk : hashKey l i = 0) (h0 : r.h0 ≠ 0) :
    hashKey l i ≠ r.h0.toNat := by
  rw [hk]
  exact fun h => h0 (BitVec.eq_of_toNat_eq h.symm)

section
variable {l : List Byte} {i : Nat} (is : List Nat) (hb : hookBad s r.place (16 * i) 16 = false)
include hb

/-- An entry with the key answers with its value and its index. -/
theorem hashFrom_of_key (insert : Bool) (hk : hashKey l i = r.h0.toNat) :
    hashFrom s r insert l (i :: is) =
      { reply := .done [BitVec.ofNat 64 (ofBytes ((l.drop (16 * i + 8)).take 8)), BitVec.ofNat 64 i] 1 0 } := by
  rw [hashFrom, hb, if_neg Bool.false_ne_true]
  exact if_pos hk

section
variable (hk : hashKey l i = 0) (h0 : r.h0 ≠ 0)
include hk h0

/-- A probe puts its key and value in an empty entry. -/
theorem hashFrom_inserts :
    hashFrom s r true l (i :: is) =
      { reply := .done [r.h1, BitVec.ofNat 64 i] 2 0
        writes := (toBytes 8 r.h0.toNat ++ toBytes 8 r.h1.toNat).zipIdx.map fun b => (16 * i + b.2, b.1) } := by
  rw [hashFrom, hb, if_neg Bool.false_ne_true]
  exact (if_neg (hashKey_ne_of_empty hk h0)).trans (if_pos hk)

/-- A find ends at an empty entry. -/
theorem hashFrom_misses :
    hashFrom s r false l (i :: is) = { reply := .done [0, BitVec.ofNat 64 i] 3 0 } := by
  rw [hashFrom, hb, if_neg Bool.false_ne_true]
  exact (if_neg (hashKey_ne_of_empty hk h0)).trans (if_pos hk)
end
end

/-- The search of a line starts, for what it answers, at the first entry that it does not pass over. -/
theorem hashRoutine_from {i : Nat} (hi : i < 8) (h0 : r.h0 ≠ 0)
    (hp : ∀ j < i, hashPasses s r (hookLine s r.place) j) :
    ∃ is, ∀ insert, hashRoutine insert s r = hashFrom s r insert (hookLine s r.place) (i :: is) := by
  obtain ⟨k, hk⟩ := Nat.exists_eq_add_of_le hi
  have hrange : List.range 8 = List.range i ++ i :: (List.range k).map (i + 1 + ·) := by
    rw [hk, List.range_add, List.range_succ, List.append_assoc, List.singleton_append]
  refine ⟨(List.range k).map (i + 1 + ·), fun insert => ?_⟩
  have hne : ¬(r.h0 == 0) = true := by simpa using h0
  rw [hashRoutine, if_neg hne, hrange]
  exact hashFrom_append insert _ _ fun j hj => hp j (List.mem_range.1 hj)

/-! ## Law operations (13 R305–R309) -/

/-- What a routine leaves for the result of a law operation. -/
def lawLeaves (s : State) (r : HookReq) (form : LawForm) (o : LawResult) : HookOut :=
  let off := lineOffset r.place
  let used := if form == .set then (hookWord s r).2 else (lawWord (hookWord s r).1).law
  { reply := .done (o.report.getD []) 0 o.flags
    writes := (toBytes 16 o.word.image).zipIdx.map fun b => (off + b.2, b.1)
    packets := o.events.map fun (e : W64 × Nat × Nat × Nat) =>
      (o.route, e.1, layout 16 [(0, 8, r.va.toNat), (8, 4, e.2.1), (12, 1, e.2.2.1), (13, 1, e.2.2.2)])
    entry := (hookLawEntry s r used).map fun e => (used, e) }

theorem lawRoutineRun_of_ok {form : LawForm} {o : LawResult} (ha : lineOffset r.place % 16 = 0)
    (hb : hookBad s r.place (lineOffset r.place) 16 = false)
    (ho : lawOp (hookLawEntry s r) form (hookWord s r).1 r.h0.toNat (r.h1.toNat % 2 ^ 32) (hookWord s r).2 r.h3 = .ok o) :
    lawRoutineRun form s r = lawLeaves s r form o := by
  simp only [lawRoutineRun, ha, hb, ho, bne_self_eq_false, Bool.false_eq_true, if_false]
  rfl
end

/-- Settles O52: each routine by what it leaves in the case that its conditions name, once it is at its turn. -/
theorem hookRoutineEvents : Obligations.HookRoutineEvents := by
  intro s r hr h3
  refine ⟨fun hb hs ht => ⟨fun hn hc hp hw => ?_, fun hn hp hc hq hw => ?_⟩,
    fun i hi h0 hkeys hbad => ?_, fun i form o hform hn ha hb ho keys hk hw => ?_, fun hn hw => ?_⟩
  · exact exec_routine_finishes hr h3 (exec_hookQueueClaim s) hn rfl (queueClaim_claims hb hs ht hc hp) hw
  · exact exec_routine_finishes hr h3 (exec_hookQueuePublish s) hn rfl (queuePublish_publishes hb hs ht hp hc hq) hw
  · obtain ⟨is, hfrom⟩ := hashRoutine_from hi h0 fun j hj => ⟨hbad j hj.le, hkeys j hj⟩
    have hb := hbad i le_rfl
    refine ⟨fun hk => ⟨fun hn hw => ?_, fun hn hw => ?_⟩, fun hk => ⟨fun hn hw => ?_, fun hn hw => ?_⟩⟩
    · exact exec_routine_finishes hr h3 (exec_hookHashProbe s) hn rfl
        ((hfrom true).trans (hashFrom_of_key is hb true hk)) hw
    · exact exec_routine_finishes hr h3 (exec_hookHashFind s) hn rfl
        ((hfrom false).trans (hashFrom_of_key is hb false hk)) hw
    · exact exec_routine_finishes hr h3 (exec_hookHashProbe s) hn rfl
        ((hfrom true).trans (hashFrom_inserts is hb hk h0)) hw
    · exact exec_routine_finishes hr h3 (exec_hookHashFind s) hn rfl
        ((hfrom false).trans (hashFrom_misses is hb hk h0)) hw
  · have hi : i = hookEvent form.routine := by
      rcases hform with ⟨rfl, rfl⟩ | ⟨rfl, rfl⟩ | ⟨rfl, rfl⟩ | ⟨rfl, rfl⟩ | ⟨rfl, rfl⟩ | ⟨rfl, rfl⟩ <;> rfl
    rw [hi, exec_hookEvent_law]
    exact hookRun_finishes (ok := (· == form.routine)) hr h3 (beq_iff_eq.2 hn) (lawRoutineRun_of_ok ha hb ho) hk hw
  · have hl : lawRoutine r.routine = false := by
      simp only [lawRoutine, Bool.and_eq_false_iff, decide_eq_false_iff_not]
      omega
    rw [exec_hookLoadableRoutine]
    exact hookRun_finishes_of_not_law hr h3 (decide_eq_true hn) rfl hl hw

end Sys2Proof.Machine
end

section
/-!
PROOFS. SwiftLaws.lean: what each event of the swift does in the case that its conditions name (O55).
-/
namespace Sys2Proof.Machine

/-! ## The arms of the swift's events -/

theorem exec_swiftReadSlot (s : State) :
    exec .swiftReadSlot s = .next (readSlot s.arg.panel s.arg.tenant s.arg.a s) := rfl
theorem exec_recordReady (s : State) : exec .recordReady s =
    .next (latchReady (if s.arg.id = 0 then some (s.arg.a, s.arg.v.toNat) else none) s) := rfl
theorem exec_recordAge (s : State) : exec .recordAge s = .next (ageRecord s.arg.panel s.arg.id s) := rfl
theorem exec_dispatch (s : State) : exec .dispatch s = .next (dispense s.arg.panel s) := rfl
theorem exec_taskStart (s : State) : exec .taskStart s = .next (startTask s.arg.core s) := rfl
theorem exec_taskComplete (s : State) : exec .taskComplete s = .next (completeTask s.arg.core s) := rfl
theorem exec_traceDiverge (s : State) : exec .traceDiverge s = .next (traceLate s.arg.core s.arg.a s) := rfl
theorem exec_patchStatusChange (s : State) : exec .patchStatusChange s =
    .next (patchReads s.arg.panel s.arg.a s.arg.b s.arg.c s) := rfl
theorem exec_tokenBucketCycle (s : State) :
    exec .tokenBucketCycle s = .next (bucketTick s.arg.panel s.arg.a s.arg.tenant s) := rfl
theorem exec_rampMicrosecond (s : State) : exec .rampMicrosecond s = .next (rampTick s.arg.panel s) := rfl

section
variable {s u : State} {panel : Nat} {c : CoreId} {r : TaskRec}

/-! ## The window of a queue (04 R102) -/

/-- The slot number of a queue that the swift reads next has gone up. -/
def slotTaken (panel key n : Nat) (s : State) : State :=
  s.setPanel panel { s.panel panel with nextRead := Table.set 0 (s.panel panel).nextRead key (n + 1) }

/-- A good record of slot n of a queue becomes a pending record, and the swift looks at the queue again. -/
def recordEnters (panel tenant queue n : Nat) (w : BitVec 512) (s : State) : State :=
  let b : State := { s with nextId := s.nextId + 1 }
  ((b.setPanel panel { b.panel panel with
    records := (b.panel panel).records ++ [{ id := s.nextId, tenant := tenant, queue := queue, slot := n, word := w
                                             ready := false, passedAt := none, agedAt := none }] }).post
    .recordReady { panel := panel, id := s.nextId }).post .swiftReadSlot { panel := panel, tenant := tenant, a := queue }

/-- A slot of the window that has not been read, with a good record. -/
theorem readSlot_enters {tenant queue header n : Nat} {pl pd : Place} {h : Header} {v : State} {w : BitVec 512}
    (hb : boundHeader s panel tenant queue = some header) (hh : headerAt panel tenant header s = (.ok (pl, h), u))
    (hr : nextReadOf u panel tenant queue h.read = h.read)
    (hm : max (Table.get 0 (u.panel panel).nextRead (tenant * 16 + queue)) h.read = n) (hn : n < min h.pub (h.read + 64))
    (hf : find panel (tenantDomain u tenant) .read ((h.base + n % h.cap * 64) % 2 ^ 64) u = (.place pd, v))
    (hw : ofRecBytes (placeRead (slotTaken panel (tenant * 16 + queue) n v) pd 64) = w) (hok : recordOk w = true)
    (hbad : recBad (slotTaken panel (tenant * 16 + queue) n v) tenant w = none) :
    readSlot panel tenant queue s = recordEnters panel tenant queue n w (slotTaken panel (tenant * 16 + queue) n v) := by
  unfold slotTaken at hw hbad
  simp only [readSlot, hb, hh, hm, hr, bne_self_eq_false, Bool.false_eq_true, if_neg (Nat.not_le.2 hn), hf, hw, hok,
    Bool.not_true, if_false, hbad]
  rfl

/-! ## Age (04 R105) -/

theorem ageRecord_ages {id t : Nat} (hr : (s.panel panel).records.find? (fun r => r.id == id) = some r)
    (hp : r.passedAt = some t) (ha : r.agedAt = none) (ht : t + 100000 ≤ s.deviceTime) :
    ageRecord panel id s = (s.setPanel panel { s.panel panel with
      records := (s.panel panel).records.map fun q => if q.id == id then { q with agedAt := some (t + 100000) } else q }).post
      .dispatch { panel := panel } := by
  simp only [ageRecord, hr, hp, ha, Option.isSome_none, Bool.false_eq_true, if_false, if_pos ht]

/-! ## Choosing (04 R104) -/

/-- The ready records of a panel that are chosen for no core and have an eligible one. -/
def candidates (s : State) (panel : Nat) : List TaskRec :=
  (s.panel panel).records.filter fun r => r.ready && !((s.panel panel).chosen.any fun k => k.2.id == r.id) &&
    !(eligibleCores s panel r).isEmpty

/-- With no task to be re-dispensed, a candidate is chosen for the core at the rotating pointer. -/
theorem dispense_chooses {d : CoreId} (hs : (s.panel panel).supervised = true) (hd : (s.panel panel).redispense = [])
    (hr : chooseRecord (s.panel panel) (candidates s panel) = some r)
    (hc : rotated (s.panel panel).corePtr (eligibleCores s panel r) = some d) :
    dispense panel s = choose panel r d s := by
  unfold candidates at hr
  simp only [dispense, hs, hd, List.findSome?_nil, hr, hc, Bool.not_true, Bool.false_eq_true, if_false]

/-! ## Starting (04 R107, R109) -/

/-- The record of a dispatch leaves the pending ones for the running table (R107). -/
def recordRuns (c : CoreId) (r : TaskRec) (s : State) : State :=
  let q := countDispatch (s.panel c.panel) r
  s.setPanel c.panel { q with
    records := q.records.filter fun o => o.id != r.id
    redispense := q.redispense.filter fun k => k.2.id != r.id
    runningTable := (q.runningTable.filter fun k => k.2.id != r.id) ++ [(c, r)] }
/-- The core of a dispatch is RUNNING, for the record's tenant. -/
def coreRuns (c : CoreId) (r : TaskRec) (s : State) : State :=
  s.setCore c { s.core c with status := .running, tenant := r.tenant, domain := tenantDomain s r.tenant }
/-- The registers with which the lead strand of a record's task starts in a domain. -/
def leadStart (r : TaskRec) (d : BitVec 16) : Start :=
  { pc := recEntry r.word
    bases := (List.range 4).map fun j => BitVec.ofNat 64 (recBits r.word (128 + 64 * j) 64)
    stime := BitVec.ofNat 64 (recTime r.word)
    domain := d
    role := .lead }

/-- The first dispatch of a record, which consumes its slot. -/
theorem launch_dispatches (c : CoreId) (r : TaskRec) (s : State) :
    let f := coreRuns c r (recordRuns c r (passOver r c s))
    launch c r false s = consumeSlot c.panel r.tenant r.queue r.slot (traced c (taskEntry r)
      (startStrand (mkStrand c 0) (leadStart r (f.core c).domain) (acquire c f))) := by
  unfold launch
  exact if_neg Bool.false_ne_true

section
variable {k : CoreId} (hc : (s.panel c.panel).chosen.find? (fun k => k.1 == c) = some (k, r))
  (hd : ((s.panel c.panel).redispense.any fun k => k.2.id == r.id) = false)
  (hp : ((s.panel c.panel).records.any fun q => q.id == r.id) = true) (hm : mayLaunch s c r = true)
include hc hd hp hm

/-- An idle core of another tenant, whose matrix unit is idle, is cleansed first. -/
theorem startTask_cleanses (ht : tenantOf s (tenantDomain s r.tenant) ≠ coreTenant s c) (ha : (s.core c).active = none) :
    startTask c s = (enterDomain c (tenantDomain s r.tenant) s).post .taskStart { core := c } := by
  have hne : (tenantOf s (tenantDomain s r.tenant) != coreTenant s c) = true := by simpa using ht
  simp [startTask, hc, hd, hp, hm, hne, ha]

/-- A core of the record's tenant takes it, where neither its pattern slots nor its trace hold the start. -/
theorem startTask_launches (ht : tenantOf s (tenantDomain s r.tenant) = coreTenant s c) (hs : slotsHeld s c 0 = false)
    (he : traceHeld s c (taskEntry r) = false) :
    startTask c s = launch c r false (s.setPanel c.panel { s.panel c.panel with
      chosen := (s.panel c.panel).chosen.filter fun k => k.1 != c }) := by
  simp [startTask, hc, hd, hp, hm, ht, hs, he]
end

/-! ## Completing (04 R108) -/

@[simp] theorem clearStopped_of_not_stopped (h : (s.core c).stop = false) : clearStopped c s = s := by
  simp [clearStopped, h]

/-- A task without live strands, on a running core whose matrix unit has no command, completes. -/
theorem completeTask_completes (hr : runningRec s c = some r) (hx : (s.core c).status = .running)
    (hs : (s.core c).stop = false) (hm : matrixBusy (s.core c) = false)
    (hk : (coreStrands c).any (taskStrand s) = false) :
    let u := if recDonev r.word then
        postEvent (freeEntry c s) (some r.tenant) (srcQueue r.tenant r.queue) 1
          [(24, 1, c.panel), (25, 1, r.queue), (26, 1, c.index), (32, 8, r.slot)]
      else freeEntry c s
    let y := u.core c
    let v := (u.setCore c { y with
      status := if y.status == .running then .idle else y.status
      before := if y.before == .running then .idle else y.before }).post .dispatch { panel := c.panel }
    completeTask c s = if y.mailbox.isEmpty then v else v.post .handlerStart { core := c } := by
  simp only [completeTask, hr, hx, hm, hk, clearStopped_of_not_stopped hs, beq_self_eq_true, Bool.true_or, Bool.false_and,
    Bool.or_false, Bool.not_true, Bool.false_eq_true, if_false]

/-! ## Replay (04 R114) -/

section
variable {since : Nat} {pl : Place} (hm : (s.core c).trmode = 2) (hd : (s.core c).diverged = false)
  (hs : (s.core c).trSince = since) (hp : tracePlace .read c s = (.place pl, u))
include hm hd hs hp

/-- An entry of kind 0 ends the trace. -/
theorem traceLate_ends (hk : traceKind (BitVec.ofNat 128 (ofBytes (placeRead u pl 16))) = 0) :
    traceLate c since s = ((u.setCore c { u.core c with trmode := 0 }).post .dispatch { panel := c.panel }).post
      .handlerStart { core := c } := by
  simp only [traceLate, hm, hd, hs, hp, hk, bne_self_eq_false, Bool.or_false, Bool.false_eq_true, if_false, if_true]

/-- An entry of a reserved kind, or one that nothing matched in time, diverges. -/
theorem traceLate_diverges :
    let entry := BitVec.ofNat 128 (ofBytes (placeRead u pl 16))
    traceKind entry ≠ 0 → 3 ≤ traceKind entry ∨
      since + (Table.get 1000 (u.panel c.panel).tdivto (traceTenant entry)).toNat * 1000 ≤ u.deviceTime →
    traceLate c since s = diverge c (some (traceTenant entry)) entry u := by
  intro entry hk ht
  simp only [traceLate, hm, hd, hs, hp, bne_self_eq_false, Bool.or_false, Bool.false_eq_true, if_false]
  exact (if_neg hk).trans (if_pos ht)
end

/-! ## Token buckets (04 R111) -/

/-- The balance of a bucket after the refill of one cycle. -/
def refilled (b : Int × Nat × Nat) : Int := min (b.1 + b.2.2) (b.2.1 * 256)

theorem bucketCycle_none (b : Int × Nat × Nat) : bucketCycle b none = ((refilled b, b.2), false) := rfl
theorem bucketCycle_below {b : Int × Nat × Nat} (n : Nat) (h : refilled b < 256) :
    bucketCycle b (some n) = ((refilled b, b.2), false) :=
  if_neg (Int.not_le.2 h)
theorem bucketCycle_above {b : Int × Nat × Nat} (n : Nat) (h : 256 ≤ refilled b) :
    bucketCycle b (some n) = ((refilled b - n * 256, b.2), true) :=
  if_pos h

section
variable {engine tenant : Nat}

/-- The bucket of a tenant at an engine. -/
def bucketOf (s : State) (panel engine tenant : Nat) : Int × Nat × Nat :=
  Table.get (0, 0, 0) s.buckets (bucketKey panel engine tenant)
/-- The balance of a bucket set. -/
def setBalance (panel engine tenant : Nat) (n : Int) (s : State) : State :=
  { s with buckets := Table.set (0, 0, 0) s.buckets (bucketKey panel engine tenant) (n, (bucketOf s panel engine tenant).2) }

theorem bucketTick_refills (hj : waitingJob s panel engine tenant = none) :
    bucketTick panel engine tenant s =
      setBalance panel engine tenant (refilled (bucketOf s panel engine tenant)) s := by
  simp only [bucketTick, hj]
  rfl

section
variable {j : CopyJob} (hj : waitingJob s panel engine tenant = some j)
include hj

/-- A packet waits on while the balance is below one burst. -/
theorem bucketTick_waits (hr : refilled (bucketOf s panel engine tenant) < 256) :
    bucketTick panel engine tenant s =
      (setBalance panel engine tenant (refilled (bucketOf s panel engine tenant)) s).post .tokenBucketCycle
        { panel := panel, a := engine, tenant := tenant } := by
  have hw : (waitingJob (setBalance panel engine tenant (refilled (bucketOf s panel engine tenant)) s)
      panel engine tenant).isSome = true := by
    rw [show waitingJob (setBalance _ _ _ _ s) panel engine tenant = some j from hj]
    rfl
  unfold bucketOf at hr
  simp only [bucketTick, hj, Option.map_some, bucketCycle_below 1 hr]
  exact if_pos hw

/-- A burst goes, and a packet's last lets it be performed. -/
theorem bucketTick_issues (hr : 256 ≤ refilled (bucketOf s panel engine tenant)) :
    let u := { setBalance panel engine tenant (refilled (bucketOf s panel engine tenant) - 256) s with
      copyJobs := putId CopyJob.id s.copyJobs { j with bursts := j.bursts - 1 } }
    let v := if j.bursts = 1 then u.post (packetEvent (recBits j.word 0 8)) { id := j.id } else u
    bucketTick panel engine tenant s = if (waitingJob v panel engine tenant).isSome then
      v.post .tokenBucketCycle { panel := panel, a := engine, tenant := tenant } else v := by
  unfold bucketOf at hr
  simp only [bucketTick, hj, Option.map_some, bucketCycle_above 1 hr, Bool.true_and, beq_iff_eq, if_true]
  rfl
end
end
end

/-- Settles O55: each event by the lemma of the case that its conditions name; readiness, sensors and the ramp have one case. -/
theorem swiftEvents : Obligations.SwiftEvents := by
  intro s
  refine ⟨fun header pl h u pd v hb hh hr hn hf hok hbad => ?_, exec_recordReady s, fun r t hr hp ha ht => ?_,
    fun r d hs hd hr hc => ?_, fun k r hc hd hp hm => ⟨fun ht ha => ?_, fun ht hs he => ?_⟩, fun r hr hx hs hm hk => ?_,
    fun pl u hm hd hs hp => ⟨fun hk => ?_, fun hk ht => ?_⟩, exec_patchStatusChange s,
    ⟨fun hj => ?_, fun j hj => ⟨fun hr => ?_, fun hr => ?_⟩⟩, exec_rampMicrosecond s⟩
  · exact exec_eq (exec_swiftReadSlot s) (readSlot_enters hb hh hr rfl hn hf rfl hok hbad)
  · exact exec_eq (exec_recordAge s) (ageRecord_ages hr hp ha ht)
  · exact exec_eq (exec_dispatch s) (dispense_chooses hs hd hr hc)
  · exact exec_eq (exec_taskStart s) (startTask_cleanses hc hd hp hm ht ha)
  · exact exec_eq (exec_taskStart s) ((startTask_launches hc hd hp hm ht hs he).trans (launch_dispatches _ _ _))
  · exact exec_eq (exec_taskComplete s) (completeTask_completes (r := r) hr hx hs hm hk)
  · exact exec_eq (exec_traceDiverge s) (traceLate_ends hm hd hs hp hk)
  · exact exec_eq (exec_traceDiverge s) (traceLate_diverges hm hd hs hp hk ht)
  · exact exec_eq (exec_tokenBucketCycle s) (bucketTick_refills hj)
  · exact exec_eq (exec_tokenBucketCycle s) (bucketTick_waits hj hr)
  · exact exec_eq (exec_tokenBucketCycle s) (bucketTick_issues hj hr)

end Sys2Proof.Machine
end

section
/-!
PROOFS. CommandLaws.lean: each CORECMD where the core's state allows it, the save that a PREEMPT ends with, and the time-out of
its zones (O56).
-/
namespace Sys2Proof.Machine

/-! ## The arms of the commands -/

theorem exec_corecmdNone (s : State) : exec .corecmdNone s =
    .next (if (s.core s.arg.core).status == .retired then storeDone s.arg.id s
      else accept s.arg.core s.arg.v (storeDone s.arg.id s)) := rfl
theorem exec_corecmdReject (s : State) :
    exec .corecmdReject s = .next (reject s.arg.core (storeDone s.arg.id s)) := rfl
theorem exec_corecmdPreempt (s : State) :
    exec .corecmdPreempt s = .next (preempt s.arg.core s.arg.v (storeDone s.arg.id s)) := rfl
theorem exec_preemptSaveDone (s : State) : exec .preemptSaveDone s = .next (saveDone s.arg.core s) := rfl
theorem exec_corecmdResume (s : State) :
    exec .corecmdResume s = .next (resume s.arg.core s.arg.v (storeDone s.arg.id s)) := rfl
theorem exec_corecmdHalt (s : State) :
    exec .corecmdHalt s = .next (haltCommand s.arg.core false s.arg.v (storeDone s.arg.id s)) := rfl
theorem exec_corecmdHaltQuiet (s : State) :
    exec .corecmdHaltQuiet s = .next (haltCommand s.arg.core true s.arg.v (storeDone s.arg.id s)) := rfl
theorem exec_corecmdUnhalt (s : State) :
    exec .corecmdUnhalt s = .next (unhalt s.arg.core s.arg.v (storeDone s.arg.id s)) := rfl
theorem exec_zoneTimeout (s : State) : exec .zoneTimeout s = .next (zoneLate s.arg.core s) := rfl

section
variable {s : State} {c : CoreId} {v : W64}

/-! ## Rejection (04 R115) -/

theorem reject_sets_err (h : (s.core c).status ≠ .retired) :
    reject c s = s.setCore c { s.core c with err := true } :=
  if_neg (by simpa using h)

/-! ## Stopping a core (04 R117, R119, R120) -/

/-- Every strand of a core is to stop, and what its command does next is looked at. -/
def strandsStop (c : CoreId) (s : State) : State :=
  stopCheck c ((coreStrands c).foldl (fun u k => beginStop k false u) s)

/-- PREEMPT of an IDLE or RUNNING core. -/
theorem preempt_stops (h : (s.core c).status = .idle ∨ (s.core c).status = .running) :
    preempt c v s = strandsStop c (unchoose c ((accept c v s).setCore c { (accept c v s).core c with
      before := (s.core c).status, status := .stopping, stopCmd := 1, saveArea := saveAddr v, zoneWaitFrom := none })) :=
  if_pos (by simpa using h)

/-- A core begins to stop for a halt; its state before the halt is kept. -/
def coreHalts (c : CoreId) (before : CoreState) (cmd : Nat) (since : Option Nat) (s : State) : State :=
  s.setCore c { s.core c with
    err := false, before := before, status := .stopping, stopCmd := cmd, zoneWaitFrom := since }
/-- The armed zones of a core that stood as x are timed. -/
def zonesTimed (c : CoreId) (x : Core) (s : State) : State :=
  if x.ranges.any Range.zone then s.post .zoneTimeout { core := c } else s

theorem zonesTimed_of_zone {x : Core} (h : x.ranges.any Range.zone = true) :
    zonesTimed c x s = s.post .zoneTimeout { core := c } :=
  if_pos h
theorem zonesTimed_of_no_zone {x : Core} (h : x.ranges.any Range.zone = false) : zonesTimed c x s = s :=
  if_neg (Bool.eq_false_iff.1 h)

section
variable (h : (s.core c).status = .idle ∨ (s.core c).status = .running)
include h

theorem haltCommand_halt : haltCommand c false v s =
    strandsStop c (unchoose c (coreHalts c (s.core c).status 3 none (accept c v s))) := by
  rcases h with h | h <;> simp [haltCommand, haltBegin, coreHalts, strandsStop, h]

theorem haltCommand_quiet : haltCommand c true v s = strandsStop c (zonesTimed c (s.core c)
    (unchoose c (coreHalts c (s.core c).status 4 (some s.deviceTime) (accept c v s)))) := by
  rcases h with h | h <;> simp [haltCommand, haltBegin, coreHalts, strandsStop, zonesTimed, accept, h]

theorem haltCommand_quiet_of_zone (hz : (s.core c).ranges.any Range.zone = true) :
    haltCommand c true v s = strandsStop c ((unchoose c (coreHalts c (s.core c).status 4 (some s.deviceTime)
      (accept c v s))).post .zoneTimeout { core := c }) := by
  rw [haltCommand_quiet h, zonesTimed_of_zone hz]

theorem haltCommand_quiet_of_no_zone (hz : (s.core c).ranges.any Range.zone = false) :
    haltCommand c true v s = strandsStop c (unchoose c (coreHalts c (s.core c).status 4 (some s.deviceTime)
      (accept c v s))) := by
  rw [haltCommand_quiet h, zonesTimed_of_no_zone hz]
end

/-- A HALTED core takes HALT_QUIET; it goes back, at UNHALT, to the state before the first halt. -/
theorem haltCommand_quiet_of_halted (h : (s.core c).status = .halted) :
    haltCommand c true v s = strandsStop c (zonesTimed c (s.core c)
      (unchoose c (coreHalts c (s.core c).before 4 (some s.deviceTime) (accept c v s)))) := by
  simp [haltCommand, haltBegin, coreHalts, strandsStop, zonesTimed, accept, h]

/-! ## The save (04 R117, R118) -/

/-- The save of a core in its area. -/
def imageOf (s : State) (c : CoreId) : List Byte :=
  saveImage s c (((s.core c).parkedZones.filter fun z => z.2.1 == (s.core c).saveArea).map fun z => z.2.2)
/-- The machine once the save is written, the core's strands are FREE and its task is suspended. -/
def strandsSaved (s : State) (c : CoreId) : State :=
  let u := serviceStore c.panel (s.core c).saveArea (imageOf s c) (saveBad (s.core c)) s
  suspend c (s.core c).saveArea ((coreStrands c).foldl (fun u k => if (u.strand k).live then freeStrand k u else u) u)
/-- A core that is IDLE after its save, with what it keeps beside the save area (logs 15, 41, 55). -/
def coreSaved (s : State) (c : CoreId) (y : Core) : Core :=
  let x := s.core c
  { y with
    status := .idle, before := .idle, stopCmd := 0, cmdq := []
    heldBuffered := (y.heldBuffered.filter fun q => q.1 != x.saveArea) ++ x.buffered.map fun b => (x.saveArea, b)
    savedRoles := (y.savedRoles.filter fun q => q.1 != x.saveArea) ++ rolesOf s c x.saveArea
    savedViews := (y.savedViews.filter fun q => q.1 != x.saveArea) ++ viewsOf s c x.saveArea
    savedPending := (y.savedPending.filter fun q => q.1 != x.saveArea) ++ lastsOf s c x.saveArea
    savedQueue := (y.savedQueue.filter fun q => q.1 != x.saveArea) ++ x.cmdq.map fun m => (x.saveArea, m) }

/-- A save that is due, of a core whose tiles can be read and whose area is not held, is written. -/
theorem saveDone_writes (hc : (s.core c).stopCmd = 5) (hg : (s.core c).gone = false) (hb : (s.core c).tileBad = [])
    (ht : ((s.core c).tiles.any fun q => !cellOk q.2) = false)
    (hh : serviceHeld c.panel (s.core c).saveArea (imageOf s c) s = false) :
    saveDone c s = (((strandsSaved s c).setCore c (coreSaved s c ((strandsSaved s c).core c))).post .dispatch
      { panel := c.panel }).post .handlerStart { core := c } := by
  unfold imageOf at hh
  simp only [saveDone, hc, hg, hb, ht, hh, bne_self_eq_false, Bool.or_false, List.isEmpty_nil, Bool.not_true,
    Bool.false_eq_true, if_false]
  rfl

/-! ## RESUME (04 R118) -/

/-- The domain of a save (04 R118). -/
def saveDomain (bs : List Byte) : BitVec 16 := BitVec.ofNat 16 (ofBytes (bs.take 8) / 2 ^ 16)
/-- The core of a RESUME that is accepted, in the domain of its save. -/
def saveEntered (c : CoreId) (v : W64) (bs : List Byte) (s : State) : State :=
  enterDomain c (saveDomain bs) (unchoose c (accept c v s))
/-- A core with the arrays of a save. -/
def arraysRestored (c : CoreId) (area : Nat) (bs : List Byte) (s : State) : Core :=
  restoreCore bs (saveDomain bs) ((List.range 16384).filter (serviceBad s c.panel (area + 0x3800)))
    ((List.range 8192).filter (serviceBad s c.panel (area + 0x83800))) (s.core c)
/-- The core y with the zones of a save armed again, numbered from id on, and without what it kept beside the save's area. -/
def zonesRestored (area : Nat) (bs : List Byte) (id : Nat) (y : Core) : Core :=
  { y with
    tenant := ofBytes (bs.take 8) % 32
    ranges := y.ranges ++ savedZones bs ((y.parkedZones.filter fun z => z.2.1 == area).map fun z => z.2.2) id
    parkedZones := y.parkedZones.filter fun z => z.2.1 != area
    heldBuffered := y.heldBuffered.filter fun q => q.1 != area
    savedRoles := y.savedRoles.filter fun q => q.1 != area
    savedViews := y.savedViews.filter fun q => q.1 != area
    savedPending := y.savedPending.filter fun q => q.1 != area
    savedQueue := y.savedQueue.filter fun q => q.1 != area
    savedTenants := y.savedTenants.erase (ofBytes (bs.take 8) % 32) }
/-- The machine with a core's arrays, zones, buffered words and strands restored. -/
def strandsRestored (c : CoreId) (area : Nat) (bs : List Byte) (id : Nat) (s : State) : State :=
  let y := arraysRestored c area bs s
  (coreStrands c).foldl (fun u k => u.setStrand k (savedStrand bs (saveDomain bs) y area k u))
    (restoreWords c ((y.heldBuffered.filter fun q => q.1 == area).map Prod.snd)
      (({ s with nextId := s.nextId + 16 } : State).setCore c (zonesRestored area bs id y)))
/-- The suspended task of a save's area runs again. -/
def taskRestored (c : CoreId) (area : Nat) (s : State) : State :=
  let p := s.panel c.panel
  s.setPanel c.panel { p with
    suspended := p.suspended.filter fun q => !(q.1 == c && q.2.1 == area)
    runningTable := p.runningTable ++
      ((p.suspended.find? fun q => q.1 == c && q.2.1 == area).toList.map fun q => (c, q.2.2)) }
/-- The commands of a save are queued, and its task and its strands go on, but for the strands that CTXS.STOP holds. -/
def saveGoesOn (c : CoreId) (area : Nat) (bs : List Byte) (y : Core) (f : State) : State :=
  let cmds := (savedCommands bs).zipIdx.map (savedCommand bs (saveDomain bs) y area c f)
  let n : State := { f with nextId := f.nextId + cmds.length }
  let g := taskRestored c area n
  let lead := g.strand (mkStrand c 0)
  let h := g.setCore c { g.core c with
    cmdq := cmds
    status := if ((n.panel c.panel).suspended.find? fun q => q.1 == c && q.2.1 == area).isSome || lead.live then .running
      else .idle
    startWaits := lead.wait == .helperSlot }
  let t := (coreStrands c).foldl (fun u k =>
    if (u.strand k).live && !(ofBytes ((bs.drop (0x300 + 0x300 * k.num + 0x208)).take 8) / 2 ^ 55 % 2 == 1)
    then recheck k (goOn k u) else u) h
  ((taskCheck c (matrixNext c (commandsGone c t))).post .handlerStart { core := c }).post .dispatch { panel := c.panel }

/-- A restored save, by its stages; its zones take the numbers from the next one on. -/
theorem restore_stages (c : CoreId) (v : W64) (bs : List Byte) (s : State) :
    let a := saveEntered c v bs s
    restore c v bs s = saveGoesOn c (saveAddr v) bs (arraysRestored c (saveAddr v) bs a)
      (strandsRestored c (saveAddr v) bs a.nextId a) := by
  intro a
  rw [← Nat.add_sub_cancel (n := a.nextId) (m := 16)]
  rfl

/-- An IDLE core without strands restores a save that can be read and whose CRC is right. -/
theorem resume_restores {bs : List Byte} (hi : (s.core c).status = .idle) (hn : noStrand s c = true)
    (hl : serviceLoad s c.panel (saveAddr v) saveSize = .ok bs)
    (hc : ofBytes ((bs.drop 0x2FC).take 4) = (crc32 (bs.take 0x2FC ++ bs.drop 0x300)).toNat) :
    let a := saveEntered c v bs (serviceCount c.panel (saveAddr v) saveSize s)
    resume c v s = saveGoesOn c (saveAddr v) bs (arraysRestored c (saveAddr v) bs a)
      (strandsRestored c (saveAddr v) bs a.nextId a) := by
  have hno : ¬((s.core c).status != .idle || !noStrand s c) = true := by simp [hi, hn]
  have hok : ¬(ofBytes ((bs.drop 0x2FC).take 4) != (crc32 (bs.take 0x2FC ++ bs.drop 0x300)).toNat) = true := by
    simpa using hc
  simp only [resume, if_neg hno, hl, if_neg hok]
  exact restore_stages _ _ _ _

/-! ## UNHALT (04 R119) -/

theorem unhalt_goes_on (h : (s.core c).status = .halted ∨ (s.core c).status = .quiet) :
    let u := (accept c v s).setCore c { (accept c v s).core c with status := (s.core c).before, before := .idle }
    unhalt c v s = ((taskCheck c (matrixNext c ((coreStrands c).foldl (fun u k =>
      let y := u.strand k
      if y.state == .stopped && !y.held then recheck k (goOn k u) else u) u))).post .handlerStart { core := c }).post
        .dispatch { panel := c.panel } :=
  if_pos (by simpa using h)

/-! ## Zones that do not end in time (04 R120) -/

section
variable {t : Nat} (hw : (s.core c).zoneWaitFrom = some t)
  (ht : t + (s.panel c.panel).zto.toNat * 1000 ≤ s.deviceTime)
include hw ht

theorem zoneLate_parks (h : (s.core c).stopCmd = 1) :
    zoneLate c s = stopCheck c (s.setCore c { s.core c with
      ranges := (s.core c).ranges.filter fun r => !r.zone
      parkedZones := (s.core c).parkedZones ++ ((s.core c).ranges.filter Range.zone).map fun r =>
        ((s.core c).domain, (s.core c).saveArea, r) }) := by
  simp only [zoneLate, hw, if_neg (Nat.not_lt.2 ht), if_pos h]

theorem zoneLate_leaves_armed (h : (s.core c).stopCmd = 4) :
    zoneLate c s = stopCheck c (s.setCore c { s.core c with stopCmd := 6 }) := by
  have hne : ¬(s.core c).stopCmd = 1 := by omega
  simp only [zoneLate, hw, if_neg (Nat.not_lt.2 ht), if_neg hne, if_pos h]
end
end

/-- Settles O56: each command by the lemma of the state that takes it, the save and the time-out by those of their cases. -/
theorem coreCommandEvents : Obligations.CoreCommandEvents := by
  intro s
  refine ⟨fun hr => ⟨?_, ?_⟩, fun h => ⟨?_, ?_, fun hz => ?_, fun hz => ?_⟩, fun h => ?_, fun hc hg hb ht hh => ?_,
    fun bs hi hn hl hc => ?_, fun h => ?_, fun t hw ht => ⟨fun h => ?_, fun h => ?_⟩⟩
  · exact exec_eq (exec_corecmdNone s) (if_neg (by simpa using hr))
  · exact exec_eq (exec_corecmdReject s) (reject_sets_err hr)
  · exact exec_eq (exec_corecmdPreempt s) (preempt_stops h)
  · exact exec_eq (exec_corecmdHalt s) (haltCommand_halt h)
  · exact exec_eq (exec_corecmdHaltQuiet s) (haltCommand_quiet_of_no_zone h hz)
  · exact exec_eq (exec_corecmdHaltQuiet s) (haltCommand_quiet_of_zone h hz)
  · exact exec_eq (exec_corecmdHaltQuiet s) (haltCommand_quiet_of_halted h)
  · exact exec_eq (exec_preemptSaveDone s) (saveDone_writes hc hg hb ht hh)
  · exact exec_eq (exec_corecmdResume s) (resume_restores hi hn hl hc)
  · exact exec_eq (exec_corecmdUnhalt s) (unhalt_goes_on h)
  · exact exec_eq (exec_zoneTimeout s) (zoneLate_parks hw ht h)
  · exact exec_eq (exec_zoneTimeout s) (zoneLate_leaves_armed hw ht h)

end Sys2Proof.Machine
end

section
/-!
PROOFS. ErrorLaws.lean: errors of storage, and the scrub of a killed core with each of its ends (O48).
-/
namespace Sys2Proof.Machine

/-! ## The arms of the errors -/

theorem exec_storageError (s : State) : exec .storageError s = .next (storeErrors s.arg.errs s) := rfl
theorem exec_patrolScrub (s : State) : exec .patrolScrub s = .next (storeErrors s.arg.errs s) := rfl
theorem exec_killScrub (s : State) : exec .killScrub s = .next (scrubCore s.arg.core s) := rfl
theorem exec_scrubDone (s : State) : exec .scrubDone s = .next (scrubEnds s.arg.core s.arg.ok s) := rfl

/-! ## Errors in storage (05 R131) -/

/-- Each error is logged, and one that cannot be corrected spoils its storage, in the order in which they are found. -/
theorem storeErrors_logs_and_spoils (errs : List StoreErr) (s : State) :
    storeErrors errs s = errs.foldl (fun u q =>
      let u := logError q u
      if q.corrected then u else spoil q u) s := rfl

section
variable {s : State} {c : CoreId}

/-! ## The scrub (05 R135) -/

/-- The result of the self-test is a free value (log 8). -/
theorem scrubCore_begins (hp : (s.panel c.panel).supervised = true) (hm : c ∈ (s.panel c.panel).kills)
    (hk : (s.core c).status = .killed) :
    scrubCore c s = (s.setCore c { s.core c with
      scrubbing := true, scrubFailed := false, scratch := [], scratchPoison := [], operand := [], operandPoison := [], tiles := []
      tileBad := [] }).post .scrubDone { core := c, ok := (Config.freeValue s.steps).getLsbD 0 } :=
  if_neg (by simp [hp, hm, hk])

/-! ## Its ends (06 R159) -/

/-- The panel of a core whose physical core is retired: the scrub is over, and the physical core is lost. -/
def physicalLost (c : CoreId) (s : State) : Panel :=
  let p := s.panel c.panel
  { p with kills := p.kills.filter fun k => k != c, lost := p.lost ++ (physOf s c).toList }

/-- The self-test or the scrub failed. -/
theorem scrub_failed {ok : Bool} (hf : ok = false ∨ (s.core c).scrubFailed = true) :
    ¬(ok && !(s.core c).scrubFailed) = true := by
  obtain hf | hf := hf <;> simp [hf]

variable (hk : (s.core c).status = .killed) (hs : (s.core c).scrubbing = true)
include hk hs

/-- A killed core in its scrub passes the check that comes before the scrub's end. -/
theorem scrub_under_way : ¬((s.core c).status != .killed || !(s.core c).scrubbing) = true := by
  simp [hk, hs]

theorem scrubEnds_returns (hf : (s.core c).scrubFailed = false) :
    let p := s.panel c.panel
    scrubEnds c true s = redispense c
      ((s.setPanel c.panel { p with kills := p.kills.filter fun k => k != c }).setCore c (freshCore (s.core c))) :=
  (if_neg (scrub_under_way hk hs)).trans (if_pos (by simp [hf]))

theorem scrubEnds_retires {ok : Bool} (hf : ok = false ∨ (s.core c).scrubFailed = true)
    (hn : (s.panel c.panel).spares = []) :
    scrubEnds c ok s = redispense c
      ((s.setPanel c.panel { physicalLost c s with coreMap := Table.set 0 (s.panel c.panel).coreMap c.index 0 }).setCore c
        { freshCore (s.core c) with status := .retired, isSealed := true }) := by
  unfold scrubEnds
  rw [if_neg (scrub_under_way hk hs), if_neg (scrub_failed hf)]
  simp only [hn, physicalLost]

theorem scrubEnds_spares {ok : Bool} {n : Nat} {ns : List Nat} (hf : ok = false ∨ (s.core c).scrubFailed = true)
    (hn : (s.panel c.panel).spares = n :: ns) :
    let spare := ns.foldl min n
    scrubEnds c ok s = redispense c (withhold c.panel
      ((s.setPanel c.panel { physicalLost c s with
        spares := (s.panel c.panel).spares.erase spare
        coreMap := Table.set 0 (s.panel c.panel).coreMap c.index (spare + 1) }).setCore c (freshCore (s.core c)))) := by
  unfold scrubEnds
  rw [if_neg (scrub_under_way hk hs), if_neg (scrub_failed hf)]
  simp only [hn, physicalLost]
end

/-- Settles O48: the errors one by one, the scrub where the panel takes the core, and its end by the self-test and the spares. -/
theorem errorEvents : Obligations.ErrorEvents := by
  intro s
  refine ⟨⟨?_, ?_⟩, fun hp hm hk => ?_, fun hk hs => ⟨fun ho hf => ?_, fun hf hn => ?_, fun n ns hf hn => ?_⟩⟩
  · exact exec_eq (exec_storageError s) (storeErrors_logs_and_spoils _ s)
  · exact exec_eq (exec_patrolScrub s) (storeErrors_logs_and_spoils _ s)
  · exact exec_eq (exec_killScrub s) (scrubCore_begins hp hm hk)
  · exact exec_eq (exec_scrubDone s) (ho ▸ scrubEnds_returns hk hs hf)
  · exact exec_eq (exec_scrubDone s) (scrubEnds_retires hk hs hf hn)
  · exact exec_eq (exec_scrubDone s) (scrubEnds_spares hk hs hf hn)

end Sys2Proof.Machine
end

section
/-!
PROOFS. StrandLaws.lean: strands that wake, commit, and go on after a reply of the pager (O58).
-/
namespace Sys2Proof.Machine

/-! ## The arms of the strands' events -/

theorem exec_strandWake (s : State) : exec .strandWake s = .next (wakeObject s.arg.a s.arg.b s) := rfl
theorem exec_pauseEnd (s : State) : exec .pauseEnd s = .next (endPause s.arg.strand s) := rfl
theorem exec_yieldEnd (s : State) : exec .yieldEnd s = .next (endYield s.arg.strand s) := rfl
theorem exec_lookaheadCommit (s : State) : exec .lookaheadCommit s =
    .next (let u := settleLasting s.arg.strand (matrixNext s.arg.strand.core s)
      commit s.arg.strand (if s.arg.a = 1 then endWindows s.arg.strand u else u)) := rfl
theorem exec_pagerRetry (s : State) : exec .pagerRetry s =
    .next (if replyCode s.arg.v = 0 then replyRetry s.arg.party s.arg.v s else s) := rfl
theorem exec_pagerDeliverTrap (s : State) : exec .pagerDeliverTrap s =
    .next (if replyCode s.arg.v = 1 then replyTrap s.arg.party s.arg.v s else s) := rfl
theorem exec_pagerTerminate (s : State) : exec .pagerTerminate s =
    .next (if replyCode s.arg.v = 2 then replyTerminate s.arg.party s.arg.v s else s) := rfl

/-! ## Wakes (05 R125; 06 R145) -/

/-- The strands marked at an object wake one after another, but for those of a core whose clock stands, for which the event is
posted again. -/
theorem wakeObject_wakes_marked (kind obj : Nat) (s : State) :
    let u := s.strands.foldl (fun u q =>
      let x := u.strand q.1
      if x.waits && x.satisfied && x.wait.code q.1 == (kind, obj) && !stands (u.core (StrandId.core q.1)) then
        wakeStrand q.1 u else u) s
    wakeObject kind obj s =
      if (u.strands.any fun q => markedAt kind obj u q.1) = true then u.post .strandWake { a := kind, b := obj } else u := rfl

/-! ## Replies of the pager (07 R176) -/

section
variable {s : State} {k : StrandId} {v : W64} {f : PagerInfo}

/-- CODE 2 and 3 are both terminate. -/
theorem replyCode_terminate (h : 2 ≤ v.toNat / 2 ^ 62) : replyCode v = 2 := min_eq_right h
theorem replyCode_of_lt_two {n : Nat} (hv : v.toNat / 2 ^ 62 = n) (hn : n < 2) : replyCode v = n := by
  rw [replyCode, hv, min_eq_left hn.le]

variable (hf : (s.strand k).parked = some f) (hw : (s.strand k).wait = .pager) (hq : (s.strand k).parkedSeq = replySeq v)
include hf hw hq

theorem strandParked_of_reply : strandParked (s.strand k) v = true := by
  simp [strandParked, hf, hw, hq]

theorem replyRetry_strand : replyRetry (.strand k) v s = enlist k (unpark k v s) :=
  if_pos (strandParked_of_reply hf hw hq)

theorem replyTrap_strand :
    let r := (s.strand k).redo.getD { pc := (s.strand k).pc, resume := (s.strand k).pc }
    let u := unpark k v s
    replyTrap (.strand k) v s = settleStop k (takeTrap k { cause := v.extractLsb' 48 8, addr := f.addr } r.pc
      (s.strand k).waitParcels r.resume (u.setStrand k { u.strand k with redo := none, pc := r.resume })) := by
  simp only [replyTrap, hf, strandParked_of_reply hf hw hq, if_true, replyCause]

theorem replyTerminate_strand :
    replyTerminate (.strand k) v s = stopCheck k.core (terminate k (postError k 2 0 f.addr (unpark k v s))) := by
  simp only [replyTerminate, hf, strandParked_of_reply hf hw hq, if_true]
end

/-- Settles O58: wakes, ends and commits by what their events do, and a reply by its CODE for the strand that it answers. -/
theorem strandEvents : Obligations.StrandEvents := by
  intro s
  refine ⟨?_, exec_pauseEnd s, exec_yieldEnd s, exec_lookaheadCommit s,
    fun j f hp hf hw hq => ⟨fun hv => ?_, fun hv => ?_, fun hv => ?_⟩⟩
  · exact exec_eq (exec_strandWake s) (wakeObject_wakes_marked _ _ s)
  · refine exec_eq (exec_pagerRetry s) ((if_pos (replyCode_of_lt_two hv (by decide))).trans ?_)
    rw [hp]
    exact replyRetry_strand hf hw hq
  · refine exec_eq (exec_pagerDeliverTrap s) ((if_pos (replyCode_of_lt_two hv (by decide))).trans ?_)
    rw [hp]
    exact replyTrap_strand hf hw hq
  · refine exec_eq (exec_pagerTerminate s) ((if_pos (replyCode_terminate hv)).trans ?_)
    rw [hp]
    exact replyTerminate_strand hf hw hq

end Sys2Proof.Machine
end

section
/-!
PROOFS. ChannelLaws.lean: a channel gives its oldest packet, and is waited for where it is empty (O19).
-/
namespace Sys2Proof.Machine

section
variable {s : State} {k : StrandId} {x : Strand} {c : Nat} (hx : x.isFixed = false)
include hx

/-- The oldest packet leaves the mailbox, whose closed tags are then free, and the read is an acquire (08 R183). -/
theorem popChannel_oldest {m : Packet} {ms : List Packet} (hm : channelOf (s.core k.core) c = m :: ms) (hb : m.bad = []) :
    (popChannel k x c).gives s (ofStripBytes m.payload) (acquire k.core (s.setCore k.core (Core.freeClosed
      { s.core k.core with mailbox := (s.core k.core).mailbox.filter fun q => q.id != m.id }))) := by
  unfold popChannel
  rw [if_neg (by simp [hx])]
  refine Act.gives_bind (Act.gives_get s) ?_
  simp only [hm]
  rw [if_neg (by simp [hb])]
  exact Act.gives_bind (Act.gives_modify _ s) (Act.gives_pure _ _)

theorem popChannel_empty (hm : channelOf (s.core k.core) c = []) : (popChannel k x c).stops s (.wait (.channel c)) s := by
  unfold popChannel
  rw [if_neg (by simp [hx])]
  refine Act.stops_after (Act.gives_get s) ?_
  simp only [hm]
  exact Act.stops_throw _ s
end

/-- A channel operand is the lanes of the strip that the channel gives, whatever lanes are read. -/
theorem operandB_channel {o : LaneOps} (ho : o.cb = true) (k : StrandId) (x : Strand) (w : Nat) (lanes : List Nat) :
    operandB k x o w lanes = (popChannel k x o.pb.toNat >>= fun a => pure (lane w a)) := if_pos ho

/-- Settles O19: the operand is what the channel gives, or the wait that the channel stops in. -/
theorem channelOperandRead : Obligations.ChannelOperandRead := by
  intro s o lanes ho hx
  rw [operandB_channel ho]
  exact ⟨fun m ms hm hb => Act.gives_bind (popChannel_oldest hx hm hb) (Act.gives_pure _ _),
    fun hm => Act.stops_bind (popChannel_empty hx hm)⟩

end Sys2Proof.Machine
end

section
/-!
PROOFS. TurnLaws.lean: whose turn a step is, what its parcels decode to, and that the step runs it (O1).
-/

namespace Sys2Proof

/-- w is the number that the n bytes of one whole instruction stand for: one even parcel, or two of which the first is odd. -/
def WholeInstr (n w : Nat) : Prop := n = 2 ∧ w % 2 = 0 ∧ w < 2 ^ 16 ∨ n = 4 ∧ w % 2 = 1 ∧ w < 2 ^ 32

theorem WholeInstr.lt {n w : Nat} (h : WholeInstr n w) : w < 2 ^ 32 := by
  unfold WholeInstr at h
  omega

theorem wholeInstr_parcel {lo : Nat} (h : lo < 2 ^ 16) (he : lo % 2 = 0) : WholeInstr 2 lo := .inl ⟨rfl, he, h⟩
theorem wholeInstr_word {lo hi : Nat} (hl : lo < 2 ^ 16) (hh : hi < 2 ^ 16) (ho : lo % 2 = 1) :
    WholeInstr 4 (lo + hi * 2 ^ 16) := .inr ⟨rfl, by omega, by omega⟩

/-- The bytes of one whole instruction decode as its parcel or its word does (10 R223). -/
theorem decode_leBytes {n w : Nat} (h : WholeInstr n w) :
    decode (leBytes n w) = (if w % 2 = 0 then decodeParcel w else decodeWord w).map (·, n) := by
  obtain ⟨rfl, he, hw⟩ | ⟨rfl, ho, hw⟩ := h
  · simp only [leBytes, decode, BitVec.toNat_ofNat]
    rw [if_pos (by omega), if_pos he, show w % 2 ^ 8 + w / 256 % 2 ^ 8 * 256 = w by omega]
  · simp only [leBytes, decode, BitVec.toNat_ofNat]
    rw [if_neg (by omega), if_neg (by omega), show w % 2 ^ 8 + w / 256 % 2 ^ 8 * 256 + w / 256 / 256 % 2 ^ 8 * 65536 +
      w / 256 / 256 / 256 % 2 ^ 8 * 16777216 = w by omega]

/-- A single odd parcel is the beginning of a word. -/
theorem decode_leBytes_odd {w : Nat} (h : w % 2 = 1) : decode (leBytes 2 w) = .error .truncated := by
  simp only [leBytes, decode, BitVec.toNat_ofNat]
  rw [if_neg (by omega)]

end Sys2Proof

namespace Sys2Proof.Machine

/-! ## What parcels decode to (10 R223, R229) -/

/-- What the decoder reads, or ILLEGAL_INSTRUCTION with these parcels where it reads nothing. -/
def orIllegal (w : BitVec 32) : Except DecodeError Instr → Instr
  | .ok i => i
  | .error _ => .illegalInstruction w

section
variable {n w : Nat}

theorem instrOf_ofNat (h : WholeInstr n w) : instrOf (BitVec.ofNat 32 w) =
    orIllegal (BitVec.ofNat 32 w) (if w % 2 = 0 then decodeParcel w else decodeWord w) := by
  have hw : (BitVec.ofNat 32 w).toNat = w := by rw [BitVec.toNat_ofNat, Nat.mod_eq_of_lt h.lt]
  unfold instrOf
  rw [hw]
  obtain ⟨-, he, hlt⟩ | ⟨-, ho, -⟩ := h
  · rw [if_pos he, if_pos he, Nat.mod_eq_of_lt hlt]
    rfl
  · rw [if_neg (by omega), if_neg (by omega)]
    rfl

theorem instrOf_of_decode_ok {i : Instr} (h : WholeInstr n w) (hd : decode (leBytes n w) = .ok (i, n)) :
    instrOf (BitVec.ofNat 32 w) = i := by
  rw [decode_leBytes h] at hd
  rw [instrOf_ofNat h]
  revert hd
  generalize (if w % 2 = 0 then decodeParcel w else decodeWord w) = r
  cases r with
  | ok j => intro hd; cases hd; rfl
  | error e => exact nofun

theorem instrOf_of_decode_error {e : DecodeError} (h : WholeInstr n w) (hd : decode (leBytes n w) = .error e) :
    instrOf (BitVec.ofNat 32 w) = .illegalInstruction (BitVec.ofNat 32 w) := by
  rw [decode_leBytes h] at hd
  rw [instrOf_ofNat h]
  revert hd
  generalize (if w % 2 = 0 then decodeParcel w else decodeWord w) = r
  cases r with
  | ok j => exact nofun
  | error e => exact fun _ => rfl
end

section
variable {k : StrandId} {va : W64} {s t u : State} {lo hi : Nat}
  (hl : (fetchParcel k va).gives (dropIfGone k.core (va.toNat / 128) s) lo t) (hlt : lo < 2 ^ 16)
include hl hlt

theorem fetchInstr_parcel (he : lo % 2 = 0) : (fetchInstr k va).gives s (instrOf (BitVec.ofNat 32 lo)) t := by
  refine Act.gives_bind (Act.gives_modify _ s) (Act.gives_bind hl ?_)
  rw [instrOf_ofNat (wholeInstr_parcel hlt he), if_pos he, if_pos he]
  cases decodeParcel lo with
  | ok i => exact Act.gives_pure _ _
  | error e => exact Act.gives_pure _ _

theorem fetchInstr_word (ho : lo % 2 = 1) (hh : (fetchParcel k (va + 2)).gives t hi u) (hht : hi < 2 ^ 16) :
    (fetchInstr k va).gives s (instrOf (BitVec.ofNat 32 (lo + hi * 2 ^ 16))) u := by
  refine Act.gives_bind (Act.gives_modify _ s) (Act.gives_bind hl ?_)
  rw [instrOf_ofNat (wholeInstr_word hlt hht ho), if_neg (by omega), if_neg (by omega)]
  refine Act.gives_bind hh ?_
  dsimp only
  cases decodeWord (lo + hi * 2 ^ 16) with
  | ok i => exact Act.gives_pure _ _
  | error e => exact Act.gives_pure _ _
end

/-! ## Time -/

/-- The active time of tenants is counted in the tenants alone. -/
theorem foldl_setTenant_parts (f : State → Nat → Tenant) (l : List Nat) (s : State) :
    let u := l.foldl (fun u n => u.setTenant n (f u n)) s
    u.strands = s.strands ∧ u.cores = s.cores := by
  induction l generalizing s with
  | nil => exact ⟨rfl, rfl⟩
  | cons n l ih => exact ih (s.setTenant n (f s n))

theorem tick_strand (s : State) (k : StrandId) : (tick s).strand k = s.strand k := by
  simp only [tick, State.strand]
  rw [(foldl_setTenant_parts _ _ _).1]
theorem tick_core (s : State) (c : CoreId) : (tick s).core c = s.core c := by
  simp only [tick, State.core]
  rw [(foldl_setTenant_parts _ _ _).2]

/-! ## Whose turn it is (06 R143; 05 R125; log 4) -/

/-- A port chooses among the ready strands of the cores whose clock runs. -/
theorem portChoice_mem {s : State} {v : Bool} {k : StrandId} (h : portChoice s v = some k) :
    k ∈ s.ready.filter fun k => !stands (s.core k.core) := by
  unfold portChoice at h
  split at h
  case h_1 => cases h
  case h_2 j hl => cases h; rw [hl]; exact List.mem_cons_self
  case h_3 j js _ hl =>
    rw [hl]
    cases h
    cases hf : (j :: js).find? fun i => targetsV s i == v with
    | none => exact List.mem_cons_self
    | some i => exact List.mem_of_find?_eq_some hf

theorem portChoice_of_all_stand {s : State} (h : ∀ k ∈ s.ready, stands (s.core k.core) = true) (v : Bool) :
    portChoice s v = none := by
  have hf : (s.ready.filter fun k => !stands (s.core k.core)) = [] :=
    List.filter_eq_nil_iff.2 fun k hk => by simp [h k hk]
  unfold portChoice
  rw [hf]

/-- The strand whose turn it is is the choice of one of the ports. -/
theorem popTurn_portChoice {s : State} {v : Bool} {k : StrandId} (h : popTurn s v = some k) :
    ∃ v, portChoice s v = some k := by
  unfold popTurn at h
  split at h
  case h_1 a b ha hb =>
    split at h
    · exact ⟨!v, hb.trans h⟩
    · exact ⟨v, ha.trans h⟩
  case h_2 => exact ⟨v, h⟩

theorem popTurn_runs {s : State} {v : Bool} {k : StrandId} (h : popTurn s v = some k) : stands (s.core k.core) = false := by
  obtain ⟨v, hv⟩ := popTurn_portChoice h
  simpa using (List.mem_filter.1 (portChoice_mem hv)).2

theorem popTurn_of_all_stand {s : State} (h : ∀ k ∈ s.ready, stands (s.core k.core) = true) (v : Bool) :
    popTurn s v = none := by
  unfold popTurn
  rw [portChoice_of_all_stand h v]

theorem dueFrom_of_all_stand {s : State} {l : List Turn} (h : ∀ t ∈ l, turnStands s t = true) : dueFrom s l = none := by
  induction l with
  | nil => rfl
  | cons t l ih =>
    obtain ⟨ht, hl⟩ := List.forall_mem_cons.1 h
    simp [dueFrom, ht, ih hl]

/-- The oldest turn due whose clock runs; those that stand before it keep their order. -/
theorem dueFrom_first {s : State} {still rest : List Turn} {t : Turn} (h : ∀ t ∈ still, turnStands s t = true)
    (ht : turnStands s t = false) : dueFrom s (still ++ t :: rest) = some (t, still ++ rest) := by
  induction still with
  | nil => simp [dueFrom, ht]
  | cons a l ih =>
    obtain ⟨ha, hl⟩ := List.forall_mem_cons.1 h
    simp [dueFrom, ha, ih hl]

theorem nextTurn_strand {s : State} {k : StrandId} (hk : popTurn s (s.steps / 2 % 2 == 0) = some k)
    (hs : s.steps % 2 = 1 ∨ ∀ t ∈ s.agenda, turnStands s t = true) : nextTurn s = some (.strand k, s) := by
  unfold nextTurn
  obtain ho | ha := hs
  · simp [ho, hk]
  · simp [dueFrom_of_all_stand ha, hk]

theorem nextTurn_event {s : State} {t : Turn} {still rest : List Turn} (ha : s.agenda = still ++ t :: rest)
    (hb : ∀ t ∈ still, turnStands s t = true) (ht : turnStands s t = false)
    (hs : s.steps % 2 = 0 ∨ ∀ k ∈ s.ready, stands (s.core k.core) = true) :
    nextTurn s = some (t, { s with agenda := still ++ rest }) := by
  unfold nextTurn
  rw [ha, dueFrom_first hb ht]
  obtain he | hr := hs
  · simp [he]
  · simp [popTurn_of_all_stand hr]

/-! ## The step (06 R143; 10 R231) -/

theorem todo_of_turn {s u : State} {t : Turn} (h : s.package.shutdown = false) (ht : nextTurn s = some (t, u)) :
    todo s = takeTurn t (tick u) := by
  simp [todo, h, ht]

section
variable {k : StrandId} {s t : State} {i : Instr}

/-- A strand that may issue, with nothing in hand and nothing pending, issues the instruction that is fetched. -/
theorem plan_issues (hc : (s.strand k).canIssue = true) (hv : (s.strand k).view = none) (hp : (s.strand k).pending = [])
    (hs : stands (s.core k.core) = false) (hf : (fetchInstr k (s.strand k).here).gives s i t) :
    plan k s = (.issue i, t) := by
  have hr : (fetchInstr k (s.strand k).here).run s = (.ok i, t) := hf
  simp [plan, hc, hv, hp, hs, hr, heldBy]

theorem strandTodo_of_issue (h : plan k s = (.issue i, t)) : strandTodo k s = .perform i { t with cur := k } := by
  unfold strandTodo
  rw [h]

theorem step_of_todo (h : todo s = .perform i t) : step s = exec i t := by
  unfold step
  rw [h]

/-- The step of a strand that has its turn and may issue is exec of the instruction that is fetched for it. -/
theorem step_of_fetch (h : s.package.shutdown = false) (hk : popTurn s (s.steps / 2 % 2 == 0) = some k)
    (hs : s.steps % 2 = 1 ∨ ∀ t ∈ s.agenda, turnStands s t = true) (hc : (s.strand k).canIssue = true)
    (hv : (s.strand k).view = none) (hp : (s.strand k).pending = [])
    (hf : (fetchInstr k (s.strand k).here).gives (tick s) i t) : step s = exec i { t with cur := k } := by
  rw [← tick_strand s k] at hc hv hp hf
  have hr : stands ((tick s).core k.core) = false := by
    rw [tick_core]
    exact popTurn_runs hk
  exact step_of_todo ((todo_of_turn h (nextTurn_strand hk hs)).trans (strandTodo_of_issue (plan_issues hc hv hp hr hf)))
end

/-- Settles O1: the strand's step by what is fetched and what that decodes to, the event's by the agenda. -/
theorem stepRunsDecoded : Obligations.StepRunsDecoded := by
  intro s h
  refine ⟨fun k lo hi t u hk hs => ?_, fun i a still rest ha hb hi hs =>
    step_of_todo (todo_of_turn h (nextTurn_event ha hb hi hs))⟩
  intro x hc hv hp hl hlt
  have runs {v : State} {j : Instr} (hf : (fetchInstr k x.here).gives (tick s) j v) : step s = exec j { v with cur := k } :=
    step_of_fetch h hk hs hc hv hp hf
  refine ⟨fun i hd => ?_, fun he e hd => ?_, fun ho hh hht => ⟨fun i hd => ?_, fun e hd => ?_⟩⟩
  · obtain he | ho := Nat.mod_two_eq_zero_or_one lo
    · rw [← instrOf_of_decode_ok (wholeInstr_parcel hlt he) hd]
      exact runs (fetchInstr_parcel hl hlt he)
    · rw [decode_leBytes_odd ho] at hd
      cases hd
  · rw [← instrOf_of_decode_error (wholeInstr_parcel hlt he) hd]
    exact runs (fetchInstr_parcel hl hlt he)
  · rw [← instrOf_of_decode_ok (wholeInstr_word hlt hht ho) hd]
    exact runs (fetchInstr_word hl hlt ho hh hht)
  · rw [← instrOf_of_decode_error (wholeInstr_word hlt hht ho) hd]
    exact runs (fetchInstr_word hl hlt ho hh hht)

end Sys2Proof.Machine
end

section
/-!
PROOFS. PacketLaws.lean: packets at their cores, their answers, and the handlers that they start (O57).
-/
namespace Sys2Proof.Machine

/-! ## The arms of the packets' events -/

theorem exec_packetArrival (s : State) : exec .packetArrival s = .next (packetArrives s.arg.id s) := rfl
theorem exec_packetReply (s : State) : exec .packetReply s = .next (packetAnswered s.arg.id s) := rfl
theorem exec_packetRetry (s : State) : exec .packetRetry s = .next (packetAgain s.arg.id s) := rfl
theorem exec_reservationExpire (s : State) :
    exec .reservationExpire s = .next (expireReservations s.arg.core s) := rfl
theorem exec_handlerStart (s : State) : exec .handlerStart s = .next (startHandler s.arg.core s) := rfl

/-! ## Arrivals (06 R150, R151) -/

/-- Where a packet of a bound tag and of its domain comes to a core that is there, room alone decides. -/
theorem decidePacket_bound {x : Core} {p : Packet} {b : Binding} (hg : x.gone = false) (hs : x.isSealed = false)
    (hb : bindingOf x p.pair.2 = some b) (hd : p.domain = b.domain ∨ p.trusted = true) (hq : x.status ≠ .quiet) :
    decidePacket x p = if roomFor x b p then 0 else 1 := by
  have hd' : (p.domain != b.domain && !p.trusted) = false := by
    obtain h | h := hd <;> simp [h]
  simp [decidePacket, hg, hs, hb, hd', hq]

section
variable {s : State} {id : Nat} {c : CoreId} {p : Packet}

theorem packetArrives_core {tag : BitVec 8} (hf : findId Packet.id s.packets id = some p) (ho : p.outstanding = true)
    (hn : p.outcome = none) (hr : route s true p.route = .core c tag) : packetArrives id s = packetAt c p s := by
  simp [packetArrives, hf, ho, hn, hr]

/-- An accepted packet enters the mailbox and leaves the reservation list; who waits on its channel wakes, or its handler is
due; and its answer goes back. -/
theorem packetAt_accepted {b : Binding} (hb : bindingOf (s.core c) p.pair.2 = some b) (hd : decidePacket (s.core c) p = 0) :
    let x := s.core c
    let mine := fun (q : BitVec 32 × BitVec 8 × Nat) => q.1 == p.source && q.2.1 == p.pair.2
    let u := s.setCore c { x with mailbox := x.mailbox ++ [p], reservations := x.reservations.filter fun q => !mine q }
    let v := if b.kind == 2 then wakeAll 0 (c * 8 + b.chan.toNat) (fun _ => true) none u
      else u.post .handlerStart { core := c }
    packetAt c p s = ({ v with packets := putId Packet.id v.packets { p with outcome := some 0 } } : State).post
      .packetReply { id := p.id } := by
  simp only [packetAt, hd, hb, if_true]
  rfl

theorem packetAt_refused (hd : decidePacket (s.core c) p = 1) :
    let x := s.core c
    let u := s.setCore c { x with reservations := listRefused s.deviceTime p x.reservations }
    packetAt c p s = answerPacket p 1 (if x.reservations.isEmpty then u.post .reservationExpire { core := c } else u) := by
  simp only [packetAt, hd, Nat.one_ne_zero, if_false, if_true]

theorem packetAgain_out (hf : findId Packet.id s.packets id = some p) (ho : p.outstanding = true) (hn : p.outcome = none) :
    packetAgain id s = packetOut p s := by
  simp [packetAgain, hf, ho, hn]

/-! ## Answers (06 R154; 14 R324; 05 R134) -/

/-- The machine after an answer has reached its sender: the packet is gone, and its outcome raises the sender's flag. -/
def answered (p : Packet) (o id : Nat) (s : State) : State :=
  let u := { s with packets := dropId Packet.id s.packets id }
  let flag := if o = 2 then Flag.undelivered else if o = 3 then Flag.sealed else 0
  match p.sender with
  | some k => wakeAll 8 k (fun _ => true) none (u.setStrand k { u.strand k with
      sst := (u.strand k).sst ||| BitVec.ofNat 64 flag })
  | none => u

/-- The first packet of the pair of p that still waits goes out (06 R154). -/
def pairGoesOn (p : Packet) (s : State) : State :=
  match s.packets.find? fun q => q.pair == p.pair with
  | some q => packetOut q { s with packets := putId Packet.id s.packets { q with outstanding := true } }
  | none => s

theorem pairGoesOn_none (h : s.packets.find? (fun q => q.pair == p.pair) = none) : pairGoesOn p s = s := by
  unfold pairGoesOn
  rw [h]

theorem pairGoesOn_some {q : Packet} (h : s.packets.find? (fun q => q.pair == p.pair) = some q) :
    pairGoesOn p s = packetOut q { s with packets := putId Packet.id s.packets { q with outstanding := true } } := by
  unfold pairGoesOn
  rw [h]

theorem packetAnswered_goesOn {o : Nat} (hf : findId Packet.id s.packets id = some p) (ho : p.outcome = some o) :
    packetAnswered id s = pairGoesOn p (answered p o id s) := by
  unfold packetAnswered
  rw [hf]
  dsimp only
  rw [ho]
  rfl
end

/-! ## Handlers (06 R152) -/

theorem startHandler_starts {s : State} {c : CoreId} {h : StrandId} {p : Packet} {b : Binding} (hh : freeHelper s c = some h)
    (hn : nextHandler s c h = some (p, b)) (hb : p.bad = []) (ht : traceHeld s c (handlerEntry s (s.core c) b p) = false) :
    let a := if noStrand s c then enterDomain c b.domain s else s
    let x := a.core c
    let u := a.setCore c (Core.freeClosed { x with
      mailbox := x.mailbox.filter fun q => q.id != p.id
      trCounts := if x.trmode == 0 then x.trCounts else countTrace p x.trCounts })
    let v := traced c (handlerEntry s (s.core c) b p) (startStrand h
      { pc := b.entry
        bases := [p.source.setWidth 64, p.time, b.tag.setWidth 64, BitVec.ofNat 64 p.payload.length]
        a := ofStripBytes p.payload
        stime := p.time
        domain := b.domain
        role := .handler b.tag } (acquire c u))
    startHandler c s = if (v.core c).mailbox.isEmpty then v else v.post .handlerStart { core := c } := by
  simp only [startHandler, hh, hn, hb, List.isEmpty_nil, Bool.not_true, Bool.false_eq_true, if_false, ht]

/-- Settles O57: an arrival by what room decides, an answer by whether a packet of its pair waits, the others by their own. -/
theorem packetEvents : Obligations.PacketEvents := by
  intro s
  refine ⟨fun p c tag b hf ho hn hr hg hs hb hd hq => ?_, fun p o hf ho => ?_,
    fun p hf ho hn => exec_eq (exec_packetRetry s) (packetAgain_out hf ho hn), exec_reservationExpire s,
    fun h p b hh hn hb ht => exec_eq (exec_handlerStart s) (startHandler_starts hh hn hb ht)⟩
  · have hx : exec .packetArrival s = .next (packetAt c p s) := exec_eq (exec_packetArrival s) (packetArrives_core hf ho hn hr)
    have hd := decidePacket_bound hg hs hb hd hq
    exact ⟨fun hm => exec_eq hx (packetAt_accepted hb (hd.trans (if_pos hm))),
      fun hm => exec_eq hx (packetAt_refused (hd.trans (if_neg (by simp [hm]))))⟩
  · have hx : exec .packetReply s = .next (pairGoesOn p (answered p o s.arg.id s)) :=
      exec_eq (exec_packetReply s) (packetAnswered_goesOn hf ho)
    exact ⟨fun hn => exec_eq hx (pairGoesOn_none hn), fun q hq => exec_eq hx (pairGoesOn_some hq)⟩

end Sys2Proof.Machine
end

section
/-!
PROOFS. EncodingLaws.lean: an encoding is its opcode with the operands in the bits that the opcode leaves free; each is
read back where it was put (10 R223–R229; O4, O3).
-/
namespace Sys2Proof

/-! ## A value put into free bits -/

section
variable {x v lo n a b : Nat} (hx : x / 2 ^ lo % 2 ^ n = 0) (hv : v < 2 ^ n)
include hx hv

theorem bits_put_same : (x + v * 2 ^ lo) / 2 ^ lo % 2 ^ n = v := by
  rw [Nat.add_mul_div_right _ _ (Nat.two_pow_pos lo), Nat.add_mod, hx, Nat.zero_add, Nat.mod_mod, Nat.mod_eq_of_lt hv]

/-- What stands above the bits is as before. -/
theorem div_put_above (h : lo + n ≤ a) : (x + v * 2 ^ lo) / 2 ^ a = x / 2 ^ a := by
  obtain ⟨y, hy⟩ := Nat.dvd_of_mod_eq_zero hx
  obtain ⟨c, rfl⟩ := Nat.exists_eq_add_of_le h
  simp only [Nat.pow_add, ← Nat.div_div_eq_div_mul]
  rw [Nat.add_mul_div_right _ _ (Nat.two_pow_pos lo), hy, Nat.mul_add_div (Nat.two_pow_pos n), Nat.div_eq_of_lt hv,
    Nat.add_zero, Nat.mul_div_cancel_left _ (Nat.two_pow_pos n)]

theorem bits_put_apart (h : lo + n ≤ a ∨ a + b ≤ lo) : (x + v * 2 ^ lo) / 2 ^ a % 2 ^ b = x / 2 ^ a % 2 ^ b := by
  obtain h | h := h
  · rw [div_put_above hx hv h]
  · obtain ⟨c, rfl⟩ := Nat.exists_eq_add_of_le h
    rw [show v * 2 ^ (a + b + c) = v * 2 ^ c * 2 ^ b * 2 ^ a by ring, Nat.add_mul_div_right _ _ (Nat.two_pow_pos a),
      Nat.add_mul_mod_self_right]

theorem put_lt (h : lo + n ≤ a) (hlt : x < 2 ^ a) : x + v * 2 ^ lo < 2 ^ a :=
  (Nat.div_eq_zero_iff_lt (Nat.two_pow_pos a)).mp ((div_put_above hx hv h).trans (Nat.div_eq_of_lt hlt))
end

/-! ## Operands in their places -/

/-- The bit that a flag is read from. -/
theorem bit_flag (w lo : Nat) : bit (flag w lo) = w / 2 ^ lo % 2 := by
  unfold flag bit
  obtain h | h := Nat.mod_two_eq_zero_or_one (w / 2 ^ lo) <;> simp [h]

/-- An operand of an encoding, with the lowest bit of its place. -/
inductive Operand where
  | bits {n : Nat} (x : BitVec n) (lo : Nat)
  | flag (b : Bool) (lo : Nat)
  /-- the guard, format and operand fields of format V -/
  | lane (o : LaneOps)

namespace Operand

/-- Where an operand stands: its lowest bit and its width. -/
def place : Operand → Nat × Nat
  | .bits (n := n) _ lo => (lo, n)
  | .flag _ lo => (lo, 1)
  | .lane _ => (7, 14)
/-- The operand as the encoder adds it. -/
def value : Operand → Nat
  | .bits x lo => put x lo
  | .flag b lo => putB b lo
  | .lane o => encLane o
/-- The decoder reads the operand from a word; where an instruction needs bits of it to be zero, it looks at these bits. -/
def ReadFrom (w : Nat) : Operand → Prop
  | .bits (n := n) x lo => field w lo n = x ∧ w / 2 ^ lo % 2 ^ n = x.toNat
  | .flag b lo => Sys2Proof.flag w lo = b
  | .lane o => laneOps w = o ∧ w / 2 ^ 10 % 2 ^ 1 = bit o.ia

/-- The bits of an operand are a number of its width, in its place. -/
theorem value_eq (f : Operand) : ∃ v < 2 ^ f.place.2, f.value = v * 2 ^ f.place.1 := by
  cases f with
  | bits x lo => exact ⟨x.toNat, x.isLt, rfl⟩
  | flag b lo => exact ⟨bit b, bit_lt b, rfl⟩
  | lane o =>
    obtain ⟨h0, hlt⟩ := encLane_fits o
    exact ⟨encLane o / 2 ^ 7, by simp only [place]; omega, by simp only [value, place]; omega⟩

theorem readFrom_of_bits {w : Nat} {f : Operand} (h : w / 2 ^ f.place.1 % 2 ^ f.place.2 = f.value / 2 ^ f.place.1) :
    f.ReadFrom w := by
  cases f with
  | bits x lo =>
    have hx := h.trans (Nat.mul_div_cancel _ (Nat.two_pow_pos lo))
    exact ⟨field_eq x w lo hx, hx⟩
  | flag b lo => exact flag_eq b w lo (h.trans (Nat.mul_div_cancel _ (Nat.two_pow_pos lo)))
  | lane o =>
    have ho := laneOps_eq o w h
    exact ⟨ho, (bit_flag w 10).symm.trans (congrArg (fun p => bit p.ia) ho)⟩

end Operand

/-- The operands of an encoding added up, the last first. -/
def operandSum : List Operand → Nat
  | [] => 0
  | [f] => f.value
  | f :: g :: fs => operandSum (g :: fs) + f.value

theorem operandSum_cons (f : Operand) (fs : List Operand) : operandSum (f :: fs) = operandSum fs + f.value := by
  cases fs with
  | nil => exact (Nat.zero_add _).symm
  | cons g fs => rfl

/-- A place lies outside bits [a + b − 1 : a]. -/
def apart (a b : Nat) (p : Nat × Nat) : Bool := p.1 + p.2 ≤ a || a + b ≤ p.1
/-- The places are free bits of a word, each apart from the others. (As shifts, which decide evaluates on numerals.) -/
def fits (x : Nat) : List (Nat × Nat) → Bool
  | [] => true
  | p :: ps => x >>> p.1 % 1 <<< p.2 == 0 && ps.all (apart p.1 p.2) && fits x ps

theorem apart_iff {a b : Nat} {p : Nat × Nat} : apart a b p = true ↔ p.1 + p.2 ≤ a ∨ a + b ≤ p.1 := by
  simp [apart]
theorem apart_comm {p q : Nat × Nat} (h : apart p.1 p.2 q = true) : apart q.1 q.2 p = true :=
  apart_iff.mpr (apart_iff.mp h).symm

theorem fits_cons {x : Nat} {p : Nat × Nat} {ps : List (Nat × Nat)} : fits x (p :: ps) = true ↔
    x / 2 ^ p.1 % 2 ^ p.2 = 0 ∧ ps.all (apart p.1 p.2) = true ∧ fits x ps = true := by
  simp only [fits, Bool.and_eq_true, beq_iff_eq, and_assoc, Nat.shiftRight_eq_div_pow, Nat.one_shiftLeft]

section
variable {x a b : Nat} {fs : List Operand} (h : fits x (fs.map Operand.place) = true)
include h

/-- Bits in which no operand stands are the opcode's. -/
theorem bits_add_operandSum (ha : (fs.map Operand.place).all (apart a b) = true) :
    (x + operandSum fs) / 2 ^ a % 2 ^ b = x / 2 ^ a % 2 ^ b := by
  induction fs generalizing a b with
  | nil => rfl
  | cons f fs ih =>
    obtain ⟨hf, hfs, hx⟩ := fits_cons.mp h
    obtain ⟨haf, hafs⟩ := Bool.and_eq_true_iff.mp ha
    obtain ⟨v, hv, he⟩ := f.value_eq
    rw [operandSum_cons, ← Nat.add_assoc, he, bits_put_apart ((ih hx hfs).trans hf) hv (apart_iff.mp haf), ih hx hafs]

/-- Each operand stands in its place. -/
theorem operandBits_add_operandSum :
    ∀ f ∈ fs, (x + operandSum fs) / 2 ^ f.place.1 % 2 ^ f.place.2 = f.value / 2 ^ f.place.1 := by
  induction fs with
  | nil => exact nofun
  | cons f fs ih =>
    obtain ⟨hf, hfs, hx⟩ := fits_cons.mp h
    obtain ⟨v, hv, he⟩ := f.value_eq
    have hfree := (bits_add_operandSum hx hfs).trans hf
    rw [operandSum_cons, ← Nat.add_assoc, he]
    refine List.forall_mem_cons.mpr ⟨?_, fun g hg => ?_⟩
    · rw [bits_put_same hfree hv, he, Nat.mul_div_cancel _ (Nat.two_pow_pos _)]
    · have hg' := apart_comm (List.all_eq_true.mp hfs _ (List.mem_map_of_mem hg))
      rw [bits_put_apart hfree hv (apart_iff.mp hg'), ih hx g hg]

/-- An encoding is no longer than its opcode and its operands. -/
theorem add_operandSum_lt (hl : (fs.map Operand.place).all (fun p => p.1 + p.2 ≤ a) = true) (hx : x < 2 ^ a) :
    x + operandSum fs < 2 ^ a := by
  induction fs with
  | nil => exact hx
  | cons f fs ih =>
    obtain ⟨hf, hfs, hx'⟩ := fits_cons.mp h
    obtain ⟨hlf, hlfs⟩ := Bool.and_eq_true_iff.mp hl
    obtain ⟨v, hv, he⟩ := f.value_eq
    rw [operandSum_cons, ← Nat.add_assoc, he]
    exact put_lt ((bits_add_operandSum hx' hfs).trans hf) hv (of_decide_eq_true hlf) (ih hx' hlfs)
end

/-- A word holds an opcode and operands: each operand is read from its place, and outside their places stands the opcode. -/
structure Holds (w op : Nat) (fs : List Operand) : Prop where
  opcodeBits : ∀ a b, (fs.map Operand.place).all (apart a b) = true → w / 2 ^ a % 2 ^ b = op / 2 ^ a % 2 ^ b
  operands : ∀ f ∈ fs, f.ReadFrom w

/-- An encoding of hi bits: the opcode leaves the places of the operands free, and they lie in bits [hi − 1 : lo]. -/
def fitsIn (lo hi op : Nat) (ps : List (Nat × Nat)) : Bool :=
  op >>> hi == 0 && fits op ps && ps.all fun p => lo ≤ p.1 && p.1 + p.2 ≤ hi

theorem fitsIn_iff {lo hi op : Nat} {ps : List (Nat × Nat)} : fitsIn lo hi op ps = true ↔
    op < 2 ^ hi ∧ fits op ps = true ∧ ∀ p ∈ ps, lo ≤ p.1 ∧ p.1 + p.2 ≤ hi := by
  simp only [fitsIn, Bool.and_eq_true, beq_iff_eq, and_assoc, List.all_eq_true, decide_eq_true_eq,
    Nat.shiftRight_eq_div_pow, Nat.div_eq_zero_iff_lt (Nat.two_pow_pos hi)]

section
variable {lo hi op : Nat} {fs : List Operand} (h : fitsIn lo hi op (fs.map Operand.place) = true)
include h

theorem holds_add_operandSum : Holds (op + operandSum fs) op fs := by
  obtain ⟨_, hf, _⟩ := fitsIn_iff.mp h
  exact ⟨fun a b => bits_add_operandSum hf, fun f hm => f.readFrom_of_bits (operandBits_add_operandSum hf f hm)⟩

theorem add_operandSum_lt_of_fitsIn : op + operandSum fs < 2 ^ hi := by
  obtain ⟨hop, hf, hp⟩ := fitsIn_iff.mp h
  exact add_operandSum_lt hf (List.all_eq_true.mpr fun p hm => decide_eq_true (hp p hm).2) hop

/-- The operands leave the lowest bits, by which parcels and words are told apart, to the opcode. -/
theorem mod_two_add_operandSum (hlo : 0 < lo) : (op + operandSum fs) % 2 = op % 2 := by
  obtain ⟨_, hf, hp⟩ := fitsIn_iff.mp h
  have hb := bits_add_operandSum (a := 0) (b := 1) hf
    (List.all_eq_true.mpr fun p hm => apart_iff.mpr (.inr (by have := (hp p hm).1; omega)))
  simpa only [Nat.pow_zero, Nat.div_one, Nat.pow_one] using hb
end

/-! ## Encodings as sums -/

section
variable {i : Instr} (hH : operandsH i = 0)
include hH

theorem encodeNat_lane (hM : operandsMem i = 0) (hP : operandsPtr i = 0) (hS : operandsSys i = 0) :
    encodeNat i = opcode i + operandsLane i := by
  simp only [encodeNat, hH, hM, hP, hS, Nat.add_zero]
theorem encodeNat_mem (hL : operandsLane i = 0) (hP : operandsPtr i = 0) (hS : operandsSys i = 0) :
    encodeNat i = opcode i + operandsMem i := by
  simp only [encodeNat, hH, hL, hP, hS, Nat.add_zero]
theorem encodeNat_ptr (hL : operandsLane i = 0) (hM : operandsMem i = 0) (hS : operandsSys i = 0) :
    encodeNat i = opcode i + operandsPtr i := by
  simp only [encodeNat, hH, hL, hM, hS, Nat.add_zero]
theorem encodeNat_sys (hL : operandsLane i = 0) (hM : operandsMem i = 0) (hP : operandsPtr i = 0) :
    encodeNat i = opcode i + operandsSys i := by
  simp only [encodeNat, hH, hL, hM, hP, Nat.add_zero]
end

/-! ## The rows of the decoder -/

section
variable {w : Nat}
theorem decodeMajor_vari (h : w / 2 % 64 = 1) : decodeMajor w = decodeVari w := by delta decodeMajor; rw [h]; rfl
theorem decodeMajor_vbit (h : w / 2 % 64 = 2) : decodeMajor w = decodeVbit w := by delta decodeMajor; rw [h]; rfl
theorem decodeMajor_vcmp (h : w / 2 % 64 = 3) : decodeMajor w = decodeVcmp w := by delta decodeMajor; rw [h]; rfl
theorem decodeMajor_vcvt (h : w / 2 % 64 = 4) : decodeMajor w = decodeVcvt w := by delta decodeMajor; rw [h]; rfl
theorem decodeMajor_vperm (h : w / 2 % 64 = 5) : decodeMajor w = decodeVperm w := by delta decodeMajor; rw [h]; rfl
theorem decodeMajor_vred (h : w / 2 % 64 = 6) : decodeMajor w = decodeVred w := by delta decodeMajor; rw [h]; rfl
theorem decodeMajor_vfun (h : w / 2 % 64 = 7) : decodeMajor w = decodeVfun w := by delta decodeMajor; rw [h]; rfl
theorem decodeMajor_lda (h : w / 2 % 64 = 8) : decodeMajor w = decodeLda w := by delta decodeMajor; rw [h]; rfl
theorem decodeMajor_sta (h : w / 2 % 64 = 9) : decodeMajor w = decodeSta w := by delta decodeMajor; rw [h]; rfl
theorem decodeMajor_gath (h : w / 2 % 64 = 10) : decodeMajor w = decodeGath w := by delta decodeMajor; rw [h]; rfl
theorem decodeMajor_line (h : w / 2 % 64 = 11) : decodeMajor w = decodeLine w := by delta decodeMajor; rw [h]; rfl
theorem decodeMajor_ship (h : w / 2 % 64 = 12) : decodeMajor w = decodeShip w := by delta decodeMajor; rw [h]; rfl
theorem decodeMajor_tick (h : w / 2 % 64 = 13) : decodeMajor w = decodeTick w := by delta decodeMajor; rw [h]; rfl
theorem decodeMajor_lawo (h : w / 2 % 64 = 14) : decodeMajor w = decodeLawo w := by delta decodeMajor; rw [h]; rfl
theorem decodeMajor_patn (h : w / 2 % 64 = 15) : decodeMajor w = decodePatn w := by delta decodeMajor; rw [h]; rfl
theorem decodeMajor_cach (h : w / 2 % 64 = 16) : decodeMajor w = decodeCach w := by delta decodeMajor; rw [h]; rfl
theorem decodeMajor_dram (h : w / 2 % 64 = 17) : decodeMajor w = decodeDram w := by delta decodeMajor; rw [h]; rfl
theorem decodeMajor_fenc (h : w / 2 % 64 = 18) : decodeMajor w = decodeFenc w := by delta decodeMajor; rw [h]; rfl
theorem decodeMajor_pset (h : w / 2 % 64 = 19) : decodeMajor w = decodePset w := by delta decodeMajor; rw [h]; rfl
theorem decodeMajor_padd (h : w / 2 % 64 = 20) : decodeMajor w = decodePadd w := by delta decodeMajor; rw [h]; rfl
theorem decodeMajor_pmov (h : w / 2 % 64 = 21) : decodeMajor w = decodePmov w := by delta decodeMajor; rw [h]; rfl
theorem decodeMajor_aimm (h : w / 2 % 64 = 22) : decodeMajor w = decodeAimm w := by delta decodeMajor; rw [h]; rfl
theorem decodeMajor_kops (h : w / 2 % 64 = 23) : decodeMajor w = decodeKops w := by delta decodeMajor; rw [h]; rfl
theorem decodeMajor_br (h : w / 2 % 64 = 24) : decodeMajor w = decodeBr w := by delta decodeMajor; rw [h]; rfl
theorem decodeMajor_jump (h : w / 2 % 64 = 25) : decodeMajor w = decodeJump w := by delta decodeMajor; rw [h]; rfl
theorem decodeMajor_strn (h : w / 2 % 64 = 26) : decodeMajor w = decodeStrn w := by delta decodeMajor; rw [h]; rfl
theorem decodeMajor_sync (h : w / 2 % 64 = 27) : decodeMajor w = decodeSync w := by delta decodeMajor; rw [h]; rfl
theorem decodeMajor_ring (h : w / 2 % 64 = 28) : decodeMajor w = decodeRing w := by delta decodeMajor; rw [h]; rfl
theorem decodeMajor_msg (h : w / 2 % 64 = 29) : decodeMajor w = decodeMsg w := by delta decodeMajor; rw [h]; rfl
theorem decodeMajor_copy (h : w / 2 % 64 = 30) : decodeMajor w = decodeCopy w := by delta decodeMajor; rw [h]; rfl
theorem decodeMajor_mtrx (h : w / 2 % 64 = 31) : decodeMajor w = decodeMtrx w := by delta decodeMajor; rw [h]; rfl
theorem decodeMajor_rand (h : w / 2 % 64 = 32) : decodeMajor w = decodeRand w := by delta decodeMajor; rw [h]; rfl
theorem decodeMajor_time (h : w / 2 % 64 = 33) : decodeMajor w = decodeTime w := by delta decodeMajor; rw [h]; rfl
theorem decodeMajor_csr (h : w / 2 % 64 = 34) : decodeMajor w = decodeCsr w := by delta decodeMajor; rw [h]; rfl
theorem decodeMajor_trap (h : w / 2 % 64 = 35) : decodeMajor w = decodeTrap w := by delta decodeMajor; rw [h]; rfl
theorem decodeMajor_prot (h : w / 2 % 64 = 36) : decodeMajor w = decodeProt w := by delta decodeMajor; rw [h]; rfl
theorem decodeMajor_ctxs (h : w / 2 % 64 = 37) : decodeMajor w = decodeCtxs w := by delta decodeMajor; rw [h]; rfl
theorem decodeMajor_nops (h : w / 2 % 64 = 38) : decodeMajor w = decodeNops w := by delta decodeMajor; rw [h]; rfl
end

/-! ## Words -/

/-- The encoding of an instruction is a word whose major gives the instruction. -/
def Decodes (i : Instr) : Prop := encodeNat i % 2 = 1 ∧ encodeNat i < 2 ^ 32 ∧ decodeMajor (encodeNat i) = some i

/-- An instruction with these operands decodes, where its row of the decoder gives it for every word that holds them. For
an instruction given by its constructor, the opcode is a number, and the last argument looks at the row: its major, the
bits that its row compares, and its operands are all known. -/
theorem decodes_of_operands {i : Instr} {op : Nat} (fs : List Operand) (he : encodeNat i = opcode i + operandSum fs)
    (ho : opcode i = op := by
      unfold opcode
      dsimp only)
    (hodd : op % 2 = 1 := by decide)
    (hf : fitsIn 7 32 op (fs.map Operand.place) = true := by
      dsimp only [List.map, Operand.place]
      decide)
    (hd : ∀ w, Holds w op fs → decodeMajor w = some i := by
      intro w hw
      obtain ⟨hc, hr⟩ := hw
      dsimp only [List.map, Operand.place] at hc
      have hm := hc 1 6 rfl
      dsimp only [Nat.reducePow, Nat.reduceDiv, Nat.reduceMod] at hm
      simp only [List.forall_mem_cons, Operand.ReadFrom, List.not_mem_nil, false_imp_iff, implies_true, and_true] at hr
      simp (disch := exact hm) only [decodeMajor_vari, decodeMajor_vbit, decodeMajor_vcmp, decodeMajor_vcvt,
        decodeMajor_vperm, decodeMajor_vred, decodeMajor_vfun, decodeMajor_lda, decodeMajor_sta, decodeMajor_gath,
        decodeMajor_line, decodeMajor_ship, decodeMajor_tick, decodeMajor_lawo, decodeMajor_patn, decodeMajor_cach,
        decodeMajor_dram, decodeMajor_fenc, decodeMajor_pset, decodeMajor_padd, decodeMajor_pmov, decodeMajor_aimm,
        decodeMajor_kops, decodeMajor_br, decodeMajor_jump, decodeMajor_strn, decodeMajor_sync, decodeMajor_ring,
        decodeMajor_msg, decodeMajor_copy, decodeMajor_mtrx, decodeMajor_rand, decodeMajor_time, decodeMajor_csr,
        decodeMajor_trap, decodeMajor_prot, decodeMajor_ctxs, decodeMajor_nops]
      simp (disch := decide) only [decodeVari, decodeVbit, decodeVcmp, decodeVcvt, decodeVperm, decodeVred, decodeVfun,
        decodeLda, decodeSta, decodeGath, decodeLine, decodeShip, decodeTick, decodeLawo, decodePatn, decodeCach,
        decodeDram, decodeFenc, decodePset, decodePadd, decodePmov, decodeAimm, decodeKops, decodeBr, decodeJump,
        decodeStrn, decodeSync, decodeRing, decodeMsg, decodeCopy, decodeMtrx, decodeRand, decodeTime, decodeCsr,
        decodeTrap, decodeProt, decodeCtxs, decodeNops, memOps, ↓hc, ↓hr, Nat.reducePow, Nat.reduceDiv, Nat.reduceMod,
        and_self, if_true, ↓reduceIte, Nat.reduceEqDiff, BitVec.ofNat_eq_ofNat, BitVec.toNat_ofNat, bit,
        Bool.false_eq_true]) :
    Decodes i := by
  have hw : encodeNat i = op + operandSum fs := he.trans (congrArg (· + operandSum fs) ho)
  unfold Decodes
  rw [hw]
  exact ⟨(mod_two_add_operandSum hf (by decide)).trans hodd, add_operandSum_lt_of_fitsIn hf,
    hd _ (holds_add_operandSum hf)⟩

/-- Majors 1–7. -/
theorem decodes_lane (i : Instr) (hwf : i.wf = true) (hl : (Machine.laneMajor i && !(i.len == 2)) = true) : Decodes i := by
  cases i
  case variAdd sat rm o | variSub sat rm o | variRsub sat rm o | variMul sat rm o | variFma sat rm o | variFms sat rm o
      | variFmal sat rm o | variMin sat rm o | variMax sat rm o | variDiv sat rm o | variSqrt sat rm o |
      variAbs sat rm o | variNeg sat rm o | variMov sat rm o | variMulh sat rm o | variCpysgn sat rm o |
      vcvtTi64 sat rm o | vcvtTi32 sat rm o | vcvtTi16 sat rm o | vcvtTi8 sat rm o | vcvtTf64 sat rm o |
      vcvtTf32 sat rm o | vcvtTbf16 sat rm o | vcvtTf16 sat rm o | vcvtTe4m3 sat rm o | vcvtTe5m2 sat rm o |
      vcvtTe2m1 sat rm o | vredSum sat rm o | vredAcc sat rm o | vredDot sat rm o =>
    exact decodes_of_operands [.lane o, .bits rm 21, .flag sat 23] (encodeNat_lane rfl rfl rfl rfl)
  case vbitAnd o | vbitOr o | vbitXor o | vbitAndn o | vbitShl o | vbitShr o | vbitShra o | vbitRol o | vbitNot o |
      vbitPopc o | vbitClz o | vcvtFe4m3 o | vcvtFe5m2 o | vcvtFe2m1 o | vpermBcast o | vpermPerm o | vpermSldn o |
      vpermSlup o | vpermZiplo o | vpermZiphi o | vpermUnzev o | vpermUnzod o | vpermCompr o | vpermExpnd o | vpermRev o
      | vpermIota o | vredMin o | vredMax o | vredAnd o | vredOr o | vredXor o =>
    exact decodes_of_operands [.lane o] (encodeNat_lane rfl rfl rfl rfl)
  case vcmpEq kd o | vcmpNe kd o | vcmpLt kd o | vcmpLe kd o | vcmpGt kd o | vcmpGe kd o | vcmpUn kd o | vcmpLtu kd o |
      vcmpLeu kd o | vcmpGtu kd o | vcmpGeu kd o =>
    exact decodes_of_operands [.lane o, .bits kd 28] (encodeNat_lane rfl rfl rfl rfl)
  case vfunExp2 rm o | vfunLog2 rm o | vfunSint rm o | vfunCost rm o | vfunTanh rm o | vfunRecip rm o |
      vfunRsqrt rm o =>
    exact decodes_of_operands [.lane o, .bits rm 21] (encodeNat_lane rfl rfl rfl rfl)
  case vcvtTsk sat rm o =>
    obtain ⟨_, hia⟩ := Bool.and_eq_true_iff.mp hwf
    have ho : o.ia = false := by simpa using hia
    obtain ⟨k, fmt, cb, ib, pb, ia, pa⟩ := o
    obtain rfl : ia = false := ho
    exact decodes_of_operands [.lane ⟨k, fmt, cb, ib, pb, false, pa⟩, .bits rm 21, .flag sat 23]
      (encodeNat_lane rfl rfl rfl rfl)
  all_goals cases hl

/-- Majors 8–38. -/
theorem decodes_rest (i : Instr) (hwf : i.wf = true) (hl : (!Machine.laneMajor i && Machine.hasEncoding i) = true) :
    Decodes i := by
  cases i
  case randRaw la k inc p | randUnif la k inc p =>
    exact decodes_of_operands [.bits p 7, .flag inc 10, .bits k 19, .bits la 28] (encodeNat_sys rfl rfl rfl rfl)
  case lda o | ldaBc o | ldaZx o | sta o =>
    exact decodes_of_operands
      [.bits o.p 7, .flag o.ip 10, .bits o.sz 11, .bits o.ord 14, .bits o.fmt 16, .bits o.k 19, .bits o.la 28]
      (encodeNat_mem rfl rfl rfl rfl)
  case lineMove la n sz s q d p =>
    exact decodes_of_operands [.bits p 7, .flag d 10, .bits q 11, .flag s 14, .bits sz 15, .bits n 22, .bits la 28]
      (encodeNat_mem rfl rfl rfl rfl)
  case lineFill la n sz d p =>
    exact decodes_of_operands [.bits p 7, .flag d 10, .bits sz 15, .bits n 22, .bits la 28] (encodeNat_mem rfl rfl rfl rfl)
  case ship la ord rm n p =>
    exact decodes_of_operands [.bits p 7, .bits n 16, .bits rm 24, .bits ord 26, .bits la 28]
      (encodeNat_mem rfl rfl rfl rfl)
  case tickLd la j sz p =>
    exact decodes_of_operands [.bits p 7, .bits sz 16, .bits j 24, .bits la 28] (encodeNat_mem rfl rfl rfl rfl)
  case tickRd la j p =>
    exact decodes_of_operands [.bits p 7, .bits j 24, .bits la 28] (encodeNat_mem rfl rfl rfl rfl)
  case tickDrop la j | tickQ la j =>
    exact decodes_of_operands [.bits j 24, .bits la 28] (encodeNat_mem rfl rfl rfl rfl)
  case lawoRd la inc p | lawoAdd la inc p | lawoSet la inc p | lawoSwap la inc p | lawoLaw la inc p |
      lawoChk la inc p =>
    exact decodes_of_operands [.bits p 7, .flag inc 10, .bits la 28] (encodeNat_mem rfl rfl rfl rfl)
  case patnSet la w p | patnGet la w p =>
    exact decodes_of_operands [.bits p 7, .bits w 16, .bits la 28] (encodeNat_mem rfl rfl rfl rfl)
  case patnClr la w =>
    exact decodes_of_operands [.bits w 16, .bits la 28] (encodeNat_mem rfl rfl rfl rfl)
  case cachPf2 la n p =>
    exact decodes_of_operands [.bits p 7, .flag n 16, .bits la 28] (encodeNat_mem rfl rfl rfl rfl)
  case cachFlush la p | cachInv la p | dramPromote la p | dramPin la p | dramUnpin la p | dramDemote la p =>
    exact decodes_of_operands [.bits p 7, .bits la 28] (encodeNat_mem rfl rfl rfl rfl)
  case cachSinv la | cachFlushall la =>
    exact decodes_of_operands [.bits la 28] (encodeNat_mem rfl rfl rfl rfl)
  case fenc y x sz =>
    exact decodes_of_operands [.bits sz 7, .bits x 16, .bits y 23] (encodeNat_mem rfl rfl rfl rfl)
  case pset n s fld p =>
    exact decodes_of_operands [.bits p 7, .bits fld 10, .bits s 12, .bits n 14] (encodeNat_ptr rfl rfl rfl rfl)
  case paddImm n fld p | paddSh12 n fld p =>
    exact decodes_of_operands [.bits p 7, .bits fld 10, .bits n 14] (encodeNat_ptr rfl rfl rfl rfl)
  case paddStep n p =>
    exact decodes_of_operands [.bits p 7, .bits n 14] (encodeNat_ptr rfl rfl rfl rfl)
  case pmovMov la s d | pmovToa la s d | pmovFroma la s d =>
    exact decodes_of_operands [.bits d 7, .bits s 16, .bits la 28] (encodeNat_ptr rfl rfl rfl rfl)
  case pmovGsv la c n m q | pmovGld la c n m q =>
    exact decodes_of_operands [.bits q 7, .bits m 16, .bits n 19, .flag c 22, .bits la 28] (encodeNat_ptr rfl rfl rfl rfl)
  case pmovZero la p | pmovGetlink la p | pmovSetlink la p =>
    exact decodes_of_operands [.bits p 7, .bits la 28] (encodeNat_ptr rfl rfl rfl rfl)
  case aimmBcast n fld | aimmLane0 n fld | aimmOnly0 n fld =>
    exact decodes_of_operands [.bits fld 10, .bits n 14] (encodeNat_ptr rfl rfl rfl rfl)
  case aimmAdd n fld =>
    exact decodes_of_operands [.flag fld 10, .bits n 14] (encodeNat_ptr rfl rfl rfl rfl)
  case kopsAnd d a b | kopsOr d a b | kopsXor d a b | kopsAndn d a b =>
    exact decodes_of_operands [.bits b 22, .bits a 24, .bits d 26] (encodeNat_ptr rfl rfl rfl rfl)
  case kopsNot d a | kopsMov d a | kopsFirst d a =>
    exact decodes_of_operands [.bits a 24, .bits d 26] (encodeNat_ptr rfl rfl rfl rfl)
  case kopsSet d | kopsClr d | kopsFroma d =>
    exact decodes_of_operands [.bits d 26] (encodeNat_ptr rfl rfl rfl rfl)
  case kopsToa a | kopsPopc a =>
    exact decodes_of_operands [.bits a 24] (encodeNat_ptr rfl rfl rfl rfl)
  case kopsPrefix d p =>
    exact decodes_of_operands [.bits p 7, .bits d 26] (encodeNat_ptr rfl rfl rfl rfl)
  case br n | brCall n | brNeg n | brEqz n | brNez n =>
    exact decodes_of_operands [.bits n 13] (encodeNat_ptr rfl rfl rfl rfl)
  case brCnz n s | brCz n s | brKany n s | brKnone n s =>
    exact decodes_of_operands [.bits s 10, .bits n 13] (encodeNat_ptr rfl rfl rfl rfl)
  case jumpJr p | jumpJalr p | protInva p | strnStart p | syncSignal p | syncCwait p | syncCread p | syncCset p |
      ringAwait p | ringRelease p | ringPost p | ringSlot p | mtrxSclaim p =>
    exact decodes_of_operands [.bits p 7] (encodeNat_sys rfl rfl rfl rfl)
  case jumpJidx inc p | ctxsSave inc p | ctxsLoad inc p | strnBindh inc p | syncArrive inc p | syncWait inc p |
      syncArrwt inc p | mtrxSrel inc p =>
    exact decodes_of_operands [.bits p 7, .bits inc 16] (encodeNat_sys rfl rfl rfl rfl)
  case csrRd la rm | csrWr la rm | csrSetb la rm | csrClrb la rm | msgPop la rm | msgPeek la rm | msgUnbind la rm =>
    exact decodes_of_operands [.bits rm 16, .bits la 28] (encodeNat_sys rfl rfl rfl rfl)
  case csrSkld la s p | csrSkst la s p | msgSend la s p | msgQuota la s p =>
    exact decodes_of_operands [.bits p 7, .bits s 16, .bits la 28] (encodeNat_sys rfl rfl rfl rfl)
  case trapSwt n | trapBrk n | protInvd n | protRde n | protWre n | ctxsStop n | ctxsGo n | nopsPause n | strnJoinw n =>
    exact decodes_of_operands [.bits n 16] (encodeNat_sys rfl rfl rfl rfl)
  case msgBindc la c t p =>
    exact decodes_of_operands [.bits p 7, .bits t 16, .bits c 24, .bits la 28] (encodeNat_sys rfl rfl rfl rfl)
  case copyAppend la p | copyExpect la p =>
    exact decodes_of_operands [.bits p 7, .bits la 28] (encodeNat_sys rfl rfl rfl rfl)
  case copyWait la =>
    exact decodes_of_operands [.bits la 28] (encodeNat_sys rfl rfl rfl rfl)
  case mtrxStat c | mtrxCont c =>
    exact decodes_of_operands [.flag c 16] (encodeNat_sys rfl rfl rfl rfl)
  case gathGather o | gathScatter o =>
    obtain ⟨_, hord⟩ := Bool.and_eq_true_iff.mp hwf
    have ho : o.ord = 0 := by simpa using hord
    obtain ⟨la, k, fmt, ord, sz, ip, p⟩ := o
    obtain rfl : ord = 0 := ho
    exact decodes_of_operands [.bits p 7, .flag ip 10, .bits sz 11, .bits 0#2 14, .bits fmt 16, .bits k 19, .bits la 28]
      (encodeNat_mem rfl rfl rfl rfl)
  case jumpRet | jumpJa | timeRdst | timeRddev | timeSetst | timeAddst | timeSyncst | trapRet | trapRetx | trapHalt |
      protFlush | nopsNop | strnEnd | strnYield | strnStat | mtrxWait | mtrxSeal =>
    exact ⟨rfl, by decide, rfl⟩
  all_goals cases hl

/-! ## Parcels -/

/-- The encoding of an instruction is a parcel that gives the instruction. -/
def DecodesParcel (i : Instr) : Prop := encodeNat i % 2 = 0 ∧ encodeNat i < 2 ^ 16 ∧ decodeH (encodeNat i) = some i

theorem encodeNat_parcel {i : Instr} (hL : operandsLane i = 0) (hM : operandsMem i = 0) (hP : operandsPtr i = 0)
    (hS : operandsSys i = 0) : encodeNat i = opcode i + operandsH i := by
  simp only [encodeNat, hL, hM, hP, hS, Nat.add_zero]

/-- As decodes_of_operands, for the one table of format H. -/
theorem decodesParcel_of_operands {i : Instr} {op : Nat} (fs : List Operand)
    (he : encodeNat i = opcode i + operandSum fs)
    (ho : opcode i = op := by
      unfold opcode
      dsimp only)
    (heven : op % 2 = 0 := by decide)
    (hf : fitsIn 5 16 op (fs.map Operand.place) = true := by
      dsimp only [List.map, Operand.place]
      decide)
    (hd : ∀ w, Holds w op fs → decodeH w = some i := by
      intro w hw
      obtain ⟨hc, hr⟩ := hw
      dsimp only [List.map, Operand.place] at hc
      simp only [List.forall_mem_cons, Operand.ReadFrom, List.not_mem_nil, false_imp_iff, implies_true, and_true] at hr
      simp (disch := decide) only [decodeH, hOps, ↓hc, ↓hr, Nat.reducePow, Nat.reduceDiv, Nat.reduceMod, and_self,
        if_true]) :
    DecodesParcel i := by
  have hw : encodeNat i = op + operandSum fs := he.trans (congrArg (· + operandSum fs) ho)
  unfold DecodesParcel
  rw [hw]
  exact ⟨(mod_two_add_operandSum hf (by decide)).trans heven, add_operandSum_lt_of_fitsIn hf,
    hd _ (holds_add_operandSum hf)⟩

theorem decodesParcel (i : Instr) (hl : (i.len == 2 && Machine.hasEncoding i) = true) : DecodesParcel i := by
  cases i
  case hLda o | hAdd o | hSub o | hRsub o | hMul o | hFma o | hMin o | hMax o | hAnd o | hOr o | hXor o | hAcc o |
      hCmplt o =>
    exact decodesParcel_of_operands [.bits o.p 5, .flag o.inc 8, .bits o.fmt 9, .bits o.k 11, .flag o.ch 13]
      (encodeNat_parcel rfl rfl rfl rfl)
  case hSta k fmt inc p =>
    exact decodesParcel_of_operands [.bits p 5, .flag inc 8, .bits fmt 9, .bits k 11] (encodeNat_parcel rfl rfl rfl rfl)
  case hShl ch k inc p | hShra ch k inc p =>
    exact decodesParcel_of_operands [.bits p 5, .flag inc 8, .bits k 11, .flag ch 13] (encodeNat_parcel rfl rfl rfl rfl)
  case illegalInstruction w => cases (Bool.and_eq_true_iff.mp hl).2
  all_goals cases hl

/-! ## Streams of bytes -/

/-- The bytes of an instruction of 2 bytes decode as its parcel does, whatever follows. -/
theorem decode_parcel {i : Instr} (rest : List Byte) (hl : i.len = 2) (h1 : encodeNat i % 2 = 0)
    (h2 : encodeNat i < 2 ^ 16) (h : decodeParcel (encodeNat i) = .ok i) :
    decode (encodeBytes i ++ rest) = .ok (i, i.len) := by
  simp only [encodeBytes, hl, leBytes, List.cons_append, decode, BitVec.toNat_ofNat]
  rw [if_pos (by omega), show encodeNat i % 2 ^ 8 + encodeNat i / 256 % 2 ^ 8 * 256 = encodeNat i by omega, h]
  rfl

theorem len_eq (i : Instr) : i.len = 2 ∨ i.len = 4 := by
  unfold Instr.len
  split
  case h_1 => split <;> simp
  all_goals simp

/-- A well-formed instruction that is not a parcel is a word that decodes to it. -/
theorem decodes {i : Instr} (hwf : i.wf = true) (he : Machine.hasEncoding i = true) (hl : i.len = 4) : Decodes i := by
  cases hm : Machine.laneMajor i with
  | true => exact decodes_lane i hwf (by rw [hm, hl]; rfl)
  | false => exact decodes_rest i hwf (by rw [hm, he]; rfl)

/-- Settles O4: a parcel and a word decode by their tables, and the bytes after them are not looked at. -/
theorem roundTrip : Obligations.RoundTrip := by
  intro i rest hwf he
  obtain hl | hl := len_eq i
  · obtain ⟨h1, h2, hd⟩ := decodesParcel i (by rw [he, hl]; rfl)
    exact decode_parcel rest hl h1 h2 (decodeParcel_of hd hwf)
  · obtain ⟨h1, h2, hd⟩ := decodes hwf he hl
    exact decode_word rest hl h1 h2 (decodeWord_of hd hwf)

/-- Settles O3: each word is decoded. -/
theorem decodeWords : Obligations.DecodeWords := by
  unfold Obligations.DecodeWords
  decide

end Sys2Proof
end

section
/-!
PROOFS. PrivilegeLaws.lean: the instructions that a user domain may not issue, and the encodings that are none (O5).
-/
namespace Sys2Proof.Machine

/-! ## Traps found at issue (10 R230, R231) -/

theorem trapHere_stops {α : Type} (x : Strand) (cause : Nat) (s : State) :
    (trapHere x cause : Act α).stops s (.trap { cause := BitVec.ofNat 8 cause, addr := x.here }) s := rfl

/-- A user domain's strand does not come past the check. -/
theorem privOnly_stops {x : Strand} (h : privileged x.domain = false) (s : State) :
    (privOnly x).stops s (.trap { cause := 0x02, addr := x.here }) s := by
  unfold privOnly
  rw [h]
  exact trapHere_stops x Cause.privInstr s

theorem ctxsTarget_stops {x : Strand} (h : privileged x.domain = false) (n : BitVec 4) (s : State) :
    (ctxsTarget x n).stops s (.trap { cause := 0x02, addr := x.here }) s := Act.stops_bind (privOnly_stops h s)

theorem PlainFacts.here {s : State} (h : PlainFacts s) : (own s).here = (own s).pc := by
  unfold Strand.here own
  rw [h.redo]

/-- The instruction raises a trap with this cause at its own address and does nothing else: the trap is taken, or the strand
escalates. -/
theorem exec_raises {i : Instr} {s : State} {body : Strand → Act Effect} {cause : BitVec 8} (hp : plain s = true)
    (hx : exec i s = performNow i body s)
    (hb : (body (own s)).stops s (.trap { cause := cause, addr := (own s).here }) s) :
    (canTrap s = true →
      exec i s = .next (trapped { cause := cause, addr := (own s).pc } (parcelsOf i) (nextPc i s) s)) ∧
    (canTrap s = false → exec i s = .next (escalated i cause s)) := by
  have h := plain_facts hp
  rw [h.here] at hb
  exact ⟨fun hc => hx.trans (issue_trap (f := { cause := cause, addr := (own s).pc }) h.view hb hp rfl hc),
    fun hc => hx.trans (issue_escalates (f := { cause := cause, addr := (own s).pc }) h.view hb hp rfl hc)⟩

/-- Every PROT and CTXS instruction performs a body that begins with the check (10 R230). -/
theorem exec_of_isPrivileged {i : Instr} (hi : isPrivileged i = true) (s : State) :
    ∃ body, exec i s = performNow i body s ∧
      ∀ x : Strand, privileged x.domain = false → (body x).stops s (.trap { cause := 0x02, addr := x.here }) s := by
  match i, hi with
  | .protFlush, _ => exact ⟨_, rfl, fun x h => Act.stops_bind (privOnly_stops h s)⟩
  | .protInvd d, _ => exact ⟨_, rfl, fun x h => Act.stops_bind (privOnly_stops h s)⟩
  | .protInva p, _ => exact ⟨_, rfl, fun x h => Act.stops_bind (privOnly_stops h s)⟩
  | .protRde e, _ => exact ⟨_, rfl, fun x h => Act.stops_bind (privOnly_stops h s)⟩
  | .protWre e, _ => exact ⟨_, rfl, fun x h => Act.stops_bind (privOnly_stops h s)⟩
  | .ctxsStop n, _ => exact ⟨_, rfl, fun x h => Act.stops_bind (ctxsTarget_stops h n s)⟩
  | .ctxsSave n p, _ => exact ⟨_, rfl, fun x h => Act.stops_bind (ctxsTarget_stops h n s)⟩
  | .ctxsLoad n p, _ => exact ⟨_, rfl, fun x h => Act.stops_bind (ctxsTarget_stops h n s)⟩
  | .ctxsGo n, _ => exact ⟨_, rfl, fun x h => Act.stops_bind (ctxsTarget_stops h n s)⟩

theorem exec_illegalInstruction (w : BitVec 32) (s : State) :
    exec (.illegalInstruction w) s = performNow (.illegalInstruction w) (fun x => trapHere x Cause.illegalInstr) s := rfl

/-! ## Encodings of the privileged majors (10 R228, R229) -/

section
variable {w : Nat} {i : Instr}

theorem isPrivileged_of_decodeProt (h : decodeProt w = some i) : isPrivileged i = true := by
  unfold decodeProt at h
  split at h
  case h_6 => cases h
  all_goals
    obtain ⟨_, hi⟩ := Option.ite_none_right_eq_some.mp h
    exact Option.some.inj hi ▸ rfl

theorem isPrivileged_of_decodeCtxs (h : decodeCtxs w = some i) : isPrivileged i = true := by
  unfold decodeCtxs at h
  split at h
  case h_5 => cases h
  all_goals
    obtain ⟨_, hi⟩ := Option.ite_none_right_eq_some.mp h
    exact Option.some.inj hi ▸ rfl

theorem isPrivileged_of_decodeMajor (hm : w / 2 % 64 = 36 ∨ w / 2 % 64 = 37) (h : decodeMajor w = some i) :
    isPrivileged i = true := by
  obtain hm | hm := hm
  · exact isPrivileged_of_decodeProt ((decodeMajor_prot hm).symm.trans h)
  · exact isPrivileged_of_decodeCtxs ((decodeMajor_ctxs hm).symm.trans h)

/-- A word of a privileged major is an instruction of that major or none. -/
theorem decodeWord_privileged (hm : w / 2 % 64 = 36 ∨ w / 2 % 64 = 37) :
    (∃ i, isPrivileged i = true ∧ decodeWord w = .ok i) ∨ ∃ e, decodeWord w = .error e := by
  unfold decodeWord
  cases hd : decodeMajor w with
  | none => exact .inr ⟨_, rfl⟩
  | some i =>
    cases hi : i.wf with
    | true => exact .inl ⟨i, isPrivileged_of_decodeMajor hm hd, if_pos hi⟩
    | false => exact .inr ⟨_, if_neg (by simp [hi])⟩

end

/-- An encoding that is no instruction is fetched as ILLEGAL_INSTRUCTION with its parcels. -/
theorem fetchInstr_illegal {k : StrandId} {va : W64} {s t u : State} {lo hi : Nat} {e : DecodeError} (ho : lo % 2 = 1)
    (hl : (fetchParcel k va).gives (dropIfGone k.core (va.toNat / 128) s) lo t)
    (hh : (fetchParcel k (va + 2)).gives t hi u) (hd : decodeWord (lo + hi * 2 ^ 16) = .error e) :
    (fetchInstr k va).gives s (.illegalInstruction (BitVec.ofNat 32 (lo + hi * 2 ^ 16))) u := by
  refine Act.gives_bind (Act.gives_modify _ s) (Act.gives_bind hl ?_)
  rw [if_neg (by omega)]
  refine Act.gives_bind hh ?_
  simp only [hd]
  exact Act.gives_pure _ _

/-- Settles O5: every PROT and CTXS body begins with the check of the domain, and a trap that stops a body is taken or
escalates; an encoding that is none is fetched with its parcels and raises its own trap. -/
theorem privilegedTraps : Obligations.PrivilegedTraps := by
  intro s hp
  refine ⟨fun hd i hi => ?_, fun w _ hm _ => decodeWord_privileged hm,
    fun k va t u v lo hi e ho hl hh he => fetchInstr_illegal ho hl hh he,
    fun w => exec_raises hp (exec_illegalInstruction w s) (trapHere_stops (own s) Cause.illegalInstr s)⟩
  obtain ⟨body, hx, hb⟩ := exec_of_isPrivileged hi s
  exact exec_raises hp hx (hb (own s) hd)

end Sys2Proof.Machine
end

section
/-!
PROOFS. PointerLaws.lean: pointers, constants of A and masks (O9, O26, O27).
-/
namespace Sys2Proof.Machine

/-! ## An instruction that has results and leaves the machine alone -/

section
variable {s : State} {i : Instr} {la : Nat} {body : Strand → Act Effect} {ws : List RegWrite}

theorem run_results (hp : plain s = true) (hb : (body (own s)).gives s { ws := ws } s)
    (hw : ws.all RegWrite.simple = true) : run i la (destsOf i) body s = .next (ran i la ws s) :=
  issue_plain hp hb hw rfl rfl

/-- The body is one list of results, whatever the machine is. -/
theorem run_pure {f : Strand → List RegWrite} (hp : plain s = true) (hw : (f (own s)).all RegWrite.simple = true) :
    run i la (destsOf i) (fun x => pure { ws := f x }) s = .next (ran i la (f (own s)) s) :=
  run_results hp (Act.gives_pure _ s) hw
end

/-! ## Post-increments (11 R241, R243) -/

/-- A pointer after j post-increments: the stride j times, the count less j. -/
def Pointer.stepped (x : Pointer) (j : Int) : Pointer :=
  { x with base := x.base + BitVec.ofInt 64 (j * x.stride.toInt), count := x.count - BitVec.ofInt 32 j }

theorem Pointer.stepped_zero (x : Pointer) : x.stepped 0 = x := by
  simp [Pointer.stepped]

/-- One more post-increment; the stride is the one that stood before. -/
theorem Pointer.step_stepped (x : Pointer) (j : Int) : (x.stepped j).step = x.stepped (j + 1) := by
  have hb : x.base + BitVec.ofInt 64 (j * x.stride.toInt) + x.stride.signExtend 64 =
      x.base + BitVec.ofInt 64 ((j + 1) * x.stride.toInt) := by
    rw [BitVec.add_assoc, Int.add_mul, Int.one_mul, BitVec.ofInt_add]
    rfl
  have hc : x.count - BitVec.ofInt 32 j - 1 = x.count - BitVec.ofInt 32 (j + 1) := by
    rw [BitVec.ofInt_add, BitVec.sub_sub]
    rfl
  simp only [Pointer.step, Pointer.stepped, hb, hc]

theorem Pointer.iterate_step (x : Pointer) (j : Nat) : Pointer.step^[j] x = x.stepped j := by
  induction j with
  | zero => exact x.stepped_zero.symm
  | succ j ih => rw [Function.iterate_succ_apply', ih, Pointer.step_stepped, Nat.cast_succ]

theorem Pointer.step_count (x : Pointer) : x.step.count.toNat = (x.count.toNat + (2 ^ 32 - 1)) % 2 ^ 32 := by
  have h : x.step.count = x.count - 1 := rfl
  rw [h, BitVec.toNat_sub, Nat.add_comm]
  rfl

theorem exec_paddStep {s : State} (hp : plain s = true) (n : BitVec 18) (p : BitVec 3) :
    exec (.paddStep n p) s = .next (ran (.paddStep n p) 0 [.p p (((own s).ptr p).stepped n.toInt)] s) :=
  run_pure (f := fun x => [.p p ((x.ptr p).stepped n.toInt)]) hp rfl

/-- Settles O9: one step at once, and j of them by induction; a j below 2^17 is not negative. -/
theorem pointerSteps : Obligations.PointerSteps := by
  refine ⟨fun x => ⟨BitVec.toNat_add _ _, rfl, x.step_count⟩, fun s p n hp hn => ?_⟩
  have hj : n.toInt = n.toNat := BitVec.toInt_eq_toNat_of_lt (by omega)
  rw [Pointer.iterate_step, ← hj]
  exact exec_paddStep hp n p

/-! ## The load of a group of pointers (11 R245) -/

/-- The pointers of a group as a load of their bytes at va gives them. -/
def groupLoaded (n m : BitVec 3) (va : Nat) (l : List (Nat × List Byte)) : List RegWrite :=
  (groupOf n m).zipIdx.map fun e => RegWrite.p e.1 (ofImage (ofBytes (gathered l (va + 16 * e.2) 16)))

theorem groupLoaded_simple (n m : BitVec 3) (va : Nat) (l : List (Nat × List Byte)) :
    (groupLoaded n m va l).all RegWrite.simple = true := by
  simp [groupLoaded, RegWrite.simple]

theorem groupPlace_gives {va : W64} (h : va.toNat % 16 = 0) (s : State) : (groupPlace va).gives s () s := by
  unfold groupPlace
  rw [if_neg (by simp [h])]
  exact Act.gives_pure () s

/-- GLD where its load is answered: the load changes no strand. -/
theorem exec_pmovGld {s t : State} {la : BitVec 4} {c : Bool} {n m q : BitVec 3} {l : List (Nat × List Byte)}
    (hp : plain s = true) (hva : ((own s).ptr q).base.toNat % 16 = 0)
    (hl : (load s.cur .read [(((own s).ptr q).base.toNat, 16 * (groupOf n m).length)]).gives s l t) :
    exec (.pmovGld la c n m q) s = .next (ran (.pmovGld la c n m q) la.toNat
      (groupLoaded n m ((own s).ptr q).base.toNat l ++ bump (own s) (c && !(groupOf n m).contains q) q) t) := by
  obtain ⟨hpt, hct, -⟩ := (quiet_load _ _ _ _ _ _ hl).plain hp
  have hb : (gldBody c n m q (own s)).gives s
      { ws := groupLoaded n m ((own s).ptr q).base.toNat l ++ bump (own s) (c && !(groupOf n m).contains q) q } t :=
    Act.gives_bind (Act.gives_get s) (Act.gives_bind (groupPlace_gives hva s) (Act.gives_bind hl (Act.gives_pure _ t)))
  exact issue_after (plain_facts hp).view hb hpt hct (by simp [groupLoaded_simple, bump_simple]) rfl rfl

/-- Settles O26: each body is its results, but for GLD's, which loads. -/
theorem pointersComplete : Obligations.PointersComplete := by
  intro s hp
  refine ⟨fun n sub fld p => ⟨?_, ?_, ?_, exec_paddStep hp n p⟩, fun la g p d => ⟨?_, ?_, ?_, ?_, ?_, ?_⟩,
    fun n fld f => ⟨?_, ?_, ?_, ?_⟩, fun la c n m q t l hva hl => exec_pmovGld hp hva hl⟩
  all_goals exact run_results hp (Act.gives_pure _ s) rfl

/-- Settles O27: each body is one result, computed from the strand. -/
theorem kopsComplete : Obligations.KopsComplete := by
  intro s d a b p hp
  refine ⟨?_, ?_, ?_, ?_, ?_, ?_, ?_, ?_, ?_, ?_, ?_, ?_, ?_⟩
  all_goals exact run_results hp (Act.gives_pure _ s) rfl

end Sys2Proof.Machine
end

section
/-!
PROOFS. ControlLaws.lean: branches and jumps (O28), where traps are raised (O8), the software traps (O31), and the returns
from a handler (O32).
-/
namespace Sys2Proof.Machine

/-! ## Branches and jumps (11 R248, R249) -/

theorem PlainFacts.branchTarget {s : State} (h : PlainFacts s) (n : BitVec 19) :
    branchTarget n (own s) = (own s).pc + BitVec.ofInt 64 (2 * n.toInt) :=
  congrArg (· + _) h.here
theorem PlainFacts.afterWord {s : State} (h : PlainFacts s) : afterWord (own s) = (own s).pc + 4 :=
  congrArg (· + 4) h.here

theorem exec_jumpJr (p : BitVec 3) (s : State) :
    exec (.jumpJr p) s = performNow (.jumpJr p) (jumpBody (fun x => (x.ptr p).base) fun _ => []) s := rfl
theorem exec_jumpJalr (p : BitVec 3) (s : State) : exec (.jumpJalr p) s =
    performNow (.jumpJalr p) (jumpBody (fun x => (x.ptr p).base) fun x => [.link (afterWord x)]) s := rfl
theorem exec_jumpRet (s : State) : exec .jumpRet s = performNow .jumpRet (jumpBody Strand.link fun _ => []) s := rfl
theorem exec_jumpJa (s : State) : exec .jumpJa s = performNow .jumpJa (jumpBody lane0 fun _ => []) s := rfl
theorem exec_jumpJidx (c : BitVec 12) (p : BitVec 3) (s : State) : exec (.jumpJidx c p) s =
    performNow (.jumpJidx c p) (jumpBody (fun x => (x.ptr p).base + BitVec.ofNat 64 (2 * c.toNat)) fun _ => []) s := rfl

section
variable {s : State} {i : Instr} (hp : plain s = true)
include hp

/-- A branch: a 32-bit instruction whose body only says where the strand goes on. -/
theorem exec_branch {n : BitVec 19} {taken : Strand → Bool} (hx : exec i s = performNow i (branchBody n taken) s)
    (hl : i.len = 4) : exec i s = .next (ranAt i 0 []
      (if taken (own s) then (own s).pc + BitVec.ofInt 64 (2 * n.toInt) else (own s).pc + 4) s) := by
  have h : nextPc i s = (own s).pc + 4 := by unfold nextPc; rw [hl]; rfl
  have hb : (branchBody n taken (own s)).gives s { next := if taken (own s) then some (branchTarget n (own s)) else none } s :=
    Act.gives_pure _ s
  rw [hx, ← (plain_facts hp).branchTarget n, ← h]
  refine (issue_plain hp hb rfl rfl rfl).trans ?_
  cases taken (own s) <;> rfl

theorem exec_brCall (n : BitVec 19) : exec (.brCall n) s = .next (ranAt (.brCall n) 0 [.link ((own s).pc + 4)]
    ((own s).pc + BitVec.ofInt 64 (2 * n.toInt)) s) := by
  have hb : (callBody n (own s)).gives s
      { ws := [.link (afterWord (own s))], next := some (branchTarget n (own s)) } s := Act.gives_pure _ s
  rw [← (plain_facts hp).branchTarget n, ← (plain_facts hp).afterWord]
  exact issue_plain hp hb rfl rfl rfl

/-- A jump to an even target. -/
theorem exec_jump {target : Strand → W64} {ws : Strand → List RegWrite}
    (hx : exec i s = performNow i (jumpBody target ws) s) (he : (target (own s)).getLsbD 0 = false)
    (hw : (ws (own s)).all RegWrite.simple = true) :
    exec i s = .next (ranAt i 0 (ws (own s)) (target (own s)) s) := by
  have hb : (jumpBody target ws (own s)).gives s { ws := ws (own s), next := some (target (own s)) } s := by
    unfold jumpBody
    rw [he]
    exact Act.gives_pure _ s
  exact hx.trans (issue_plain hp hb hw rfl rfl)

end

/-- Settles O28: the branches by their one body, the jumps by theirs. -/
theorem branchesComplete : Obligations.BranchesComplete := by
  intro s n p k c hp
  refine ⟨?_, ?_, ?_, ?_, ?_, ?_, ?_, ?_, exec_brCall hp n, fun he => ?_, fun he => ?_, fun he => ?_, fun he => ?_,
    fun he => ?_⟩
  · exact exec_branch (taken := fun _ => true) hp rfl rfl
  · exact exec_branch (taken := fun x => (x.ptr p).count != 0) hp rfl rfl
  · exact exec_branch (taken := fun x => (x.ptr p).count == 0) hp rfl rfl
  · exact exec_branch (taken := fun x => x.k k != 0) hp rfl rfl
  · exact exec_branch (taken := fun x => x.k k == 0) hp rfl rfl
  · exact exec_branch (taken := fun x => (lane0 x).getLsbD 63) hp rfl rfl
  · exact exec_branch (taken := fun x => lane0 x == 0) hp rfl rfl
  · exact exec_branch (taken := fun x => lane0 x != 0) hp rfl rfl
  · exact exec_jump hp (exec_jumpJr p s) he rfl
  · rw [← (plain_facts hp).afterWord]
    exact exec_jump hp (exec_jumpJalr p s) he rfl
  · exact exec_jump hp (exec_jumpRet s) he rfl
  · exact exec_jump hp (exec_jumpJa s) he rfl
  · exact exec_jump hp (exec_jumpJidx c p s) he rfl

/-! ## Faults found at issue (10 R236, 11 R259, R260) -/

/-- The instruction, of no lookahead, does nothing but raise the fault: the trap is taken, or, where no handler can run, the
strand escalates. -/
def Raises (s : State) (i : Instr) (f : FaultInfo) : Prop :=
  (canTrap s = true → exec i s = .next (trapped f (parcelsOf i) (nextPc i s) s)) ∧
  (canTrap s = false → exec i s = .next (escalated i f.cause s))

/-- The same of an instruction with a lookahead: where that is not 0, the fault is pending. -/
def RaisesWithin (s : State) (i : Instr) (la : BitVec 4) (f : FaultInfo) : Prop :=
  (la = 0 → Raises s i f) ∧ (la ≠ 0 → exec i s = .next (faultLater i la.toNat f s))

section
variable {s : State} {i : Instr} {body : Strand → Act Effect} {f : FaultInfo} (hp : plain s = true)
include hp

theorem raises_of_stops (hx : exec i s = performNow i body s) (hb : (body (own s)).stops s (.trap f) s) : Raises s i f :=
  have hv := (plain_facts hp).view
  ⟨fun hc => hx.trans (issue_trap hv hb hp rfl hc), fun hc => hx.trans (issue_escalates hv hb hp rfl hc)⟩

theorem raises_here {cause : Nat} (hx : exec i s = performNow i body s)
    (hb : (body (own s)).stops s (.trap { cause := BitVec.ofNat 8 cause, addr := (own s).here }) s) :
    Raises s i { cause := BitVec.ofNat 8 cause, addr := (own s).pc } :=
  exec_raises hp hx hb

theorem raisesWithin_of_stops {la : BitVec 4} (hx : exec i s = perform i la body s)
    (hb : (body (own s)).stops s (.trap f) s) (hm : laneMajor i = false) (hf : 3 < f.cause.toNat) :
    RaisesWithin s i la f := by
  refine ⟨fun h0 => raises_of_stops hp (by rw [hx, h0]; rfl) hb, fun h0 => hx.trans ?_⟩
  exact issue_fault_later (plain_facts hp).view hb hp rfl (fun h => h0 (BitVec.eq_of_toNat_eq h)) hm (by omega)

/-- An instruction with a lookahead that is not aligned. -/
theorem raisesWithin_misaligned {la : BitVec 4} {va : W64} (hx : exec i s = perform i la body s)
    (hb : (body (own s)).stops s (.trap { cause := 0x07, addr := va }) s) (hm : laneMajor i = false) :
    RaisesWithin s i la { cause := 0x07, addr := va } :=
  raisesWithin_of_stops hp hx hb hm (by decide : 3 < (0x07 : BitVec 8).toNat)

/-- A jump to an odd target (11 R249). -/
theorem raises_fetchAlign {target : Strand → W64} {ws : Strand → List RegWrite}
    (hx : exec i s = performNow i (jumpBody target ws) s) (ho : (target (own s)).toNat % 2 = 1) :
    Raises s i { cause := 0x03, addr := (own s).pc } := by
  have hl : (target (own s)).getLsbD 0 = true := by simpa [BitVec.getLsbD, Nat.testBit_zero] using ho
  have hb : (jumpBody target ws (own s)).stops s (.trap { cause := 0x03, addr := (own s).here }) s := by
    unfold jumpBody
    rw [hl]
    exact trapHere_stops (own s) Cause.fetchAlign s
  exact raises_here (cause := 0x03) hp hx hb

/-- RET and RETX outside a handler (11 R262). -/
theorem raises_retNotrap (hx : ∃ again, exec i s = .next (trapReturn i again s)) (hd : destsOf i = [])
    (hn : (own s).xin = false) : Raises s i { cause := 0x06, addr := (own s).pc } := by
  obtain ⟨again, hx⟩ := hx
  have hr : exec i s = performNow i (fun x => trapHere x Cause.retNotrap) s := by
    have hn' : (!(s.strand s.cur).xin) = true := by rw [show (s.strand s.cur).xin = false from hn]; rfl
    rw [hx, performNow, hd]
    exact congrArg _ (if_pos hn')
  exact raises_here hp hr (trapHere_stops (own s) Cause.retNotrap s)

end

/-! ## MISALIGNED (11 R245; 13 R288, R290, R291) -/

theorem trapAt_stops {α : Type} (cause : Nat) (va : W64) (s : State) :
    (trapAt cause va : Act α).stops s (.trap { cause := BitVec.ofNat 8 cause, addr := va }) s := rfl

theorem laneBits_eq (fmt : BitVec 3) : laneBits fmt = 8 * laneBytes fmt := by
  revert fmt
  decide
theorem stripLanes_eq (fmt : BitVec 3) : 1024 / laneBits fmt = 128 / laneBytes fmt := by
  revert fmt
  decide

section
variable {s : State} {x : Strand} {o : MemOps}

theorem memCheck_misaligned {lanes : List Nat} (hl : lanes ≠ [])
    (ha : (x.ptr o.p).base.toNat % (if size o.sz ≤ 8 then size o.sz else laneBytes o.fmt) ≠ 0) :
    (memCheck o x lanes).stops s (.trap { cause := 0x07, addr := (x.ptr o.p).base }) s := by
  have hc : (!lanes.isEmpty && !aligned o (x.ptr o.p).base) = true := by
    have hal : aligned o (x.ptr o.p).base = false := beq_eq_false_iff_ne.mpr ha
    simp [hl, hal]
  unfold memCheck
  simp only [hc, if_true]
  exact Act.stops_bind (trapAt_stops Cause.misaligned _ s)

theorem loadBody_misaligned {lanes : Strand → List Nat} {f : Strand → (Nat → Nat) → Strip} (hl : lanes x ≠ [])
    (ha : (x.ptr o.p).base.toNat % (if size o.sz ≤ 8 then size o.sz else laneBytes o.fmt) ≠ 0) :
    (loadBody o lanes f x).stops s (.trap { cause := 0x07, addr := (x.ptr o.p).base }) s :=
  Act.stops_after (Act.gives_get s) (Act.stops_bind (memCheck_misaligned hl ha))

theorem staBody_misaligned (hl : coveredOn o x ≠ [])
    (ha : (x.ptr o.p).base.toNat % (if size o.sz ≤ 8 then size o.sz else laneBytes o.fmt) ≠ 0) :
    (staBody o x).stops s (.trap { cause := 0x07, addr := (x.ptr o.p).base }) s :=
  Act.stops_after (Act.gives_get s) (Act.stops_bind (memCheck_misaligned hl ha))

/-- LDA.BC loads its one element where any lane of the strip is enabled. -/
theorem firstIfAny_ne_nil (h : (List.range (128 / laneBytes o.fmt)).filter (x.guard o.k) ≠ []) : firstIfAny o x ≠ [] := by
  unfold firstIfAny lanesOn pick
  rw [stripLanes_eq, if_neg (by simpa using h)]
  exact List.cons_ne_nil 0 []

theorem elementsAligned_stops {n va : Nat} {vas : List Nat} (h : (vas.find? fun a => a % n != 0) = some va) :
    (elementsAligned n vas).stops s (.trap { cause := 0x07, addr := BitVec.ofNat 64 va }) s := by
  unfold elementsAligned
  rw [h]
  exact trapAt_stops Cause.misaligned _ s

/-- The address of the element that lane j of A names, by the lanes' size in bytes. -/
theorem elementVa_lane (o : MemOps) (x : Strand) (j : Nat) : elementVa o x (lane (laneBits o.fmt) x.a j) =
    ((x.ptr o.p).base + BitVec.ofInt 64 (toSigned (8 * laneBytes o.fmt) (lane (8 * laneBytes o.fmt) x.a j) *
      laneBytes o.fmt)).toNat := by
  rw [laneBits_eq]
  rfl

theorem lineAligned_gives {sz : BitVec 3} {base : W64} (h : base.toNat % size sz = 0) :
    (lineAligned sz base).gives s () s := by
  unfold lineAligned
  rw [if_neg (by simpa [size] using h)]
  exact Act.gives_pure () s
theorem lineAligned_stops {sz : BitVec 3} {base : W64} (h : base.toNat % size sz ≠ 0) :
    (lineAligned sz base).stops s (.trap { cause := 0x07, addr := base }) s := by
  unfold lineAligned
  rw [if_pos (by simpa [size] using h)]
  exact trapAt_stops Cause.misaligned _ s

theorem groupPlace_stops {va : W64} (h : va.toNat % 16 ≠ 0) :
    (groupPlace va).stops s (.trap { cause := 0x07, addr := va }) s := by
  unfold groupPlace
  rw [if_pos (by simpa using h)]
  exact trapAt_stops Cause.misaligned _ s

end

/-- GATHER's addresses, in the order of its lanes. -/
theorem gatherBody_misaligned {s : State} {x : Strand} {o : MemOps} {va : Nat}
    (h : (((lanesOn o x (1024 / laneBits o.fmt)).map fun i => elementVa o x (lane (laneBits o.fmt) x.a i)).find?
      fun a => a % laneBytes o.fmt != 0) = some va) :
    (gatherBody o x).stops s (.trap { cause := 0x07, addr := BitVec.ofNat 64 va }) s :=
  Act.stops_after (Act.gives_get s) (Act.stops_bind (elementsAligned_stops h))

theorem scatterBody_misaligned {s : State} {x : Strand} {o : MemOps} {va : Nat}
    (h : (((scatterReqs o x).map Prod.fst).find? fun a => a % laneBytes o.fmt != 0) = some va) :
    (scatterBody o x).stops s (.trap { cause := 0x07, addr := BitVec.ofNat 64 va }) s :=
  Act.stops_after (Act.gives_get s) (Act.stops_bind (elementsAligned_stops h))

/-- SCATTER's indices stand in the upper lanes. -/
theorem scatterReqs_addresses (o : MemOps) (x : Strand) : (scatterReqs o x).map Prod.fst =
    (lanesOn o x (1024 / laneBits o.fmt / 2)).map fun j =>
      elementVa o x (lane (laneBits o.fmt) x.a (1024 / laneBits o.fmt / 2 + j)) := by
  unfold scatterReqs
  rw [List.map_map]
  rfl

/-- Settles O8: each instruction's body stops at its own check, with the machine as it was. -/
theorem trapsRaised : Obligations.TrapsRaised := by
  intro s p q m c la n sz d e o hp
  have hget := Act.gives_get s
  refine ⟨fun hn => ⟨raises_retNotrap hp ⟨false, rfl⟩ rfl hn, raises_retNotrap hp ⟨true, rfl⟩ rfl hn⟩,
    raises_fetchAlign hp (exec_jumpJr p s), raises_fetchAlign hp (exec_jumpJalr p s), raises_fetchAlign hp (exec_jumpRet s),
    raises_fetchAlign hp (exec_jumpJa s), raises_fetchAlign hp (exec_jumpJidx c p s),
    fun hd => raises_here (cause := 0x02) hp rfl (Act.stops_bind (privOnly_stops hd s)),
    fun ha hl => ⟨?_, ?_, ?_⟩, fun ha hl => ?_, fun va => ⟨fun hf => ?_, fun hf => ?_⟩, fun ha => ⟨?_, ?_⟩,
    fun ha hb => ?_, fun ha => ⟨?_, ?_⟩⟩
  · exact raisesWithin_misaligned hp rfl (loadBody_misaligned hl ha) rfl
  · exact raisesWithin_misaligned hp rfl (loadBody_misaligned hl ha) rfl
  · exact raisesWithin_misaligned hp rfl (staBody_misaligned hl ha) rfl
  · exact raisesWithin_misaligned hp rfl (loadBody_misaligned (firstIfAny_ne_nil hl) ha) rfl
  · refine raisesWithin_misaligned hp rfl (gatherBody_misaligned ?_) rfl
    simpa only [elementVa_lane, stripLanes_eq, lanesOn, pick] using hf
  · refine raisesWithin_misaligned hp rfl (scatterBody_misaligned ?_) rfl
    simpa only [scatterReqs_addresses, elementVa_lane, stripLanes_eq, lanesOn, pick] using hf
  · exact raisesWithin_misaligned hp rfl (Act.stops_after hget (Act.stops_bind (lineAligned_stops ha))) rfl
  · exact raisesWithin_misaligned hp rfl (Act.stops_after hget (Act.stops_bind (lineAligned_stops ha))) rfl
  · exact raisesWithin_misaligned hp rfl
      (Act.stops_after hget (Act.stops_after (lineAligned_gives ha) (Act.stops_bind (lineAligned_stops hb)))) rfl
  · exact raisesWithin_misaligned hp rfl (Act.stops_after hget (Act.stops_bind (groupPlace_stops ha))) rfl
  · exact raisesWithin_misaligned hp rfl (Act.stops_after hget (Act.stops_bind (groupPlace_stops ha))) rfl

/-! ## Software traps (11 R261) -/

theorem softTrap_raises {s : State} (hp : plain s = true) {i : Instr} {cause : Nat} {n : BitVec 12}
    (hx : exec i s = performNow i (softTrapBody cause n) s) :
    Raises s i { cause := BitVec.ofNat 8 cause, addr := n.setWidth 64 } :=
  raises_of_stops hp hx (trapAt_stops cause _ s)

/-- Settles O31: each raises its fault, and a handler is there to take it. -/
theorem trapsTaken : Obligations.TrapsTaken := fun s n w hp hc =>
  ⟨(softTrap_raises (n := n) hp rfl).1 hc, (softTrap_raises (n := n) hp rfl).1 hc,
    (raises_here hp (exec_illegalInstruction w s) (trapHere_stops (own s) Cause.illegalInstr s)).1 hc⟩

/-! ## Returns from a handler (11 R261, R262) -/

theorem State.strand_setStrand {s : State} {k : StrandId} {x : Strand} (h : x ≠ {}) : (s.setStrand k x).strand k = x :=
  Table.get_set_self _ s.strands k h
theorem State.setStrand_setStrand {s : State} {k : StrandId} {x y : Strand} (h : x ≠ {}) :
    (s.setStrand k x).setStrand k y = s.setStrand k y := by
  simp only [State.setStrand]
  rw [Table.set_set _ s.strands k y h]

theorem Strand.ready_of_canIssue {x : Strand} (h : x.canIssue = true) : x.state = .ready := by
  simp only [Strand.canIssue, Bool.and_eq_true, beq_iff_eq] at h
  obtain ⟨⟨⟨⟨hr, -⟩, -⟩, -⟩, -⟩ := h
  exact hr

/-- A strand that may issue goes to the end of the ready list. -/
theorem requeue_canIssue {s : State} {x : Strand} (h : x.canIssue = true) :
    requeue s.cur (s.setStrand s.cur x) = cameTo s x := by
  have hx : (s.setStrand s.cur x).strand s.cur = x :=
    State.strand_setStrand (Strand.ne_default (Strand.ready_of_canIssue h))
  unfold requeue
  dsimp only
  rw [hx, if_pos h]
  rfl

section
variable {s : State} {y : Strand} {resume : W64} (hc : y.canIssue = true)
include hc

theorem ne_default_of_canIssue : y ≠ {} := Strand.ne_default (Strand.ready_of_canIssue hc)

/-- Where nothing is kept the strand goes on. -/
theorem deliverKept_nothing (hf : y.faults = []) :
    deliverKept s.cur resume (s.setStrand s.cur y) = cameTo s { y with pc := resume } := by
  have hy := ne_default_of_canIssue hc
  unfold deliverKept
  dsimp only
  rw [State.strand_setStrand hy, hf]
  dsimp only
  rw [State.setStrand_setStrand hy]
  exact requeue_canIssue hc

/-- The oldest kept fault is taken, where a handler is there and none runs. -/
theorem deliverKept_takes {f : PendFault} {fs : List PendFault} (hf : y.faults = f :: fs) (hg : f.pager = none)
    (h0 : f.fault.cause ≠ 0) (hv : y.xvec ≠ 0) (hx : y.xin = false) :
    deliverKept s.cur resume (s.setStrand s.cur y) = cameTo s { y with
      faults := fs, xcause := f.fault.cause, xparcels := f.parcels, xaddr := f.fault.addr, xaux := f.fault.aux, xpc := f.pc
      xresume := resume, xin := true, pc := y.xvec } := by
  have hy := ne_default_of_canIssue hc
  have hz : ({ y with faults := fs, pc := resume } : Strand) ≠ {} := ne_default_of_canIssue hc
  have hn : (y.xvec == 0 || y.xin) = false := by rw [hx, Bool.or_false]; exact beq_eq_false_iff_ne.2 hv
  unfold deliverKept
  dsimp only
  rw [State.strand_setStrand hy, hf]
  dsimp only
  rw [hg, State.setStrand_setStrand hy]
  dsimp only
  rw [if_neg h0]
  unfold takeTrap
  dsimp only
  rw [State.strand_setStrand hz]
  dsimp only
  rw [hn, if_neg Bool.false_ne_true, State.setStrand_setStrand hz]
  exact requeue_canIssue hc

end

section
variable {s : State} (hc : (own s).canIssue = true) (hx : (own s).xin = true)

/-- A return in a handler: RETX runs the instruction at XPC again, RET delivers what is kept. -/
theorem trapReturn_in_handler (hx : (own s).xin = true) (i : Instr) (again : Bool) : trapReturn i again s =
    if again then requeue s.cur (s.setStrand s.cur { own s with
        xin := false, redo := some { pc := (own s).xpc, resume := (own s).xresume } })
    else deliverKept s.cur (own s).xresume (s.setStrand s.cur { own s with xin := false }) :=
  if_neg (by simp [show (s.strand s.cur).xin = true from hx])

include hc hx

theorem trapRet_resumes (hf : (own s).faults = []) :
    trapReturn .trapRet false s = cameTo s { own s with xin := false, pc := (own s).xresume } :=
  (trapReturn_in_handler hx _ _).trans (deliverKept_nothing (y := { own s with xin := false }) hc hf)

/-- The oldest kept fault is taken: the handler runs on, at XVEC, and XRESUME is as it was. -/
theorem trapRet_takes {f : PendFault} {fs : List PendFault} (hf : (own s).faults = f :: fs) (hg : f.pager = none)
    (h0 : f.fault.cause ≠ 0) (hv : (own s).xvec ≠ 0) : trapReturn .trapRet false s = cameTo s { own s with
      faults := fs, xcause := f.fault.cause, xparcels := f.parcels, xaddr := f.fault.addr, xaux := f.fault.aux, xpc := f.pc
      pc := (own s).xvec } := by
  rw [trapReturn_in_handler hx, if_neg Bool.false_ne_true]
  refine (deliverKept_takes (y := { own s with xin := false }) hc hf hg h0 hv rfl).trans ?_
  dsimp only
  rw [← hx]

theorem trapRetx_repeats : trapReturn .trapRetx true s = cameTo s { own s with
    xin := false, redo := some { pc := (own s).xpc, resume := (own s).xresume } } := by
  refine (trapReturn_in_handler hx _ _).trans (requeue_canIssue ?_)
  simp only [Strand.canIssue, Bool.and_eq_true] at hc ⊢
  exact ⟨hc.1, by simp⟩

end

/-- Settles O32: RET by what is kept, RETX by its one case. -/
theorem trapReturns : Obligations.TrapReturns := fun _ hc hx =>
  ⟨fun hf => congrArg _ (trapRet_resumes hc hx hf),
    fun _ _ hf hg h0 hv => congrArg _ (trapRet_takes hc hx hf hg h0 hv), congrArg _ (trapRetx_repeats hc hx)⟩

end Sys2Proof.Machine
end

section
/-!
PROOFS. RegisterLaws.lean: strand and device time, and control registers as they are read, written and refused (O6, O7, O29).
-/
namespace Sys2Proof.Machine

/-! ## Time (11 R250, R251) -/

section
variable {s : State} {x : Strand}

theorem notFixed_gives (h : x.isFixed = false) (s : State) : (notFixed x).gives s () s := by
  unfold notFixed
  rw [h]
  exact Act.gives_pure () s
theorem notFixed_stops (h : x.isFixed = true) (s : State) :
    (notFixed x).stops s (.trap { cause := 0x36, addr := x.here }) s := by
  unfold notFixed
  rw [h]
  exact trapHere_stops x Cause.fixedPath s

theorem readBody_gives (f : State → Strand → W64) (x : Strand) (s : State) :
    (readBody f x).gives s { ws := [.a (setLane64 x.a 0 (f s x))] } s :=
  Act.gives_bind (Act.gives_get s) (Act.gives_pure _ s)

end

section
variable {s : State} (hp : plain s = true)
include hp

/-- An instruction that reads a word into lane 0 of A. -/
theorem exec_reads {i : Instr} {la : BitVec 4} {f : State → Strand → W64} (hx : exec i s = perform i la (readBody f) s) :
    exec i s = .next (ran i la.toNat [.a (setLane64 (own s).a 0 (f s (own s)))] s) :=
  hx.trans (run_results hp (readBody_gives f (own s) s) rfl)

theorem exec_timeRdst : exec .timeRdst s = .next (ran .timeRdst 0 [.a (setLane64 (own s).a 0 (own s).stime)] s) :=
  run_results hp (readBody_gives (fun _ x => x.stime) (own s) s) rfl
theorem exec_timeSetst : exec .timeSetst s = .next (ran .timeSetst 0 [.stime (lane64 (own s).a 0)] s) :=
  run_results hp (Act.gives_pure _ s) rfl
theorem exec_timeAddst :
    exec .timeAddst s = .next (ran .timeAddst 0 [.stime ((own s).stime + lane64 (own s).a 0)] s) :=
  run_results hp (Act.gives_pure _ s) rfl

theorem exec_timeRddev (h : (own s).isFixed = false) :
    exec .timeRddev s = .next (ran .timeRddev 0 [.a (setLane64 (own s).a 0 s.now)] s) :=
  run_results hp (Act.gives_bind (notFixed_gives h s) (readBody_gives _ (own s) s)) rfl
theorem exec_timeSyncst (h : (own s).isFixed = false) : exec .timeSyncst s = .next (ran .timeSyncst 0
    [.stime (if (own s).stime.toNat < s.now.toNat then s.now else (own s).stime)] s) :=
  run_results hp (Act.gives_bind (notFixed_gives h s) (Act.gives_bind (Act.gives_get s) (Act.gives_pure _ s))) rfl

theorem timeRddev_raises (h : (own s).isFixed = true) : Raises s .timeRddev { cause := 0x36, addr := (own s).pc } :=
  raises_here (cause := 0x36) hp rfl (Act.stops_bind (notFixed_stops h s))
theorem timeSyncst_raises (h : (own s).isFixed = true) : Raises s .timeSyncst { cause := 0x36, addr := (own s).pc } :=
  raises_here (cause := 0x36) hp rfl (Act.stops_bind (notFixed_stops h s))
end

/-- Settles O6: RDDEV and SYNCST stop at their check of fixed mode, which the others do not make. -/
theorem fixedModeTime : Obligations.FixedModeTime := by
  intro s hp hf
  refine ⟨?_, exec_timeRdst hp, exec_timeSetst hp, exec_timeAddst hp⟩
  rintro i (rfl | rfl)
  · exact timeRddev_raises hp hf
  · exact timeSyncst_raises hp hf

/-! ## What WR, SETB and CLRB write (11 R252) -/

/-- The instruction writes v to the control register rm: WR lane 0 of A, SETB and CLRB the register's value changed by it. -/
def WritesControl (s : State) (la : BitVec 4) (rm : BitVec 12) (i : Instr) (v : W64) : Prop :=
  i = .csrWr la rm ∧ v = lane64 (own s).a 0 ∨
    i = .csrSetb la rm ∧ v = csrValue s (own s) rm.toNat ||| lane64 (own s).a 0 ∨
    i = .csrClrb la rm ∧ v = csrValue s (own s) rm.toNat &&& ~~~(lane64 (own s).a 0)

theorem Act.run_get_bind {α : Type} (f : State → Act α) (s : State) :
    ExceptT.run ((get : Act State) >>= f) s = ExceptT.run (f s) s := rfl

section
variable {s : State} {la : BitVec 4} {rm : BitVec 12} {i : Instr} {v : W64}

/-- Each of the three performs a body that does what the write of its value does. -/
theorem WritesControl.performs (h : WritesControl s la rm i v) : ∃ body, exec i s = perform i la body s ∧
    laneMajor i = false ∧ ExceptT.run (body (own s)) s = ExceptT.run (csrWrite rm.toNat v (own s)) s := by
  obtain ⟨rfl, rfl⟩ | ⟨rfl, rfl⟩ | ⟨rfl, rfl⟩ := h
  · exact ⟨csrBody rm fun _ a => a, rfl, rfl, Act.run_get_bind _ s⟩
  · exact ⟨csrBody rm fun r a => r ||| a, rfl, rfl, Act.run_get_bind _ s⟩
  · exact ⟨csrBody rm fun r a => r &&& ~~~a, rfl, rfl, Act.run_get_bind _ s⟩

variable (hp : plain s = true) (h : WritesControl s la rm i v)
include hp h

theorem WritesControl.ran {ws : List RegWrite} (hb : (csrWrite rm.toNat v (own s)).gives s { ws := ws } s)
    (hw : ws.all RegWrite.simple = true) : exec i s = .next (ran i la.toNat ws s) := by
  obtain ⟨body, hx, -, hr⟩ := h.performs
  exact hx.trans (run_results hp (hr.trans hb) hw)

/-- A write that is discarded sets CSRIGN alone (11 R256). -/
theorem WritesControl.discarded (hb : (csrWrite rm.toNat v (own s)).gives s ignored s) :
    exec i s = .next (Machine.ran i la.toNat [.flags 0x200] s) := h.ran hp hb rfl

theorem WritesControl.raises {f : FaultInfo} (hb : (csrWrite rm.toNat v (own s)).stops s (.trap f) s)
    (hf : 3 < f.cause.toNat) : RaisesWithin s i la f := by
  obtain ⟨body, hx, hm, hr⟩ := h.performs
  exact raisesWithin_of_stops hp hx (hr.trans hb) hm hf

/-- A write of FIXED: one that begins fixed mode fills the horizon area at its commit (08 R196). -/
theorem WritesControl.fixed (hb : (csrWrite rm.toNat v (own s)).gives s { ws := [.fixed v] } s) :
    exec i s = .next (if la.toNat = 0 ∧ begins v (own s) = true then
      setHorizonAt (Machine.ran i 0 [.fixed v] s) s.cur.core (v.toNat / 64 % 2 ^ 13 * 64) (baseHorizon s (own s).domain)
    else Machine.ran i la.toNat [.fixed v] s) := by
  obtain ⟨body, hx, -, hr⟩ := h.performs
  exact hx.trans (issue_fixed hp (hr.trans hb))

theorem WritesControl.fixed_kept (hb : (csrWrite rm.toNat v (own s)).gives s { ws := [.fixed v] } s)
    (hn : la ≠ 0 ∨ begins v (own s) = false) : exec i s = .next (Machine.ran i la.toNat [.fixed v] s) := by
  refine (h.fixed hp hb).trans (congrArg _ (if_neg ?_))
  rintro ⟨hl, hbg⟩
  exact hn.elim (fun hn => hn (BitVec.eq_of_toNat_eq hl)) fun hn => Bool.false_ne_true (hn.symm.trans hbg)

theorem WritesControl.fixed_begins (hb : (csrWrite rm.toNat v (own s)).gives s { ws := [.fixed v] } s) (hl : la = 0)
    (hbg : begins v (own s) = true) : exec i s = .next (setHorizonAt (Machine.ran i 0 [.fixed v] s) s.cur.core
      (v.toNat / 64 % 2 ^ 13 * 64) (baseHorizon s (own s).domain)) :=
  (h.fixed hp hb).trans (congrArg _ (if_pos ⟨congrArg BitVec.toNat hl, hbg⟩))

/-- A register that takes its value at issue (log 33): the strand in hand is y before it goes on. -/
theorem WritesControl.taken {y : Strand} (hb : (csrWrite rm.toNat v (own s)).gives s {} (s.setStrand s.cur y))
    (hy : plain (s.setStrand s.cur y) = true) : exec i s = .next (Machine.ran i la.toNat [] (s.setStrand s.cur y)) := by
  obtain ⟨body, hx, -, hr⟩ := h.performs
  exact hx.trans (issue_after (plain_facts hp).view (hr.trans hb) hy rfl rfl rfl rfl)

end

/-! ## Control registers, one by one (11 R253–R257) -/

theorem getLsbD_zero_iff {w : Nat} (v : BitVec w) : v.getLsbD 0 = true ↔ v.toNat % 2 = 1 := by
  simp [BitVec.getLsbD, Nat.testBit_zero]

theorem Act.gives_ite_pos {α : Type} {c : Prop} [Decidable c] {m n : Act α} {s t : State} {a : α} (h : c)
    (hm : m.gives s a t) : (if c then m else n).gives s a t := by rwa [if_pos h]
theorem Act.gives_ite_neg {α : Type} {c : Prop} [Decidable c] {m n : Act α} {s t : State} {a : α} (h : ¬c)
    (hn : n.gives s a t) : (if c then m else n).gives s a t := by rwa [if_neg h]

section
variable (s : State) (x : Strand) (v : W64)

theorem csrWrite_sst : (csrWrite 0x000 v x).gives s { ws := [.sst (v &&& 0x3FF)] } s :=
  Act.gives_bind (Act.gives_get s) (Act.gives_pure _ s)
theorem csrWrite_link : (csrWrite 0x004 v x).gives s { ws := [.link v] } s :=
  Act.gives_bind (Act.gives_get s) (Act.gives_pure _ s)

variable {v}

theorem csrWrite_fpctl_reserved (h : 5 ≤ v.toNat) : (csrWrite 0x001 v x).gives s ignored s :=
  Act.gives_bind (Act.gives_get s) (Act.gives_ite_pos h (Act.gives_pure _ s))
theorem csrWrite_fpctl (h : v.toNat < 5) :
    (csrWrite 0x001 v x).gives s {} (s.setStrand s.cur { own s with fpctl := v }) :=
  Act.gives_bind (Act.gives_get s) (Act.gives_ite_neg (Nat.not_le.2 h)
    (Act.gives_bind (Act.gives_modify _ s) (Act.gives_pure _ _)))

theorem csrWrite_drow_reserved (h : 65536 ≤ v.toNat) : (csrWrite 0x002 v x).gives s ignored s :=
  Act.gives_bind (Act.gives_get s) (Act.gives_ite_pos h (Act.gives_pure _ s))
theorem csrWrite_drow (h : v.toNat < 65536) :
    (csrWrite 0x002 v x).gives s {} (s.setStrand s.cur { own s with drow := v }) :=
  Act.gives_bind (Act.gives_get s) (Act.gives_ite_neg (Nat.not_le.2 h)
    (Act.gives_bind (Act.gives_modify _ s) (Act.gives_pure _ _)))

theorem csrWrite_xvec_odd (h : v.getLsbD 0 = true) : (csrWrite 0x010 v x).gives s ignored s :=
  Act.gives_bind (Act.gives_get s) (Act.gives_ite_pos h (Act.gives_pure _ s))
theorem csrWrite_xvec (h : v.getLsbD 0 = false) : (csrWrite 0x010 v x).gives s { ws := [.xvec v] } s :=
  Act.gives_bind (Act.gives_get s) (Act.gives_ite_neg (Bool.eq_false_iff.1 h) (Act.gives_pure _ s))

theorem csrWrite_xresume_odd (h : v.getLsbD 0 = true) : (csrWrite 0x014 v x).gives s ignored s :=
  Act.gives_bind (Act.gives_get s) (Act.gives_ite_pos h (Act.gives_pure _ s))
theorem csrWrite_xresume (h : v.getLsbD 0 = false) : (csrWrite 0x014 v x).gives s { ws := [.xresume v] } s :=
  Act.gives_bind (Act.gives_get s) (Act.gives_ite_neg (Bool.eq_false_iff.1 h) (Act.gives_pure _ s))

/-! ## FIXED (08 R196, R200; 11 R257) -/

theorem begins_of_even {v : W64} {x : Strand} (h : v.getLsbD 0 = false) : begins v x = false := by
  unfold begins; rw [h, Bool.false_and]
theorem begins_of_fixed {v : W64} {x : Strand} (h : x.isFixed = true) : begins v x = false := by
  unfold begins; rw [h, Bool.not_true, Bool.and_false]
theorem begins_of_odd {v : W64} {x : Strand} (hx : x.isFixed = false) (h : v.getLsbD 0 = true) : begins v x = true := by
  unfold begins; rw [h, hx]; rfl

theorem csrWrite_fixed_reserved (h : v.toNat / 2 % 32 ≠ 0 ∨ 2 ^ 19 ≤ v.toNat) : (csrWrite 0x003 v x).gives s ignored s :=
  have hr : (v.toNat / 2 % 32 != 0 || decide (2 ^ 19 ≤ v.toNat)) = true := by
    rwa [Bool.or_eq_true, bne_iff_ne, decide_eq_true_eq]
  Act.gives_bind (Act.gives_get s) (Act.gives_ite_pos hr (Act.gives_pure _ s))

section
variable {x} (hz : v.toNat / 2 % 32 = 0) (hl : v.toNat < 2 ^ 19)
include hz hl

theorem fixed_unreserved : ¬(v.toNat / 2 % 32 != 0 || decide (2 ^ 19 ≤ v.toNat)) = true := by
  rw [Bool.or_eq_true, bne_iff_ne, decide_eq_true_eq]
  omega

/-- Fixed mode goes on: a value other than the one that stands is discarded. -/
theorem csrWrite_fixed_changed (hx : x.isFixed = true) (h0 : v.getLsbD 0 = true) (hv : v ≠ x.fixed) :
    (csrWrite 0x003 v x).gives s ignored s :=
  have hc : (x.isFixed && v.getLsbD 0 && v != x.fixed) = true := by rw [hx, h0, bne_iff_ne.2 hv]; rfl
  Act.gives_bind (Act.gives_get s) (Act.gives_ite_neg (fixed_unreserved hz hl) (Act.gives_ite_pos hc (Act.gives_pure _ s)))

/-- The write takes effect where it neither changes a mode that goes on nor ends one with words buffered. -/
theorem csrWrite_fixed (hv : x.isFixed = true → v.getLsbD 0 = true → v = x.fixed)
    (hw : x.isFixed = true → v.getLsbD 0 = false → holdsWords s s.cur = false) :
    (csrWrite 0x003 v x).gives s { ws := [.fixed v] } s := by
  have hc : ¬(x.isFixed && v.getLsbD 0 && v != x.fixed) = true := by
    rw [Bool.and_eq_true, Bool.and_eq_true, bne_iff_ne]
    exact fun ⟨⟨hx, h0⟩, hn⟩ => hn (hv hx h0)
  have hh : ¬(x.isFixed && !v.getLsbD 0 && holdsWords s s.cur) = true := by
    rw [Bool.and_eq_true, Bool.and_eq_true, Bool.not_eq_true']
    exact fun ⟨⟨hx, h0⟩, hs⟩ => Bool.false_ne_true ((hw hx h0).symm.trans hs)
  exact Act.gives_bind (Act.gives_get s) (Act.gives_ite_neg (fixed_unreserved hz hl) (Act.gives_ite_neg hc
    (Act.gives_bind (Act.gives_get s) (Act.gives_ite_neg hh (Act.gives_pure _ s)))))

/-- Fixed mode may not end while the strand holds buffered words. -/
theorem csrWrite_fixed_pending (hx : x.isFixed = true) (h0 : v.getLsbD 0 = false) (hw : holdsWords s s.cur = true) :
    (csrWrite 0x003 v x).stops s (.trap { cause := 0x37, addr := x.here }) s := by
  have hc : ¬(x.isFixed && v.getLsbD 0 && v != x.fixed) = true := by rw [h0, Bool.and_false, Bool.false_and]; exact Bool.false_ne_true
  have hh : (x.isFixed && !v.getLsbD 0 && holdsWords s s.cur) = true := by rw [hx, h0, hw]; rfl
  refine Act.stops_after (Act.gives_get s) ?_
  show Act.stops (if _ then _ else if _ then _ else _) _ _ _
  rw [if_neg (fixed_unreserved hz hl), if_neg hc]
  refine Act.stops_after (Act.gives_get s) ?_
  rw [if_pos hh]
  exact trapHere_stops x Cause.fixedPending s
end
end

/-- Settles O7: the writes that are refused, register by register; SST drops its must-be-zero bits. -/
theorem discardedControlWrites : Obligations.DiscardedControlWrites := by
  intro s la rm i v hp x a0 h
  have hw : WritesControl s la rm i v := h
  refine ⟨?_, fun hrm => ?_⟩
  · rintro (⟨rfl, hv⟩ | ⟨rfl, hv⟩ | ⟨rfl, hv⟩ | ⟨rfl | rfl, hv⟩)
    · exact hw.discarded hp (csrWrite_fpctl_reserved s _ hv)
    · exact hw.discarded hp (csrWrite_drow_reserved s _ hv)
    · exact hw.discarded hp (csrWrite_fixed_reserved s _ hv)
    · exact hw.discarded hp (csrWrite_xvec_odd s _ ((getLsbD_zero_iff v).2 hv))
    · exact hw.discarded hp (csrWrite_xresume_odd s _ ((getLsbD_zero_iff v).2 hv))
  · subst hrm
    exact hw.ran hp (csrWrite_sst s _ v) rfl

/-- Whether the strand in hand is plain once it is written. -/
theorem plain_setStrand {s : State} {y : Strand} (hy : y.state = .ready) :
    plain (s.setStrand s.cur y) = (y.state == .ready && !y.paused && !y.yielded && y.pending.isEmpty && y.redo.isNone &&
      y.stopping.isNone && y.faults.isEmpty && y.view.isNone) := by
  unfold plain
  rw [State.setStrand_cur, State.strand_setStrand (Strand.ne_default hy)]

/-- Settles O29: time by its bodies, and each register's write by what the register takes; FIXED by whether the mode is on, and
goes on. -/
theorem timeCsrComplete : Obligations.TimeCsrComplete := by
  intro s la hp x a0 reads
  have hr := (plain_facts hp).ready
  refine ⟨exec_timeRdst hp, exec_timeRddev hp, exec_timeSetst hp, exec_timeAddst hp, exec_timeSyncst hp,
    fun rm => exec_reads (f := fun s x => csrValue s x rm.toNat) hp rfl, fun i rm v h => ?_⟩
  have hw : WritesControl s la rm i v := h
  refine ⟨fun hrm => ?_, fun hrm => ?_, fun hrm hv => ?_, fun hrm hv => ?_, fun hrm hz hl hx => ?_, fun hrm hz hl hx => ?_,
    fun hrm hv => ?_, fun hrm hv => ?_⟩ <;> subst hrm
  · exact hw.ran hp (csrWrite_sst s _ v) rfl
  · exact hw.ran hp (csrWrite_link s _ v) rfl
  · exact hw.ran hp (csrWrite_xvec s _ hv) rfl
  · exact hw.ran hp (csrWrite_xresume s _ hv) rfl
  · have hb := csrWrite_fixed s hz hl (x := own s) (fun h1 => absurd (hx.symm.trans h1) Bool.false_ne_true)
      (fun h1 => absurd (hx.symm.trans h1) Bool.false_ne_true)
    refine ⟨fun h0 => hw.fixed_kept hp hb (.inr (begins_of_even h0)), fun h0 hla => hw.fixed_kept hp hb (.inl hla),
      fun h0 hla => ?_⟩
    subst hla
    exact hw.fixed_begins hp hb rfl (begins_of_odd hx h0)
  · have hnb : la ≠ 0 ∨ begins v (own s) = false := .inr (begins_of_fixed hx)
    refine ⟨fun hv => ?_, fun h0 hv => ?_, fun h0 hn => ?_, fun h0 hb => ?_⟩
    · have h0 : v.getLsbD 0 = true := by rw [hv]; exact hx
      exact hw.fixed_kept hp (csrWrite_fixed s hz hl (fun _ _ => hv)
        fun _ h1 => absurd (h1.symm.trans h0) Bool.false_ne_true) hnb
    · exact hw.discarded hp (csrWrite_fixed_changed s hz hl hx h0 hv)
    · exact hw.fixed_kept hp (csrWrite_fixed s hz hl (fun _ h1 => absurd (h0.symm.trans h1) Bool.false_ne_true)
        fun _ _ => hn) hnb
    · have hst := csrWrite_fixed_pending s hz hl hx h0 hb
      rw [(plain_facts hp).here] at hst
      obtain ⟨h1, h2⟩ := hw.raises hp hst (by decide : 3 < (0x37 : BitVec 8).toNat)
      exact ⟨fun hla => (h1 hla).1, fun hla => (h1 hla).2, h2⟩
  · exact hw.taken hp (csrWrite_fpctl s _ hv) ((plain_setStrand (y := { own s with fpctl := v }) hr).trans hp)
  · exact hw.taken hp (csrWrite_drow s _ hv) ((plain_setStrand (y := { own s with drow := v }) hr).trans hp)

end Sys2Proof.Machine
end

section
/-!
PROOFS. SystemLaws.lean: the PLB and HALT in a privileged domain (O33), and the GO of CTXS that ends its own task (O34).
-/
namespace Sys2Proof.Machine

/-! ## Bodies that change the machine beside its strands -/

/-- An instruction without results whose body changes no strand. -/
theorem run_changes {s t : State} {i : Instr} {body : Strand → Act Effect} (hp : plain s = true)
    (hb : (body (own s)).gives s {} t) (hc : Calm s t) : run i 0 (destsOf i) body s = .next (ran i 0 [] t) := by
  obtain ⟨hpt, hct, -⟩ := hc.plain hp
  exact issue_after (plain_facts hp).view hb hpt hct rfl rfl rfl

theorem privOnly_gives {x : Strand} (h : privileged x.domain = true) (s : State) : (privOnly x).gives s () s := by
  unfold privOnly
  rw [h]
  exact Act.gives_pure () s

/-! ## The PLB (11 R264) -/

theorem calm_setCore (s : State) (c : CoreId) (x : Core) : Calm s (s.setCore c x) := ⟨rfl, rfl⟩
theorem calm_plbInvalidate (c : CoreId) (test : BitVec 128 → Bool) (s : State) : Calm s (plbInvalidate c test s) := ⟨rfl, rfl⟩
theorem calm_checkEpoch (s : State) : Calm s (checkEpoch s) := by
  unfold checkEpoch
  split <;> exact ⟨rfl, rfl⟩

section
variable {s : State} (hp : plain s = true) (hd : privileged (own s).domain = true)
include hp hd

theorem exec_protFlush : let f := plbInvalidate s.cur.core (fun _ => true) s
    exec .protFlush s = .next (ran .protFlush 0 []
      (checkEpoch (f.setCore s.cur.core { f.core s.cur.core with flushed := true }))) :=
  run_changes hp
    (Act.gives_bind (privOnly_gives hd s) (Act.gives_bind (Act.gives_modify _ s) (Act.gives_pure _ _)))
    (((calm_plbInvalidate _ _ s).trans (calm_setCore _ _ _)).trans (calm_checkEpoch _))

theorem exec_plbInvalidate {i : Instr} {test : Strand → BitVec 128 → Bool} (hx : exec i s = performNow i (plbInvBody test) s) :
    exec i s = .next (ran i 0 [] (plbInvalidate s.cur.core (test (own s)) s)) :=
  hx.trans (run_changes hp
    (Act.gives_bind (privOnly_gives hd s) (Act.gives_bind (Act.gives_modify _ s) (Act.gives_pure _ _)))
    (calm_plbInvalidate _ _ s))

theorem exec_protRde (e : BitVec 6) : exec (.protRde e) s = .next (ran (.protRde e) 0
    [.a (setBits (own s).a 0 128 (Table.get 0 (ownCore s).plb e.toNat).toNat)] s) :=
  run_results hp (Act.gives_bind (privOnly_gives hd s) (Act.gives_bind (Act.gives_get s) (Act.gives_pure _ s))) rfl

theorem exec_protWre (e : BitVec 6) : exec (.protWre e) s = .next (ran (.protWre e) 0 [] (plbUsed s.cur.core e.toNat
    (s.setCore s.cur.core { ownCore s with
      plb := Table.set 0 (ownCore s).plb e.toNat (plbWritten ((own s).a.setWidth 128)) }))) :=
  run_changes hp
    (Act.gives_bind (privOnly_gives hd s) (Act.gives_bind (Act.gives_modify _ s) (Act.gives_pure _ _))) ⟨rfl, rfl⟩

end

/-! ## A core's strands, by number (06 R139) -/

theorem mkStrand_self (k : StrandId) : mkStrand k.core k.num = k := Nat.div_add_mod' k 16
theorem mem_coreStrands {k : StrandId} (h : k.num ≤ 10) : k ∈ coreStrands k.core :=
  List.mem_map.2 ⟨k.num, List.mem_range.2 (by omega), mkStrand_self k⟩

/-- Every other strand of the core is FREE. -/
def SoleStrand (s : State) (k : StrandId) : Prop := ∀ j ∈ coreStrands k.core, j ≠ k → (s.strand j).live = false

theorem soleStrand_of_free {s : State} {k : StrandId}
    (h : ∀ n, n ≤ 10 → n ≠ k.num → (s.strand (mkStrand k.core n)).live = false) : SoleStrand s k := by
  intro j hj hk
  obtain ⟨n, hn, rfl⟩ := List.mem_map.1 hj
  have hn : n < 11 := List.mem_range.1 hn
  exact h n (by omega) fun e => hk (by rw [e, mkStrand_self])

/-! ## A strand that stops with nothing pending (04 R117) -/

/-- A READY strand with nothing pending, kept or to be repeated, once it has stopped. -/
def Strand.atRest (x : Strand) (isHeld : Bool) : Strand :=
  { x with
    state := .stopped, stoppedFrom := .ready, wait := if x.parked.isSome || x.wait == .landing then .nothing else x.wait
    held := isHeld, stopping := none, paused := false, yielded := false, parked := none, redo := none }

theorem atRest_ne_default (x : Strand) (b : Bool) : x.atRest b ≠ {} :=
  fun e => SState.noConfusion (congrArg Strand.state e)

/-- A strand that stands in no ready list. -/
def offReady (k : StrandId) (s : State) : State := { s with ready := s.ready.filter fun j => j != k }

@[simp] theorem offReady_strand (k : StrandId) (s : State) (j : StrandId) : (offReady k s).strand j = s.strand j := rfl
@[simp] theorem offReady_core (k : StrandId) (s : State) (c : CoreId) : (offReady k s).core c = s.core c := rfl
@[simp] theorem offReady_cur (k : StrandId) (s : State) : (offReady k s).cur = s.cur := rfl

theorem requeue_held {k : StrandId} {s : State} (h : (s.strand k).canIssue = false) : requeue k s = offReady k s := by
  unfold requeue offReady
  rw [h]
  rfl

theorem offReady_setStrand_offReady {k : StrandId} {s : State} {x y : Strand} (hx : x ≠ {}) :
    offReady k ((offReady k (s.setStrand k x)).setStrand k y) = offReady k (s.setStrand k y) := by
  have hr : (s.ready.filter fun j => j != k).filter (fun j => j != k) = s.ready.filter fun j => j != k := by
    rw [List.filter_filter]
    simp only [Bool.and_self]
  unfold offReady State.setStrand
  dsimp only
  rw [Table.set_set _ s.strands k y hx, hr]

/-- A strand that may stop at once: READY, with nothing pending, to be repeated, kept or waiting to be performed. -/
structure Strand.Idle (x : Strand) : Prop where
  ready : x.state = .ready
  pending : x.pending = []
  redo : x.redo = none
  faults : x.faults = []
  view : x.view = none

theorem PlainFacts.idle {s : State} (h : PlainFacts s) : (own s).Idle := ⟨h.ready, h.pending, h.redo, h.faults, h.view⟩

/-- A strand that is to stop, held or not. -/
def Strand.toStop (x : Strand) (isHeld : Bool) : Strand := { x with stopping := some isHeld }

theorem setStrand_strand {k : StrandId} {s : State} (hn : s.strand k ≠ {}) : s.setStrand k (s.strand k) = s := by
  unfold State.setStrand State.strand
  rw [Table.set_get _ s.strands k hn]

theorem endWindows_nothing {k : StrandId} {s : State} (hp : (s.strand k).pending = []) (hn : s.strand k ≠ {}) :
    endWindows k s = s := by
  have hx : ({ s.strand k with pending := (s.strand k).pending.map fun p => { p with left := 0 } } : Strand) = s.strand k := by
    rw [hp, List.map_nil, ← hp]
  unfold endWindows
  dsimp only
  rw [hx, setStrand_strand hn]

theorem keepPending_nothing {k : StrandId} {s : State} (hp : (s.strand k).pending = []) (hf : (s.strand k).faults = [])
    (hn : s.strand k ≠ {}) : keepPending k s = s := by
  have hx : ({ s.strand k with pending := [], faults := [] } : Strand) = s.strand k := by rw [← hp, ← hf]
  unfold keepPending
  rw [hp]
  dsimp only [List.foldl_nil]
  rw [hf]
  exact (congrArg _ hx).trans (setStrand_strand hn)

theorem stopNow_idle {k : StrandId} {b : Bool} {s : State} {x : Strand} (hs : s.strand k = x.toStop b)
    (h : x.Idle) : stopNow k b s = offReady k (s.setStrand k (x.atRest b)) := by
  have hn : s.strand k ≠ {} := hs ▸ Strand.ne_default h.ready
  have hw : ((x.toStop b).state == .waiting) = false := beq_eq_false_iff_ne.2 (h.ready ▸ SState.noConfusion)
  have hre : (x.toStop b).redo = none := h.redo
  unfold stopNow
  rw [keepPending_nothing (hs ▸ h.pending) (hs ▸ h.faults) hn]
  simp only [hs, hre, hw, ite_self, Bool.false_and, Bool.false_eq_true, if_false]
  refine requeue_held (s := s.setStrand k (x.atRest b)) ?_
  rw [State.strand_setStrand (atRest_ne_default x b)]
  rfl

/-- A strand that is FREE or STOPPED is left as it is. -/
theorem beginStop_still {k : StrandId} {b : Bool} {s : State}
    (h : (s.strand k).live = false ∨ (s.strand k).state = .stopped) : beginStop k b s = s :=
  if_pos (by simpa using h)

/-- A strand that has drained stops, and its core's command is looked at. -/
theorem settleStop_drained {k : StrandId} {b : Bool} {s : State} {x : Strand} (hs : s.strand k = x)
    (hb : x.stopping = some b) (hl : x.live = true) (hn : (x.state == .stopped) = false) (hd : x.drained = true) :
    settleStop k s = stopCheck k.core (stopNow k b s) := by
  unfold settleStop
  dsimp only
  rw [hs, hb]
  dsimp only
  rw [hl, hn, hd]
  rfl

/-- A strand that may stop at once does. -/
theorem beginStop_idle {k : StrandId} {b : Bool} {s : State} {x : Strand} (hs : s.strand k = x) (h : x.Idle) :
    beginStop k b s = stopCheck k.core (offReady k (s.setStrand k (x.atRest b))) := by
  have hl : x.live = true := by unfold Strand.live; rw [h.ready]; rfl
  have hns : (x.state == .stopped) = false := by rw [h.ready]; rfl
  have hy : x.toStop b ≠ {} := Strand.ne_default h.ready
  have hg : (s.setStrand k (x.toStop b)).strand k = x.toStop b := State.strand_setStrand hy
  have hc : (x.toStop b).canIssue = false := by simp [Strand.canIssue, Strand.toStop, h.redo]
  have hd : (x.toStop b).drained = true := by simp [Strand.drained, Strand.toStop, h.pending, h.redo]
  have hbegin : beginStop k b s =
      settleStop k (requeue k (commitReady k x.pending.length (endWindows k (s.setStrand k (x.toStop b))))) := by
    unfold beginStop
    dsimp only
    rw [hs]
    exact if_neg (by rw [hl, hns]; decide)
  rw [hbegin, h.pending, endWindows_nothing (by rw [hg]; exact h.pending) (by rw [hg]; exact hy)]
  show settleStop k (requeue k (s.setStrand k (x.toStop b))) = _
  rw [requeue_held (by rw [hg]; exact hc),
    settleStop_drained (s := offReady k (s.setStrand k (x.toStop b))) hg rfl hl hns hd,
    stopNow_idle (s := offReady k (s.setStrand k (x.toStop b))) hg h, offReady_setStrand_offReady hy]

/-! ## A halt of a core with one strand (04 R119, 11 R261) -/

section
variable {s : State} {c : CoreId}

@[simp] theorem unchoose_strands (c : CoreId) (s : State) : (unchoose c s).strands = s.strands := by
  unfold unchoose
  dsimp only
  split <;> rfl
@[simp] theorem unchoose_core (c d : CoreId) (s : State) : (unchoose c s).core d = s.core d := by
  unfold unchoose
  dsimp only
  split <;> rfl
@[simp] theorem unchoose_cur (c : CoreId) (s : State) : (unchoose c s).cur = s.cur := by
  unfold unchoose
  dsimp only
  split <;> rfl

theorem haltCore_running (h : (s.core c).status = .running) :
    haltCore c false s = strandsStop c (unchoose c (coreHalts c .running 3 none s)) := by
  simp [haltCore, haltBegin, coreHalts, strandsStop, h]

/-- A core that halts and whose matrix unit rests is HALTED once its strands have stopped. -/
theorem stopCheck_halts (hs : (s.core c).stopCmd = 3) (ha : (s.core c).active = none) (hr : allStopped s c = true) :
    stopCheck c s = s.setCore c { s.core c with stopCmd := 0, status := .halted } := by
  unfold stopCheck
  dsimp only
  rw [hs, ha, hr]
  rfl

theorem stopCheck_none (hs : (s.core c).stopCmd = 0) : stopCheck c s = s := by
  unfold stopCheck
  dsimp only
  rw [hs]
  rfl

theorem foldl_beginStop_still {b : Bool} {l : List StrandId}
    (h : ∀ j ∈ l, (s.strand j).live = false ∨ (s.strand j).state = .stopped) :
    l.foldl (fun u k => beginStop k b u) s = s := by
  induction l with
  | nil => rfl
  | cons j l ih =>
    rw [List.foldl_cons, beginStop_still (h j List.mem_cons_self)]
    exact ih fun i hi => h i (List.mem_cons_of_mem _ hi)

/-- The machine once the one strand k of its core has stopped and the core is HALTED. -/
def soleHalted (k : StrandId) (s : State) : State :=
  (offReady k (s.setStrand k ((s.strand k).atRest false))).setCore k.core
    { s.core k.core with stopCmd := 0, status := .halted }

variable {k : StrandId}

theorem soleHalted_strand (k : StrandId) (s : State) : (soleHalted k s).strand k = (s.strand k).atRest false :=
  State.strand_setStrand (atRest_ne_default _ _)
theorem soleHalted_strand_other {j : StrandId} (hj : j ≠ k) : (soleHalted k s).strand j = s.strand j :=
  Table.get_set_other _ s.strands (atRest_ne_default _ _) hj
theorem soleHalted_core (k : StrandId) (s : State) :
    (soleHalted k s).core k.core = { s.core k.core with stopCmd := 0, status := .halted } :=
  Table.get_set_self _ s.cores k.core fun e => CoreState.noConfusion (congrArg Core.status e)

/-- The one strand of a core that halts stops, and with it the core. -/
theorem strandsStop_sole (hk : k ∈ coreStrands k.core) (h : (s.strand k).Idle) (hsole : SoleStrand s k)
    (hs : (s.core k.core).stopCmd = 3) (ha : (s.core k.core).active = none) : strandsStop k.core s = soleHalted k s := by
  have hother : ∀ j ∈ coreStrands k.core, j ≠ k → ((soleHalted k s).strand j).live = false := fun j hj hne => by
    rw [soleHalted_strand_other hne]
    exact hsole j hj hne
  have hrest : ∀ j ∈ coreStrands k.core,
      ((soleHalted k s).strand j).live = false ∨ ((soleHalted k s).strand j).state = .stopped := fun j hj => by
    by_cases hne : j = k
    · subst hne
      exact .inr (congrArg Strand.state (soleHalted_strand _ s))
    · exact .inl (hother j hj hne)
  have hstop : beginStop k false s = soleHalted k s := by
    rw [beginStop_idle rfl h]
    refine stopCheck_halts hs ha (List.all_eq_true.2 fun j hj => ?_)
    exact Bool.or_eq_true_iff.2 ((hrest j hj).imp (congrArg (!·)) beq_iff_eq.2)
  obtain ⟨l₁, l₂, hl, hn⟩ := List.eq_append_cons_of_mem hk
  have h₁ : ∀ j ∈ l₁, (s.strand j).live = false := fun j hj =>
    hsole j (hl ▸ List.mem_append_left _ hj) fun e => hn (e ▸ hj)
  have h₂ : ∀ j ∈ l₂, j ∈ coreStrands k.core := fun j hj => hl ▸ List.mem_append_right _ (List.mem_cons_of_mem _ hj)
  unfold strandsStop
  rw [hl, List.foldl_append, foldl_beginStop_still fun j hj => .inl (h₁ j hj), List.foldl_cons, hstop,
    foldl_beginStop_still fun j hj => hrest j (h₂ j hj)]
  exact stopCheck_none (congrArg Core.stopCmd (soleHalted_core k s))

end

/-- A strand with nothing pending, kept, to be repeated or waiting to be performed, and that is not to stop. -/
structure Strand.Clear (x : Strand) : Prop where
  pending : x.pending = []
  redo : x.redo = none
  faults : x.faults = []
  view : x.view = none
  stopping : x.stopping = none

theorem Strand.Idle.clear_atRest {x : Strand} (h : x.Idle) (b : Bool) : (x.atRest b).Clear :=
  ⟨h.pending, rfl, h.faults, h.view, rfl⟩

theorem moved_ne_default {x : Strand} (h : x.live = true) {pc : W64} {l : List Pending} : x.moved pc l ≠ {} := fun e =>
  Bool.false_ne_true ((congrArg Strand.live e).symm.trans h)

/-- A result-less instruction that is pending alone commits. -/
theorem commitReady_done {s : State} {k : StrandId} {x : Strand} {p : Pending} (hx : x.live = true) (hp : p.state = .done [])
    (hl : p.left = 0) (next : W64) :
    commitReady k 1 (s.setStrand k (x.moved next [p])) = s.setStrand k (x.moved next []) := by
  have hn : x.moved next [p] ≠ {} := moved_ne_default hx
  have hg : (s.setStrand k (x.moved next [p])).strand k = x.moved next [p] := State.strand_setStrand hn
  simp only [commitReady, hg, Strand.moved_pending, hp, hl, bne_self_eq_false, Bool.false_eq_true, if_false, applyWrites]
  exact State.setStrand_setStrand hn

/-- An instruction without results of a strand that its body has stopped: the strand stands past it. -/
theorem retire_clear {t : State} {i : Instr} (h : (own t).Clear) (hl : (own t).live = true) (hm : laneMajor i = false)
    (next : W64) : retire i 0 (destsOf i) (.done []) next t =
      requeue t.cur (t.setStrand t.cur ((own t).moved next [])) := by
  obtain ⟨hpe, hre, hf, hv, hst⟩ := h
  set p : Pending := { parcels := parcelsOf i, pc := (own t).pc, left := 0, dests := destsOf i, state := .done [] } with hp
  have hmoved := Strand.moved_view hv hre hst hf next [p]
  have hg : (t.setStrand t.cur ((own t).moved next [p])).strand t.cur = (own t).moved next [p] :=
    State.strand_setStrand (moved_ne_default hl)
  have hr : retire i 0 (destsOf i) (.done []) next t =
      requeue t.cur (commitReady t.cur 1 (t.setStrand t.cur ((own t).moved next [p]))) := by
    unfold own at *
    simp only [retire, PendState.precise, Pending.unissued, hre, hpe, hv, hst, hf, hm, ← hp, Option.isSome_none,
      List.isEmpty_nil, Bool.not_true, Bool.false_and, Bool.or_self, Bool.false_eq_true, if_false, List.map_nil,
      List.nil_append, hmoved, hg]
    rfl
  rw [hr, commitReady_done hl rfl rfl]

/-- The machine once the strand in hand, which no longer issues, stands past its instruction. -/
def wentPast (i : Instr) (t : State) : State :=
  clearReads t.cur (offReady t.cur (t.setStrand t.cur ((own t).moved (nextPc i t) [])))

theorem wentPast_core (i : Instr) (t : State) (c : CoreId) : (wentPast i t).core c = t.core c := rfl
theorem wentPast_strand (i : Instr) {t : State} (h : (own t).live = true) :
    (wentPast i t).strand t.cur = (own t).moved (nextPc i t) [] :=
  State.strand_setStrand (moved_ne_default h)

/-- An instruction without results whose body stops its own strand: the strand goes on no further than past it. -/
theorem run_stopped {s t : State} {i : Instr} {body : Strand → Act Effect} {x : Strand} (hv : (own s).view = none)
    (hb : (body (own s)).gives s {} t) (hc : t.cur = s.cur) (ht : own t = x.atRest false) (hx : x.Idle)
    (hm : laneMajor i = false) : run i 0 (destsOf i) body s = .next (wentPast i t) := by
  have hb' : ExceptT.run (body (own s)) s = (.ok {}, t) := hb
  have hl : (own t).live = true := by rw [ht]; rfl
  have hl' : (t.strand s.cur).live = true := hc ▸ hl
  have hn : (own t).moved (nextPc i t) [] ≠ {} := moved_ne_default hl
  have hi : ((own t).moved (nextPc i t) []).canIssue = false := by rw [ht]; rfl
  simp only [run, issue, seen_plain hv, hb', hl', if_true, Option.getD_none]
  rw [← hc, retire_clear (ht ▸ hx.clear_atRest false) hl hm,
    requeue_held (by rw [State.strand_setStrand hn]; exact hi)]
  rfl

/-- A running core that begins to halt (log 35). -/
def halting (c : CoreId) (s : State) : State := unchoose c (coreHalts c .running 3 none s)

theorem halting_cur (c : CoreId) (s : State) : (halting c s).cur = s.cur := unchoose_cur _ _
theorem halting_strand (c : CoreId) (s : State) (j : StrandId) : (halting c s).strand j = s.strand j := by
  have h : (halting c s).strands = s.strands := unchoose_strands c _
  unfold State.strand
  rw [h]
theorem halting_core (c : CoreId) (s : State) : (halting c s).core c = { s.core c with
    err := false, before := .running, status := .stopping, stopCmd := 3, zoneWaitFrom := none } :=
  (unchoose_core _ _ _).trans
    (Table.get_set_self _ s.cores c fun e => CoreState.noConfusion (congrArg Core.status e))

theorem haltCore_sole {s : State} {k : StrandId} (hk : k.num ≤ 10) (h : (s.strand k).Idle) (hsole : SoleStrand s k)
    (hr : (s.core k.core).status = .running) (ha : (s.core k.core).active = none) :
    haltCore k.core false s = soleHalted k (halting k.core s) := by
  have hcore := halting_core k.core s
  rw [haltCore_running hr]
  refine strandsStop_sole (s := halting k.core s) (mem_coreStrands hk) (halting_strand _ s k ▸ h)
    (fun j hj hne => halting_strand _ s j ▸ hsole j hj hne) ?_ ?_
  · exact congrArg Core.stopCmd hcore
  · exact (congrArg Core.active hcore).trans ha

/-- HALT of a core whose only strand it is. -/
theorem exec_trapHalt {s : State} (hp : plain s = true) (hd : privileged (own s).domain = true) (hk : s.cur.num ≤ 10)
    (hr : (ownCore s).status = .running) (ha : (ownCore s).active = none) (hsole : SoleStrand s s.cur) :
    ∃ t, exec .trapHalt s = .next t ∧ (t.core s.cur.core).status = .halted ∧ (t.strand s.cur).state = .stopped ∧
      (t.strand s.cur).pc = (own s).pc + 4 := by
  have hidle := (plain_facts hp).idle
  set t := soleHalted s.cur (halting s.cur.core s) with ht
  have hb : (haltBody (own s)).gives s {} t := by
    rw [ht, ← haltCore_sole hk hidle hsole hr ha]
    exact Act.gives_bind (privOnly_gives hd s) (Act.gives_bind (Act.gives_modify _ s) (Act.gives_pure _ _))
  have hc : t.cur = s.cur := halting_cur _ _
  have ho : own t = (own s).atRest false := by
    unfold own
    rw [hc, ht, soleHalted_strand, halting_strand]
  have hpc : nextPc .trapHalt t = (own s).pc + 4 := congrArg (fun x => x.pc + 4) ho
  have hs := wentPast_strand .trapHalt (t := t) (ho ▸ rfl)
  rw [hc, ho, hpc] at hs
  exact ⟨_, run_stopped (plain_facts hp).view hb hc ho hidle rfl, congrArg Core.status (soleHalted_core s.cur _),
    congrArg Strand.state hs, congrArg Strand.pc hs⟩

/-- Settles O33: the PLB's instructions by what they do to it, HALT by the stop of the core's one strand. -/
theorem privilegedComplete : Obligations.PrivilegedComplete := by
  intro s d p e hp x c y hd
  exact ⟨exec_protFlush hp hd, exec_plbInvalidate (test := fun _ e => e.extractLsb' 113 12 == d) hp hd rfl,
    exec_plbInvalidate (test := fun x e => plbCovers e (x.ptr p).base.toNat) hp hd rfl, exec_protRde hp hd e,
    exec_protWre hp hd e, fun hk hr ha hfree => exec_trapHalt hp hd hk hr ha (soleStrand_of_free hfree)⟩

/-! ## CTXS.GO (11 R265) -/

/-- The lead of core 0 in the service domain, and beside it a helper that CTXS holds: its stop has kept a fault, and it has no
handler for it (XVEC = 0). -/
def heldWithoutHandler : State :=
  { State.reset with
    cur := 0
    ready := [0]
    strands := [(0, { state := .ready, role := .lead }),
      (1, { state := .stopped, held := true, faults := [{ fault := { cause := 0x14, addr := 8 }, pc := 4, parcels := 0 }] })] }

/-- GO delivers the fault that is kept; it escalates, and ends the task: the strand that issued GO with it (11 R260). -/
theorem go_ends_task : (issue (.ctxsGo 1) 0 (destsOf (.ctxsGo 1)) (ctxsGoBody 1) heldWithoutHandler).ready = [] := by
  decide +kernel

/-- A strand that has run an instruction stands in the ready list. -/
theorem ran_ready_ne_nil (i : Instr) (la : Nat) (ws : List RegWrite) (s : State) : (ran i la ws s).ready ≠ [] :=
  List.append_ne_nil_of_right_ne_nil _ (List.cons_ne_nil _ _)

/-- Refutes O34 in its last clause: a strand that CTXS holds may have kept a fault, and where it has no handler, GO's delivery
of it escalates (11 R260), so that the issuing strand, of the same task, is FREE and does not go on. -/
theorem not_contextComplete : ¬ Obligations.ContextComplete := by
  intro h
  obtain ⟨-, -, -, -, hgo⟩ := h heldWithoutHandler 1 0 (by decide +kernel) (by decide) (by decide)
  have hran := Host.Outcome.next.inj (hgo rfl rfl)
  exact ran_ready_ne_nil _ _ _ _ ((congrArg State.ready hran).symm.trans go_ends_task)

end Sys2Proof.Machine
end

section
/-!
PROOFS. LaneLaws.lean: the lane operations complete with their results wherever their operands are read, and operands in
the own scratchpad are read (O11–O18).
-/
namespace Sys2Proof.Machine

/-! ## Lane forms, by the kind of their result

A lane form runs one body, which reads its operands and takes a result into its strand. Each kind of result is registers of the
strand alone, so a form of that kind completes (12 R269–R271). -/

section
variable {i : Instr} {o : LaneOps} {ra rb : LaneOps → Strand → Option (List Nat)} {sat : Bool} {rm : BitVec 2}

theorem laneRuns_map {fn : LaneFn} (he : ∀ s, exec i s = run i 0 (destsOf i) (mapBody o ra rb sat rm fn) s) :
    laneRuns i o ra rb (mapResult o sat rm fn) :=
  laneRuns_of he fun _ _ _ => resultWrites_simple _

theorem laneRuns_fmal (he : ∀ s, exec i s = run i 0 (destsOf i) (fmalBody o sat rm) s) :
    laneRuns i o notRead lanesRead (fmalResult o sat rm) :=
  laneRuns_of he fun _ _ _ => resultWrites_simple _

theorem laneRuns_cmp {kd : BitVec 2} {rel : CmpFn} (he : ∀ s, exec i s = run i 0 (destsOf i) (cmpBody kd o rel) s) :
    laneRuns i o notRead lanesRead (cmpResult kd o rel) :=
  laneRuns_of he (cmpResult_simple kd o rel)

theorem laneRuns_cvt {wt : Nat} {f : Rm → Nat → Nat × Nat}
    (he : ∀ s, exec i s = run i 0 (destsOf i) (cvtBody o wt rm f) s) :
    laneRuns i o notRead notRead (cvtResult o wt rm f) :=
  laneRuns_of he fun _ _ _ => resultWrites_simple _

theorem laneRuns_from {ws : Nat} {src : FFmt} (he : ∀ s, exec i s = run i 0 (destsOf i) (fromBody o ws src) s) :
    laneRuns i o notRead notRead (fromResult o ws src) :=
  laneRuns_of he fun _ _ _ => resultWrites_simple _

theorem laneRuns_move {f : Nat → (Nat → Bool) → Strip → Strip}
    (he : ∀ s, exec i s = run i 0 (destsOf i) (moveBody o f) s) : laneRuns i o notRead notRead (moveResult o f) :=
  laneRuns_of he fun _ _ _ => rfl

theorem laneRuns_move2 {f : Strand → Nat → (Nat → Bool) → Strip → Strip → Strip}
    (he : ∀ s, exec i s = run i 0 (destsOf i) (move2Body o rb f) s) : laneRuns i o notRead rb (move2Result o f) :=
  laneRuns_of he fun _ _ _ => rfl

theorem laneRuns_red {leaf : Strand → (Nat → Nat) → (Nat → Nat) → Nat → Nat × Nat}
    {op : Strand → Nat → Nat → Nat → Nat × Nat} {last : Strand → Nat → Option Nat → Nat × Nat}
    (he : ∀ s, exec i s = run i 0 (destsOf i) (redBody o ra rb leaf op last) s) :
    laneRuns i o ra rb (redResult o leaf op last) :=
  laneRuns_of he fun _ _ _ => resultWrites_simple _
end

/-! ## VARI, VBIT and VCMP (12 R274–R277) -/

/-- Settles O12: each form maps its function over the lanes, but FMAL, whose factor is lane 0 of A. -/
theorem variCompletes : Obligations.VariCompletes := by
  intro sat rm o
  refine ⟨?_, ?_, ?_, ?_, ?_, ?_, laneRuns_fmal fun _ => rfl, ?_, ?_, ?_, ?_, ?_, ?_, ?_, ?_, ?_⟩
  all_goals exact laneRuns_map fun _ => rfl

/-- Settles O13: each form maps its function over the lanes. -/
theorem vbitCompletes : Obligations.VbitCompletes := by
  intro o
  refine ⟨?_, ?_, ?_, ?_, ?_, ?_, ?_, ?_, ?_, ?_, ?_⟩
  all_goals exact laneRuns_map fun _ => rfl

/-- Settles O14: each form compares the lanes by its relation. -/
theorem vcmpCompletes : Obligations.VcmpCompletes := by
  intro kd o
  refine ⟨?_, ?_, ?_, ?_, ?_, ?_, ?_, ?_, ?_, ?_, ?_⟩
  all_goals exact laneRuns_cmp fun _ => rfl

/-! ## VCVT (12 R278–R280) -/

/-- A strand that has no instruction in hand sees the skeins of its core. -/
theorem skeinSeen_own {s : State} (hv : (own s).view = none) (n : Nat) :
    skeinSeen s s.cur n = Table.get 0 (ownCore s).skeins n := by
  have hv' : (s.strand s.cur).view = none := hv
  unfold skeinSeen
  rw [hv']
  rfl

/-- TSK where its skein converts every enabled element. -/
theorem exec_vcvtTsk {s : State} {sat : Bool} {rm : BitVec 2} {o : LaneOps} {a : Strip} {fl : Nat} (hp : plain s = true)
    (ht : tsk (Table.get 0 (ownCore s).skeins o.pa.toNat) o.fmt sat (codeOf rm (own s).fpctl) ((own s).drow.toNat % 65536)
      (laneGuard o (own s)) (own s).a = .ok a fl) :
    exec (.vcvtTsk sat rm o) s = .next (ran (.vcvtTsk sat rm o) 0 (resultWrites (a, fl)) s) := by
  have hb : (tskBody sat rm o (own s)).gives s { ws := resultWrites (a, fl) } s := by
    refine Act.gives_bind (Act.gives_get s) ?_
    simp only [skeinSeen_own (plain_facts hp).view, ht]
    exact Act.gives_pure _ s
  exact run_results hp hb (resultWrites_simple _)

/-- Settles O15: conversions to a format, from a packed format, and through a skein. -/
theorem vcvtCompletes : Obligations.VcvtCompletes := by
  intro sat rm o
  refine ⟨?_, ?_, ?_, ?_, ?_, ?_, ?_, ?_, ?_, ?_, ?_, laneRuns_from fun _ => rfl, laneRuns_from fun _ => rfl,
    laneRuns_from fun _ => rfl, fun _ _ _ hp ht => exec_vcvtTsk hp ht⟩
  all_goals exact laneRuns_cvt fun _ => rfl

/-! ## VPERM, VRED and VFUN (12 R281–R283) -/

/-- Settles O16: BCAST, REV and IOTA move the lanes of A alone, the others those of A and b. -/
theorem vpermCompletes : Obligations.VpermCompletes := by
  intro o
  refine ⟨laneRuns_move fun _ => rfl, laneRuns_move fun _ => rfl, laneRuns_move fun _ => rfl,
    ?_, ?_, ?_, ?_, ?_, ?_, ?_, ?_, ?_⟩
  all_goals exact laneRuns_move2 fun _ => rfl

/-- Settles O17: the eight reductions are trees, the seven functions map over the lanes. -/
theorem vredVfunComplete : Obligations.VredVfunComplete := by
  intro sat rm o
  refine ⟨?_, ?_, ?_, ?_, ?_, ?_, ?_, ?_, laneRuns_map fun _ => rfl, laneRuns_map fun _ => rfl, laneRuns_map fun _ => rfl,
    laneRuns_map fun _ => rfl, laneRuns_map fun _ => rfl, laneRuns_map fun _ => rfl, laneRuns_map fun _ => rfl⟩
  all_goals exact laneRuns_red fun _ => rfl

/-! ## The 16-bit forms (12 R285) -/

/-- Settles O11: each form runs the body of its 32-bit form, with the fields that it stands for. -/
theorem halfFormsComplete : Obligations.HalfFormsComplete := by
  intro o
  refine ⟨?_, ?_, ?_, ?_, ?_, laneRuns_fmal fun _ => rfl, ?_, ?_, ?_, ?_, ?_, laneRuns_red fun _ => rfl,
    laneRuns_cmp fun _ => rfl, fun ch k inc p => ⟨?_, ?_⟩⟩
  all_goals exact laneRuns_map fun _ => rfl

/-! ## Operands in the own scratchpad (12 R269) -/

/-- An operand b of memory is the lanes of the strip at P⟨pb⟩. -/
theorem operandB_strip {o : LaneOps} (ho : o.cb = false) (k : StrandId) (x : Strand) (w : Nat) (lanes : List Nat) :
    operandB k x o w lanes = stripLanes k x w o.pb lanes := if_neg (by simp [ho])

section
variable {s : State} {o : LaneOps} (ho : o.cb = false)
include ho

theorem operandB_own {lanes : List Nat} (hb : lanesReady s o.pb (laneBits o.fmt) lanes = true) :
    (operandB s.cur (own s) o (laneBits o.fmt) lanes).gives s (laneFrom s o.pb (laneBits o.fmt) lanes) s := by
  rw [operandB_strip ho]
  exact stripLanes_own hb

/-- Both operands of a fused form: a is read first, and leaves the machine as it was for b. -/
theorem operandsOf_own (ha : lanesReady s o.pa (laneBits o.fmt) (guardLanes o (own s)) = true)
    (hb : lanesReady s o.pb (laneBits o.fmt) (guardLanes o (own s)) = true) :
    (operandsOf o lanesRead lanesRead s.cur (own s)).gives s (laneFrom s o.pa (laneBits o.fmt) (guardLanes o (own s)),
      laneFrom s o.pb (laneBits o.fmt) (guardLanes o (own s))) s :=
  Act.gives_bind (stripLanes_own ha) (Act.gives_bind (operandB_own ho hb) (Act.gives_pure _ s))

/-- A form that completes wherever both operands are read completes here, with the operands as they stand. -/
theorem laneRuns.own {i : Instr} {f : LaneResult} (hf : laneRuns i o lanesRead lanesRead f) (hp : plain s = true)
    (ha : lanesReady s o.pa (laneBits o.fmt) (guardLanes o (own s)) = true)
    (hb : lanesReady s o.pb (laneBits o.fmt) (guardLanes o (own s)) = true) :
    exec i s = .next (ran i 0 (f (own s) (laneFrom s o.pa (laneBits o.fmt) (guardLanes o (own s)))
      (laneFrom s o.pb (laneBits o.fmt) (guardLanes o (own s))) ++ laneBumps o (own s)) s) := by
  have hv := operandsOf_own ho ha hb
  exact hf s s _ hp hv
end

/-- Settles O18: FMA, FMS and DOT complete wherever both operands are read, and here they are. -/
theorem scratchOperandRead : Obligations.ScratchOperandRead := by
  intro s o lanes ho hb
  refine ⟨operandB_own ho hb, ?_⟩
  rintro hp rfl ha sat rm
  obtain ⟨-, -, -, -, hfma, hfms, -⟩ := variCompletes sat rm o
  obtain ⟨-, -, -, -, hdot, -⟩ := vredVfunComplete sat rm o
  exact ⟨operandsOf_own ho ha hb, hfma.own ho hp ha hb, hfms.own ho hp ha hb, hdot.own ho hp ha hb⟩

end Sys2Proof.Machine
end

section
/-!
PROOFS. MemoryLaws.lean: loads and stores complete wherever they are answered, and what they do in the own scratchpad
(O20–O25).
-/
namespace Sys2Proof.Machine

/-! ## Instructions whose body changes no strand -/

section
variable {i : Instr} {la : Nat} {body : Strand → Act Effect} {s t : State} {ws : List RegWrite}
  (hp : plain s = true) (hc : Calm s t)
include hp hc

/-- A body with results: the strand takes them, and the rest is as the body leaves it. -/
theorem run_completes (hb : (body (own s)).gives s { ws := ws } t) (hw : ws.all RegWrite.simple = true) :
    run i la (destsOf i) body s = .next (ran i la ws t) := by
  obtain ⟨hpt, hct, -⟩ := hc.plain hp
  exact issue_after (plain_facts hp).view hb hpt hct hw rfl rfl

/-- A body that asks an item for its reply. -/
theorem run_launches {id : Nat} (hb : (body (own s)).gives s { ws := ws, async := some id } t) :
    run i la (destsOf i) body s = .next (launched i la id ws t) := by
  obtain ⟨hpt, hct, -⟩ := hc.plain hp
  exact issue_async (plain_facts hp).view hb hpt hct rfl rfl rfl

/-- A body that may ask an item for its reply. -/
theorem run_stores {id : Option Nat} (hb : (body (own s)).gives s { ws := ws, async := id } t)
    (hw : ws.all RegWrite.simple = true) : run i la (destsOf i) body s = .next (ranOr i la id ws t) := by
  obtain ⟨hpt, hct, -⟩ := hc.plain hp
  exact ranOr_of (plain_facts hp).view hpt hct hb hw
end

/-- A result in A, and a post-increment. -/
theorem loaded_simple (a : Strip) (x : Strand) (inc : Bool) (p : BitVec 3) :
    (RegWrite.a a :: bump x inc p).all RegWrite.simple = true := bump_simple x inc p

/-! ## The arms of the loads and stores -/

theorem exec_lda (o : MemOps) (s : State) :
    exec (.lda o) s = perform (.lda o) o.la (loadBody o (coveredOn o) (loadMerge o)) s := rfl
theorem exec_ldaZx (o : MemOps) (s : State) :
    exec (.ldaZx o) s = perform (.ldaZx o) o.la (loadBody o (coveredOn o) (loadZero o)) s := rfl
theorem exec_ldaBc (o : MemOps) (s : State) :
    exec (.ldaBc o) s = perform (.ldaBc o) o.la (loadBody o (firstIfAny o) (loadBroadcast o)) s := rfl
theorem exec_randRaw (la : BitVec 4) (k : BitVec 2) (inc : Bool) (p : BitVec 3) (s : State) :
    exec (.randRaw la k inc p) s = perform (.randRaw la k inc p) la (randBody k inc p id) s := rfl
theorem exec_randUnif (la : BitVec 4) (k : BitVec 2) (inc : Bool) (p : BitVec 3) (s : State) :
    exec (.randUnif la k inc p) s = perform (.randUnif la k inc p) la (randBody k inc p unif) s := rfl
theorem exec_sta (o : MemOps) (s : State) : exec (.sta o) s = perform (.sta o) o.la (staBody o) s := rfl

/-! ## Loads (13 R288–R290; 12 R284) -/

/-- What a load of format M leaves: an acquire is performed (08 R183). -/
def loadDone (o : MemOps) (c : CoreId) (t : State) : State := if o.ord = 1 then acquire c t else t

theorem quiet_loadDone (o : MemOps) (c : CoreId) (t : State) : Quiet t (loadDone o c t) := by
  unfold loadDone
  split
  · exact quiet_acquire c t
  · exact Quiet.refl t

/-- The runs of lanes that a load of format M asks for. -/
def loadReqs (o : MemOps) (x : Strand) (lanes : List Nat) : List (Nat × Nat) :=
  (runs lanes).map fun r => (laneVa (x.ptr o.p).base (laneBytes o.fmt) r.1, r.2 * laneBytes o.fmt)

/-- The lanes of a load, of the bytes read. -/
def loadLanes (o : MemOps) (x : Strand) (l : List (Nat × List Byte)) (i : Nat) : Nat :=
  ofBytes (gathered l (laneVa (x.ptr o.p).base (laneBytes o.fmt) i) (laneBytes o.fmt))

section
variable {o : MemOps} {s t : State} {l : List (Nat × List Byte)}

theorem gives_loadBody {lanes : Strand → List Nat} {f : Strand → (Nat → Nat) → Strip} {x : Strand}
    (hm : memOk o x (lanes x) = true) (hl : (load s.cur .read (loadReqs o x (lanes x))).gives s l t) :
    (loadBody o lanes f x).gives s { ws := .a (f x (loadLanes o x l)) :: memBump o x } (loadDone o s.cur.core t) := by
  refine Act.gives_bind (Act.gives_get s) (Act.gives_bind (gives_memCheck hm s) (Act.gives_bind hl ?_))
  by_cases ho : o.ord = 1
  · rw [show loadDone o s.cur.core t = acquire s.cur.core t from if_pos ho]
    exact Act.gives_ite_pos ho (Act.gives_bind (Act.gives_modify _ t) (Act.gives_pure _ _))
  · rw [show loadDone o s.cur.core t = t from if_neg ho]
    exact Act.gives_ite_neg ho (Act.gives_pure _ t)

/-- A load of format M, whichever lanes it takes. -/
theorem exec_load {i : Instr} {lanes : Strand → List Nat} {f : Strand → (Nat → Nat) → Strip} (hp : plain s = true)
    (hx : exec i s = perform i o.la (loadBody o lanes f) s) (hm : memOk o (own s) (lanes (own s)) = true)
    (hl : (load s.cur .read (loadReqs o (own s) (lanes (own s)))).gives s l t) :
    exec i s = .next (ran i o.la.toNat (.a (f (own s) (loadLanes o (own s) l)) :: memBump o (own s))
      (loadDone o s.cur.core t)) :=
  hx.trans (run_completes hp ((quiet_load _ _ _ _ _ _ hl).trans (quiet_loadDone _ _ _)).calm (gives_loadBody hm hl)
    (loaded_simple _ _ _ _))

theorem elementsAligned_gives {n : Nat} {vas : List Nat} (h : ∀ a ∈ vas, a % n = 0) (s : State) :
    (elementsAligned n vas).gives s () s := by
  have hn : (vas.find? fun a => a % n != 0) = none := by
    rw [List.find?_eq_none]
    intro a ha
    simp [h a ha]
  unfold elementsAligned
  rw [hn]
  exact Act.gives_pure () s

theorem exec_gathGather (hp : plain s = true) :
    let x := own s
    let n := laneBytes o.fmt
    let w := laneBits o.fmt
    let va := fun i => elementVa o x (lane w x.a i)
    let lanes := lanesOn o x (1024 / w)
    (∀ i ∈ lanes, va i % n = 0) → (load s.cur .read (lanes.map fun i => (va i, n))).gives s l t →
    exec (.gathGather o) s = .next (ran (.gathGather o) o.la.toNat
      (.a (mapLanes w (x.guard o.k) x.a fun i => (ofBytes (gathered l (va i) n), 0)).1 :: memBump o x) t) := by
  intro x n w va lanes ha hl
  have ha' : ∀ a ∈ lanes.map va, a % n = 0 := by
    intro a h
    obtain ⟨i, hi, rfl⟩ := List.mem_map.1 h
    exact ha i hi
  refine run_completes hp (quiet_load _ _ _ _ _ _ hl).calm ?_ (loaded_simple _ _ _ _)
  exact Act.gives_bind (Act.gives_get s) (Act.gives_bind (elementsAligned_gives ha' s)
    (Act.gives_bind hl (Act.gives_pure _ t)))

theorem packLanes_congr {w n : Nat} {f g : Nat → Nat} (h : ∀ i < n, f i = g i) : packLanes w f n = packLanes w g n := by
  induction n with
  | zero => rfl
  | succ n ih => rw [packLanes, packLanes, ih fun i hi => h i (hi.trans n.lt_succ_self), h n n.lt_succ_self]

theorem orFlags_congr {n : Nat} {f g : Nat → Nat} (h : ∀ i < n, f i = g i) : orFlags f n = orFlags g n := by
  induction n with
  | zero => rfl
  | succ n ih => rw [orFlags, orFlags, ih fun i hi => h i (hi.trans n.lt_succ_self), h n n.lt_succ_self]

/-- Only the values of enabled lanes matter (12 R271). -/
theorem mapLanes_congr {w : Nat} {g : Nat → Bool} {a : Strip} {f f' : Nat → Nat × Nat}
    (h : ∀ i < 1024 / w, g i = true → f i = f' i) : mapLanes w g a f = mapLanes w g a f' := by
  refine Prod.ext (congrArg (BitVec.ofNat 1024) (packLanes_congr fun i hi => ?_)) (orFlags_congr fun i hi => ?_)
  all_goals
    split
    next hg => rw [h i hi hg]
    next => rfl

theorem guard_of_pick_nil {n : Nat} {g : Nat → Bool} (h : pick n g = []) {i : Nat} (hi : i < n) : g i = false := by
  have := List.filter_eq_nil_iff.1 h i (List.mem_range.2 hi)
  simpa using this

/-- The key of RAND: read where a lane is enabled, aligned (12 R284). -/
def RandKey (s t : State) (l : List (Nat × List Byte)) (k : BitVec 2) (p : BitVec 3) (key : Nat) : Prop :=
  pick 32 ((own s).guard k) = [] ∧ t = s ∨ pick 32 ((own s).guard k) ≠ [] ∧ ((own s).ptr p).base.toNat % 4 = 0 ∧
    (load s.cur .read [(((own s).ptr p).base.toNat, 8)]).gives s l t ∧
    key = ofBytes (gathered l ((own s).ptr p).base.toNat 8)

theorem RandKey.calm {k : BitVec 2} {p : BitVec 3} {key : Nat} (h : RandKey s t l k p key) : Calm s t := by
  obtain ⟨-, rfl⟩ | ⟨-, -, hl, -⟩ := h
  · exact Calm.refl _
  · exact (quiet_load _ _ _ _ _ _ hl).calm

theorem exec_rand {i : Instr} {la : BitVec 4} {k : BitVec 2} {inc : Bool} {p : BitVec 3} {key : Nat} {f : Nat → Nat}
    (hp : plain s = true) (hx : exec i s = perform i la (randBody k inc p f) s) (h : RandKey s t l k p key) :
    exec i s = .next (ran i la.toNat (.a (mapLanes 32 ((own s).guard k) (own s).a
      fun j => (f (randWord (own s).a key j), 0)).1 :: bump (own s) inc p) t) := by
  refine hx.trans (run_completes hp h.calm ?_ (loaded_simple _ _ _ _))
  refine Act.gives_bind (Act.gives_get s) ?_
  obtain ⟨hn, rfl⟩ | ⟨hn, ha, hl, rfl⟩ := h
  · have hv : (mapLanes 32 ((own t).guard k) (own t).a fun j => (f (randWord (own t).a 0 j), 0)) =
        mapLanes 32 ((own t).guard k) (own t).a fun j => (f (randWord (own t).a key j), 0) :=
      mapLanes_congr fun j hj hg => absurd hg (by simpa using guard_of_pick_nil hn hj)
    have hoff : ¬(!(pick 32 ((own t).guard k)).isEmpty) = true := by simp [hn]
    rw [← hv]
    exact Act.gives_ite_neg (by simp [hn]) (Act.gives_ite_neg hoff (Act.gives_bind (Act.gives_pure 0 t) (Act.gives_pure _ t)))
  · have hon : (!(pick 32 ((own s).guard k)).isEmpty) = true := by simp [hn]
    exact Act.gives_ite_neg (by simp [ha]) (Act.gives_ite_pos hon
      (Act.gives_bind (Act.gives_bind hl (Act.gives_pure _ t)) (Act.gives_pure _ t)))
end

/-- Settles O20: each load's body gives its lanes wherever the load is answered, and no load changes a strand. -/
theorem loadsComplete : Obligations.LoadsComplete := by
  intro o s t l hp
  refine ⟨fun hm hl => ⟨exec_load hp (exec_lda o s) hm hl, exec_load hp (exec_ldaZx o s) hm hl⟩,
    fun hm hl => exec_load hp (exec_ldaBc o s) hm hl, exec_gathGather hp,
    fun la k inc p key hk => ⟨?_, exec_rand hp (exec_randUnif la k inc p s) hk⟩⟩
  have hraw := exec_rand hp (exec_randRaw la k inc p s) hk
  simpa only [id_eq] using hraw

/-- Settles O25: every action of a load, and of the reading of operands, is quiet. -/
theorem readsStoreNothing : Obligations.ReadsStoreNothing := by
  intro s t k hw h
  have hq : Quiet s t := by
    obtain ⟨acc, reqs, v, hl⟩ | ⟨o, ra, rb, v, hl⟩ := h
    · exact quiet_load _ _ _ _ _ _ hl
    · exact quiet_operandsOf _ _ _ _ _ _ _ _ hl
  obtain ⟨-, hs⟩ := hq.scratch hw
  exact ⟨fun c a => by rw [hs c], fun a => by rw [hq.dmem], fun a => by rw [hq.hostMem], fun a => by rw [hq.remoteMem],
    hq.strands⟩

/-! ## Stores (13 R289–R291; 11 R245, R257; 08 R183) -/

theorem awaitCore_done {k : StrandId} {s : State} (h : corePerformed s k = true) : (awaitCore k).gives s () s :=
  Act.gives_bind (Act.gives_get s) (Act.gives_ite_pos h (Act.gives_pure () s))

section
variable {s t : State} {id : Option Nat}

/-- A store that is no push: a release waits for what is before it. -/
theorem gives_staBody {o : MemOps} {x : Strand} (hm : memOk o x (coveredOn o x) = true) (hn : pushes o x = false)
    (hr : o.ord = 2 → corePerformed s s.cur = true) (hs : (store s.cur (staReqs o x)).gives s id t) :
    (staBody o x).gives s { ws := memBump o x, async := id } t := by
  refine Act.gives_bind (Act.gives_get s) (Act.gives_bind (gives_memCheck hm s) ?_)
  refine Act.gives_ite_neg (by rw [hn]; exact Bool.false_ne_true) ?_
  have hend := Act.gives_bind (f := fun id => pure ({ ws := memBump o x, async := id } : Effect)) hs (Act.gives_pure _ t)
  by_cases ho : o.ord = 2
  · exact Act.gives_ite_pos ho (Act.gives_bind (awaitCore_done (hr ho)) hend)
  · exact Act.gives_ite_neg ho hend

/-- The 16-bit store covers the strip, and so is no push of 64 bytes. -/
theorem pushes_halfSta (k fmt : BitVec 2) (inc : Bool) (p : BitVec 3) (x : Strand) :
    pushes (halfSta k fmt inc p) x = false := by
  simp [pushes, halfSta]

variable (hp : plain s = true)
include hp

theorem exec_staReqs {i : Instr} {la : Nat} {o : MemOps} (hx : exec i s = run i la (destsOf i) (staBody o) s)
    (hm : memOk o (own s) (coveredOn o (own s)) = true) (hn : pushes o (own s) = false)
    (hr : o.ord = 2 → corePerformed s s.cur = true) (hs : (store s.cur (staReqs o (own s))).gives s id t) :
    exec i s = .next (ranOr i la id (memBump o (own s)) t) :=
  hx.trans (run_stores hp (calm_store _ _ _ _ _ hs) (gives_staBody hm hn hr hs) (bump_simple _ _ _))

theorem exec_gathScatter {o : MemOps} (ha : ∀ r ∈ scatterReqs o (own s), r.1 % laneBytes o.fmt = 0)
    (hs : (store s.cur (scatterReqs o (own s))).gives s id t) :
    exec (.gathScatter o) s = .next (ranOr (.gathScatter o) o.la.toNat id (memBump o (own s)) t) := by
  have ha' : ∀ a ∈ (scatterReqs o (own s)).map Prod.fst, a % laneBytes o.fmt = 0 := by
    intro a h
    obtain ⟨r, hr, rfl⟩ := List.mem_map.1 h
    exact ha r hr
  exact run_stores hp (calm_store _ _ _ _ _ hs) (Act.gives_bind (Act.gives_get s)
    (Act.gives_bind (elementsAligned_gives ha' s) (Act.gives_bind hs (Act.gives_pure _ t)))) (bump_simple _ _ _)

theorem exec_lineFill (la : BitVec 4) {n : BitVec 6} {sz : BitVec 3} (d : Bool) {p : BitVec 3}
    (ha : ((own s).ptr p).base.toNat % 2 ^ sz.toNat = 0)
    (hs : (store s.cur [(((own s).ptr p).base.toNat, fillBytes (own s) (lineLength n sz))]).gives s id t) :
    exec (.lineFill la n sz d p) s = .next (ranOr (.lineFill la n sz d p) la.toNat id (bump (own s) d p) t) :=
  run_stores hp (calm_store _ _ _ _ _ hs) (Act.gives_bind (Act.gives_get s)
    (Act.gives_bind (lineAligned_gives ha) (Act.gives_bind hs (Act.gives_pure _ t)))) (bump_simple _ _ _)

theorem exec_lineMove (la : BitVec 4) {n : BitVec 6} {sz : BitVec 3} (si : Bool) {q : BitVec 3} (d : Bool) {p : BitVec 3}
    (hd : ((own s).ptr p).base.toNat % 2 ^ sz.toNat = 0) (hq : ((own s).ptr q).base.toNat % 2 ^ sz.toNat = 0)
    (hs : (moveBytes s.cur ((own s).ptr p).base.toNat ((own s).ptr q).base.toNat (lineLength n sz)).gives s id t) :
    exec (.lineMove la n sz si q d p) s =
      .next (ranOr (.lineMove la n sz si q d p) la.toNat id (moveBumps (own s) d p si q) t) :=
  run_stores hp (calm_moveBytes _ _ _ _ _ _ _ hs) (Act.gives_bind (Act.gives_get s) (Act.gives_bind (lineAligned_gives hd)
    (Act.gives_bind (lineAligned_gives hq) (Act.gives_bind hs (Act.gives_pure _ t))))) (moveBumps_simple _ _ _ _ _)

theorem exec_pmovGsv (la : BitVec 4) (c : Bool) {n m q : BitVec 3} (ha : ((own s).ptr q).base.toNat % 16 = 0)
    (hs : (store s.cur [(((own s).ptr q).base.toNat,
      (groupOf n m).flatMap fun i => toBytes 16 ((own s).ptr i).image)]).gives s id t) :
    exec (.pmovGsv la c n m q) s = .next (ranOr (.pmovGsv la c n m q) la.toNat id (bump (own s) c q) t) :=
  run_stores hp (calm_store _ _ _ _ _ hs) (Act.gives_bind (Act.gives_get s)
    (Act.gives_bind (groupPlace_gives ha s) (Act.gives_bind hs (Act.gives_pure _ t)))) (bump_simple _ _ _)
end

theorem patPlace_gives {va : W64} (hi : inScratch va 32 = true) (ha : va.toNat % 32 = 0) (s : State) :
    (patPlace va).gives s () s :=
  Act.gives_ite_pos (by simp [hi, ha]) (Act.gives_pure () s)

theorem exec_patnGet {s t : State} {id : Option Nat} (hp : plain s = true) (la : BitVec 4) {w : BitVec 2} {p : BitVec 3}
    (hi : inScratch ((own s).ptr p).base 32 = true) (ha : ((own s).ptr p).base.toNat % 32 = 0)
    (hs : (store s.cur [(((own s).ptr p).base.toNat, toBytes 32 ((own s).pat.toList.getD w.toNat 0).toNat)]).gives s id t) :
    exec (.patnGet la w p) s = .next (ranOr (.patnGet la w p) la.toNat id [] t) :=
  run_stores hp (calm_store _ _ _ _ _ hs) (Act.gives_bind (Act.gives_get s)
    (Act.gives_bind (patPlace_gives hi ha s) (Act.gives_bind hs (Act.gives_pure _ t)))) rfl

/-- Settles O22: each store's body stores its pieces wherever they may be stored, and no store changes a strand. -/
theorem storesComplete : Obligations.StoresComplete := by
  intro s t id hp
  exact ⟨fun o hm hn hr hs => exec_staReqs hp (exec_sta o s) hm hn hr hs,
    fun k fmt inc p hm hs => exec_staReqs hp rfl hm (pushes_halfSta k fmt inc p _) (fun h => absurd h (by decide : (0 : BitVec 2) ≠ 2)) hs,
    fun o ha hs => exec_gathScatter hp ha hs, fun la n sz d p ha hs => exec_lineFill hp la d ha hs,
    fun la n sz si q d p hd hq hs => exec_lineMove hp la si d hd hq hs,
    fun la c n m q ha hs => exec_pmovGsv hp la c ha hs, fun la w p hi ha hs => exec_patnGet hp la hi ha hs⟩

/-! ## Frames of a store to a scratchpad (08 R191) -/

section
variable {m : Memory} (hm : m.wf = true)
include hm

/-- Bytes written one after the other. -/
theorem Memory.byte_foldl_of_not_mem (bs : List (Nat × Byte)) {a : Nat} (h : a ∉ bs.map Prod.fst) :
    Memory.byte (bs.foldl (fun m b => Memory.setByte m b.1 b.2) m) a = m.byte a := by
  induction bs generalizing m with
  | nil => rfl
  | cons b bs ih =>
    obtain ⟨hb, hbs⟩ := not_or.1 (mt List.mem_cons.2 h)
    rw [List.foldl_cons, ih (Memory.wf_setByte m b.1 b.2 hm) hbs, Memory.byte_setByte_ne m b.2 hm hb]

theorem Memory.byte_foldl_of_last (l r : List (Nat × Byte)) {a : Nat} (v : Byte) (h : a ∉ r.map Prod.fst) :
    Memory.byte ((l ++ (a, v) :: r).foldl (fun m b => Memory.setByte m b.1 b.2) m) a = v := by
  have hl := Memory.wf_foldl l m hm
  rw [List.foldl_append, List.foldl_cons, Memory.byte_foldl_of_not_mem (Memory.wf_setByte _ a v hl) r h]
  exact Memory.byte_setByte _ a v hl
end

section
variable {s : State} (c : CoreId) (hw : Table.wf {} s.cores = true)
include hw

theorem State.core_setCore (x : Core) : (s.setCore c x).core c = x := Table.get_set _ _ _ _ hw
theorem State.core_setCore_ne (x : Core) {d : CoreId} (hd : d ≠ c) : (s.setCore c x).core d = s.core d :=
  Table.get_set_ne _ _ _ hw hd

theorem scratchStore_scratch (bs : List (Nat × Byte)) :
    ((scratchStore c bs s).core c).scratch = bs.foldl (fun m b => Memory.setByte m b.1 b.2) (s.core c).scratch :=
  congrArg Core.scratch (State.core_setCore c hw _)
end

/-- Settles O24: the scratchpad is the old one with the bytes written in their order, and no other part of the machine is
written. -/
theorem scratchStoreFrame : Obligations.ScratchStoreFrame := by
  intro s c bs hw hm t
  have hs : (t.core c).scratch = _ := scratchStore_scratch c hw bs
  refine ⟨fun a ha => ?_, fun l r a v hbs ha => ?_, fun d hd => State.core_setCore_ne c hw _ hd, ?_,
    Table.wf_set _ _ _ _ hw, rfl, rfl, rfl, rfl⟩
  · rw [hs, Memory.byte_foldl_of_not_mem hm bs ha]
  · rw [hs, hbs, Memory.byte_foldl_of_last hm l r v ha]
  · rw [hs]
    exact Memory.wf_foldl bs _ hm

/-! ## STA to the own scratchpad (08 R191) -/

theorem store_ready {s : State} {reqs : List (Nat × List Byte)} (h : scratchWrites s reqs = true) :
    (store s.cur reqs).gives s none (scratchStore s.cur.core (scratchBytes reqs) s) := by
  simp only [scratchWrites, Bool.and_eq_true, List.all_eq_true, decide_eq_true_eq, Bool.not_eq_true'] at h
  obtain ⟨hq, hr⟩ := h
  refine store_own reqs hq fun r hm => ?_
  obtain ⟨⟨hrun, hz⟩, ho⟩ := hr r hm
  exact ⟨hrun, hz, ho⟩

/-- Settles O23: STA completes with what its store leaves, and a store to the own scratchpad is performed at once. -/
theorem staScratchStores : Obligations.StaScratchStores := fun o s hp h0 hm hn hw =>
  exec_staReqs hp (exec_sta o s) hm hn (fun h2 => absurd (h0.symm.trans h2) (by decide : (0 : BitVec 2) ≠ 2)) (store_ready hw)

/-! ## LDA of two lanes at once (13 R289) -/

/-- LDA of two lanes of 64 bits, with no mask. -/
def twoLanes : MemOps := { la := 0, k := 0, fmt := 0, ord := 0, sz := 4, ip := false, p := 0 }

/-- P0 at the start of the own scratchpad, whose scoreboard holds a landing of no byte between the two lanes. -/
def emptyLandingBetween : State :=
  { State.reset with
    cur := 0
    ready := [0]
    strands := [(0, { state := .ready, role := .lead,
                      p := Vector.replicate 8 { base := BitVec.ofNat 64 scratchBase, stride := 0, count := 0 } })]
    cores := [(0, { ranges := [{ off := 8, len := 0, zone := false, id := 1, landed := 0, strand := 0 }] })] }

/-- The two lanes are one access, and that waits for the landing in it. -/
theorem lda_waits_for_empty_landing : (issue (.lda twoLanes) 0 (destsOf (.lda twoLanes))
    (loadBody twoLanes (coveredOn twoLanes) (loadMerge twoLanes)) emptyLandingBetween).ready = [] := by
  decide +kernel

/-- Refutes O21: neither lane meets the landing of no byte that stands between them, and so each alone can be read; the run of both,
which LDA asks for at once, holds the landing's place, and LDA waits. Such a landing is in no scoreboard that the model's own
instructions fill (14 R330 refuses a zone of no byte), but the statement is about every machine. -/
theorem not_ldaScratchValue : ¬ Obligations.LdaScratchValue := by
  intro h
  have hlda := h twoLanes emptyLandingBetween (by decide +kernel) rfl (by decide +kernel) (by decide +kernel)
  have hran := Host.Outcome.next.inj ((exec_lda _ _).symm.trans hlda)
  exact ran_ready_ne_nil _ _ _ _ ((congrArg State.ready hran).symm.trans lda_waits_for_empty_landing)

end Sys2Proof.Machine
end

section
/-!
PROOFS. SkeinLaws.lean: pattern slots and skeins loaded from the own scratchpad and stored there (O30).
-/
namespace Sys2Proof.Machine

/-! ## A skein taken at commit (10 R233, 11 R257) -/

/-- A skein of a core written. -/
def setSkein (c : CoreId) (n : BitVec 6) (v : BitVec 512) (s : State) : State :=
  s.setCore c { s.core c with skeins := Table.set 0 (s.core c).skeins n.toNat v }

theorem skeins_setSkein (c : CoreId) (n : BitVec 6) {v : BitVec 512} (hv : v ≠ 0) (s : State) :
    Table.get 0 ((setSkein c n v s).core c).skeins n.toNat = v := by
  have hget : Table.get 0 (Table.set 0 (s.core c).skeins n.toNat v) n.toNat = v := Table.get_set_self _ _ _ hv
  have hcore : (setSkein c n v s).core c = { s.core c with skeins := Table.set 0 (s.core c).skeins n.toNat v } := by
    refine Table.get_set_self _ s.cores c fun h => hv ?_
    rw [← hget, show Table.set 0 (s.core c).skeins n.toNat v = [] from congrArg Core.skeins h]
    rfl
  rw [hcore]
  exact hget

/-- A plain strand with nothing, or with an instruction of its window, pending may issue. -/
theorem PlainFacts.canIssue_moved {s : State} (h : PlainFacts s) (pc : W64) {l : List Pending} (hl : blocked l = false) :
    ((own s).moved pc l).canIssue = true := by
  have hb : (!blocked l) = true := by rw [hl]; rfl
  unfold own
  simp [Strand.canIssue, h.ready, h.paused, h.yielded, h.redo, h.stopping, h.view, hb]

section
variable {s : State} {k : StrandId} {x : Strand} {p : Pending} (hx : x.live = true) (next : W64)
include hx

/-- A lone pending instruction whose window goes on does not commit. -/
theorem commitReady_left (hl : p.left ≠ 0) :
    commitReady k 1 (s.setStrand k (x.moved next [p])) = s.setStrand k (x.moved next [p]) := by
  have hg : (s.setStrand k (x.moved next [p])).strand k = x.moved next [p] := State.strand_setStrand (moved_ne_default hx)
  simp only [commitReady, hg, Strand.moved_pending]
  exact if_pos (bne_iff_ne.2 hl)

/-- One whose result is a skein writes it in the core. -/
theorem commitReady_skein {n : BitVec 6} {v : BitVec 512} (hl : p.left = 0) (hp : p.state = .done [.skein n v]) :
    commitReady k 1 (s.setStrand k (x.moved next [p])) = (setSkein k.core n v s).setStrand k (x.moved next []) := by
  have hn : x.moved next [p] ≠ {} := moved_ne_default hx
  have hg : (s.setStrand k (x.moved next [p])).strand k = x.moved next [p] := State.strand_setStrand hn
  simp only [commitReady, hg, Strand.moved_pending, hp, hl, bne_self_eq_false, Bool.false_eq_true, if_false, applyWrites,
    State.setCore_strand]
  exact State.setStrand_setStrand (s := setSkein k.core n v s) hn
end

/-- An instruction of a strand that is complete with these results, and not committed yet. -/
def doneWith (i : Instr) (la : Nat) (ws : List RegWrite) (x : Strand) : Pending :=
  { parcels := parcelsOf i, pc := x.pc, left := la, dests := destsOf i, state := .done ws }

theorem PlainFacts.live {s : State} (h : PlainFacts s) : (own s).live = true := by
  unfold own
  rw [Strand.live, h.ready]
  rfl

section
variable {s t : State} {i : Instr} {la : Nat} {body : Strand → Act Effect} (hp : plain s = true) (hc : Calm s t)
include hp hc

/-- An instruction with results of any kind: it joins the pending ones, and what may commit does. -/
theorem run_joins {ws : List RegWrite} (hb : (body (own s)).gives s { ws := ws } t) :
    run i la (destsOf i) body s = .next (clearReads t.cur (requeue t.cur (commitReady t.cur 1
      (t.setStrand t.cur ((own t).moved (nextPc i t) [doneWith i la ws (own t)]))))) := by
  obtain ⟨hpt, hct, -⟩ := hc.plain hp
  have h := plain_facts hpt
  have hb' : ExceptT.run (body (own s)) s = (.ok { ws := ws }, t) := hb
  have hl : (t.strand s.cur).live = true := hct ▸ h.live
  simp only [run, issue, seen_plain (plain_facts hp).view, hb', hl, if_true, Option.getD_none]
  rw [← hct, retire_joins h i la (.done ws) (nextPc i t) (fun _ hk => absurd hk (by simp [Pending.kept])) rfl rfl]
  rfl

/-- With a lookahead the results are pending. -/
theorem run_pends {ws : List RegWrite} (hl : la ≠ 0) (hb : (body (own s)).gives s { ws := ws } t) :
    run i la (destsOf i) body s = .next (ran i la ws t) := by
  have h := plain_facts (hc.plain hp).1
  have hcan : ((own t).moved (nextPc i t) [doneWith i la ws (own t)]).canIssue = true :=
    h.canIssue_moved _ (by simp [blocked, doneWith, hl])
  rw [run_joins hp hc hb, commitReady_left h.live _ hl, requeue_canIssue hcan]
  simp only [ran, issued, if_neg hl]
  rfl

/-- Without one a skein is written at once. -/
theorem run_writes_skein {n : BitVec 6} {v : BitVec 512} (hb : (body (own s)).gives s { ws := [.skein n v] } t) :
    run i 0 (destsOf i) body s = .next (ran i 0 [] (setSkein t.cur.core n v t)) := by
  have h := plain_facts (hc.plain hp).1
  have hcan : ((own t).moved (nextPc i t) []).canIssue = true := h.canIssue_moved _ rfl
  have hpe : (own t).moved (nextPc i t) [] = { own t with pc := nextPc i t } := by
    unfold Strand.moved own
    rw [← h.pending]
  rw [run_joins hp hc hb, commitReady_skein h.live _ rfl rfl]
  refine (congrArg (fun u => Host.Outcome.next (clearReads t.cur u))
    (requeue_canIssue (s := setSkein t.cur.core n v t) hcan)).trans ?_
  rw [hpe]
  rfl
end

/-- A strand in hand that goes on stands as its instruction left it. -/
theorem ran_strand {t : State} (i : Instr) (la : Nat) (ws : List RegWrite) (hr : (own t).state = .ready) :
    (ran i la ws t).strand t.cur = issued i la ws (nextPc i t) (own t) := by
  refine Table.get_set_self _ t.strands t.cur (Strand.ne_default ?_)
  unfold issued
  split
  · exact (Strand.foldl_state ws (own t)).trans hr
  · exact hr

/-! ## Changes of a slot or of a skein (09 R220; 14 R338) -/

section
variable {s : State} {w : RegWrite}

/-- No command uses what changes. -/
theorem changeOf_gives (h : changesHeld s s.cur [w] = false) : (changeOf [w]).gives s { ws := [w] } s := by
  refine Act.gives_bind (Act.gives_get s) ?_
  rw [h]
  exact Act.gives_pure _ s

theorem changeOf_waits (h : changesHeld s s.cur [w] = true) :
    (changeOf [w]).gives s { ws := [w], lasts := some (.held [w]) } s := by
  refine Act.gives_bind (Act.gives_get s) ?_
  rw [h]
  exact Act.gives_pure _ s

theorem changesHeld_pat (s : State) (k : StrandId) (n : BitVec 2) (v : BitVec 256) :
    changesHeld s k [.pat n v] = slotsHeld s k.core k.num := Bool.or_false _
theorem changesHeld_skein (s : State) (k : StrandId) (n : BitVec 6) (v : BitVec 512) :
    changesHeld s k [.skein n v] = skeinHeld s k.core n.toNat := Bool.or_false _
end

theorem skeinPlace_gives {va : W64} (hi : inScratch va 64 = true) (ha : va.toNat % 64 = 0) (s : State) :
    (skeinPlace va).gives s () s :=
  Act.gives_ite_pos (by simp [hi, ha]) (Act.gives_pure () s)

theorem skldBody_gives {s t : State} {p : BitVec 3} {l : List (Nat × List Byte)} {n : BitVec 6}
    (hi : inScratch ((own s).ptr p).base 64 = true)
    (ha : ((own s).ptr p).base.toNat % 64 = 0) (hl : (load s.cur .read [(((own s).ptr p).base.toNat, 64)]).gives s l t) :
    let r := ofRecBytes (gathered l ((own s).ptr p).base.toNat 64)
    skeinBad r = false → skeinHeld t s.cur.core n.toNat = false →
    (skldBody n p (own s)).gives s { ws := [.skein n r] } t := by
  intro r hr hh
  have hc := (quiet_load _ _ _ _ _ _ hl).calm
  rw [← hc.cur, ← changesHeld_skein t t.cur n r] at hh
  exact Act.gives_bind (Act.gives_get s) (Act.gives_bind (skeinPlace_gives hi ha s) (Act.gives_bind hl
    (Act.gives_ite_neg (ne_true_of_eq_false hr) (changeOf_gives hh))))

section
variable {s t : State} (hp : plain s = true) (la : BitVec 4) {p : BitVec 3} {l : List (Nat × List Byte)}
include hp

theorem exec_patnSet {w : BitVec 2} (hi : inScratch ((own s).ptr p).base 32 = true)
    (ha : ((own s).ptr p).base.toNat % 32 = 0) (hl : (load s.cur .read [(((own s).ptr p).base.toNat, 32)]).gives s l t) :
    let v := BitVec.ofNat 256 (ofBytes (gathered l ((own s).ptr p).base.toNat 32))
    patInvalid v = false → slotsHeld t s.cur.core s.cur.num = false →
    exec (.patnSet la w p) s = .next (ran (.patnSet la w p) la.toNat [.pat w v] t) := by
  intro v hv hh
  have hc := (quiet_load _ _ _ _ _ _ hl).calm
  rw [← hc.cur, ← changesHeld_pat t t.cur w v] at hh
  have hb : (patSetBody w p (own s)).gives s { ws := [.pat w v] } t :=
    Act.gives_bind (Act.gives_get s) (Act.gives_bind (patPlace_gives hi ha s) (Act.gives_bind hl
      (Act.gives_ite_neg (ne_true_of_eq_false hv) (changeOf_gives hh))))
  exact run_completes hp hc hb rfl

/-- The slot's descriptor with KIND 0. -/
def clearedSlot (x : Strand) (w : BitVec 2) : RegWrite :=
  .pat w (BitVec.ofNat 256 ((x.pat.toList.getD w.toNat 0).toNat % 2 ^ 252))

theorem exec_patnClr (w : BitVec 2) (hh : slotsHeld s s.cur.core s.cur.num = false) :
    exec (.patnClr la w) s = .next (ran (.patnClr la w) la.toNat [clearedSlot (own s) w] s) :=
  run_results (body := patClrBody w) hp (changeOf_gives ((changesHeld_pat _ _ _ _).trans hh)) rfl

theorem exec_patnClr_held (w : BitVec 2) (hh : slotsHeld s s.cur.core s.cur.num = true) :
    exec (.patnClr la w) s = .next (stays (.patnClr la w) la.toNat (.held [clearedSlot (own s) w]) s) :=
  issue_lasts (body := patClrBody w) (plain_facts hp).view (changeOf_waits ((changesHeld_pat _ _ _ _).trans hh)) hp rfl rfl rfl
    rfl fun q hq => by rw [Pending.lasts, hq]

/-- SKLD: with no lookahead the skein is loaded at once, else its image is pending. -/
theorem exec_csrSkld {n : BitVec 6} {r : BitVec 512} (hc : Calm s t) (hb : (skldBody n p (own s)).gives s { ws := [.skein n r] } t) :
    ∃ u, exec (.csrSkld la n p) s = .next u ∧
      (u.strand s.cur).pc = (own s).pc + 4 ∧ (la = 0 → Table.get 0 (u.core s.cur.core).skeins n.toNat = r ∨ r = 0) ∧
      (la ≠ 0 → (u.strand s.cur).pending = [{ parcels := parcelsOf (.csrSkld la n p), pc := (own s).pc, left := la.toNat,
                                              dests := [.skein n], state := .done [.skein n r] }]) := by
  obtain ⟨hpt, hct, ho⟩ := hc.plain hp
  have hr : (own t).state = .ready := (plain_facts hpt).ready
  by_cases hla : la = 0
  · subst hla
    refine ⟨_, run_writes_skein hp hc hb, ?_, fun _ => ?_, fun h => absurd rfl h⟩
    · rw [← hct, ← ho]
      exact congrArg Strand.pc (ran_strand (t := setSkein t.cur.core n r t) (.csrSkld 0 n p) 0 [] hr)
    · by_cases hv : r = 0
      · exact .inr hv
      · rw [← hct]
        exact .inl (skeins_setSkein t.cur.core n hv t)
  · have hl : la.toNat ≠ 0 := fun h => hla (BitVec.eq_of_toNat_eq h)
    have hs := ran_strand (.csrSkld la n p) la.toNat [.skein n r] hr
    simp only [issued, if_neg hl] at hs
    refine ⟨_, run_pends hp hc hl hb, ?_, fun h => absurd h hla, fun _ => ?_⟩
    · rw [← hct, hs, ← ho]
      rfl
    · rw [← hct, hs, ← ho]
      rfl

theorem exec_csrSkst {n : BitVec 6} {id : Option Nat} (hi : inScratch ((own s).ptr p).base 64 = true)
    (ha : ((own s).ptr p).base.toNat % 64 = 0)
    (hs : (store s.cur [(((own s).ptr p).base.toNat, recBytes (skeinImage s s.cur n.toNat))]).gives s id t) :
    exec (.csrSkst la n p) s = .next (ranOr (.csrSkst la n p) la.toNat id [] t) :=
  run_stores hp (calm_store _ _ _ _ _ hs) (Act.gives_bind (Act.gives_get s)
    (Act.gives_bind (skeinPlace_gives hi ha s) (Act.gives_bind hs (Act.gives_pure _ t)))) rfl
end

/-- Settles O30: SET and SKLD change what no command uses, CLR also waits for one, and SKST is a store. -/
theorem patternSkeinComplete : Obligations.PatternSkeinComplete := by
  intro s t la w n p l hp
  exact ⟨fun hi ha hl hv hh => exec_patnSet hp la hi ha hl hv hh,
    ⟨exec_patnClr hp la w, exec_patnClr_held hp la w⟩,
    fun hi ha hl hr hh => exec_csrSkld hp la (quiet_load _ _ _ _ _ _ hl).calm (skldBody_gives hi ha hl hr hh),
    fun id hi ha hs => exec_csrSkst hp la hi ha hs⟩

end Sys2Proof.Machine
end

section
/-!
PROOFS. CacheLaws.lean: cache control, DRAM rows and fences complete (O41).
-/
namespace Sys2Proof.Machine

/-! ## What cache control leaves of the strands -/

/-- A fold that carries an answer beside the machine. -/
theorem Quiet.foldl_snd {α β : Type} (l : List α) (f : β × State → α → β × State) (b : β × State)
    (h : ∀ b a, Quiet b.2 (f b a).2) : Quiet b.2 (l.foldl f b).2 := by
  induction l generalizing b with
  | nil => exact Quiet.refl _
  | cons a l ih => exact (h b a).trans (ih _)

theorem quiet_residentKey (panel va : Nat) (s : State) : Quiet s (residentKey panel va s).2 := by
  unfold residentKey
  split
  · exact Quiet.refl s
  · have ht := quiet_translate panel va s
    revert ht
    generalize translate panel va s = r
    obtain ⟨w, t⟩ := r
    intro ht
    dsimp only at ht ⊢
    repeat' split
    all_goals exact ht

theorem quiet_prefetchLines (panel line n : Nat) (s : State) : Quiet s (prefetchLines panel line n s).2 := by
  refine Quiet.foldl_snd _ _ (false, s) fun b i => ?_
  have hr := quiet_residentKey panel ((line + i) % 2 ^ 57 * 128) b.2
  dsimp only
  split
  next key _ =>
    split
    · exact hr.trans (quiet_queueRead key none _)
    · exact hr.trans ((quiet_countLine _ _ _ _).trans (quiet_homeTouch key false _))
  · exact hr
  · exact hr

theorem calm_flushLines (c : CoreId) (test : Nat → Bool) (s : State) : Calm s (flushLines c test s) :=
  (Calm.foldl _ _ s fun t l => (quiet_releaseOwned c l t).calm).trans (calm_setCore _ c _)

theorem calm_dropLines (c : CoreId) (test : Nat → Bool) (s : State) : Calm s (dropLines c test s) := calm_setCore s c _

/-! ## PF2 (13 R313) -/

section
variable {s : State} (hp : plain s = true) (la : BitVec 4) {p : BitVec 3}
include hp

theorem exec_cachPf2 :
    let pf := prefetchLines s.cur.core.panel (((own s).ptr p).base.toNat / 128) ((own s).ptr p).count.toNat s
    pf.1 = false → exec (.cachPf2 la false p) s = .next (ran (.cachPf2 la false p) la.toNat [] pf.2) := by
  intro pf hd
  have hb : (pf2Body false p (own s)).gives s {} pf.2 := by
    refine Act.gives_bind (Act.gives_get s) ?_
    refine Act.gives_ite_neg Bool.false_ne_true ?_
    refine Act.gives_bind (Act.gives_modifyGet _ s) ?_
    refine Act.gives_ite_neg (ne_true_of_eq_false hd) ?_
    exact Act.gives_pure _ _
  exact run_completes hp (quiet_prefetchLines _ _ _ _).calm hb rfl

theorem exec_cachPf2_notify (hf : (own s).isFixed = false) :
    let v := lane64 (own s).a 0
    let ptr := (own s).ptr p
    let pf := prefetchLines s.cur.core.panel (ptr.base.toNat / 128) ptr.count.toNat s
    objCause s (pf2Kind v) (v.toNat % 65536) (own s).domain = none →
    inPalette s (v.getLsbD 17) (v.toNat % 65536) = false → pf.1 = false →
    exec (.cachPf2 la true p) s = .next (launched (.cachPf2 la true p) la.toNat pf.2.nextId []
      (({ pf.2 with
          nextId := pf.2.nextId + 1
          prefetches := pf.2.prefetches ++ [{ id := pf.2.nextId, notify := some v, lines := ptr.count.toNat }] } : State).post
        .pf2Notify { id := pf.2.nextId, strand := s.cur })) := by
  intro v ptr pf ho hpal hd
  have hq := (quiet_prefetchLines s.cur.core.panel (ptr.base.toNat / 128) ptr.count.toNat s).calm
  refine run_launches hp ?_ ?_
  · exact hq.trans ⟨rfl, rfl⟩
  refine Act.gives_bind (Act.gives_get s) ?_
  refine Act.gives_ite_pos rfl (Act.gives_ite_neg (ne_true_of_eq_false hf) ?_)
  rw [show objCause s (pf2Kind (lane64 (own s).a 0)) ((lane64 (own s).a 0).toNat % 65536) (own s).domain = none from ho]
  refine Act.gives_ite_neg (ne_true_of_eq_false hpal) ?_
  refine Act.gives_bind (Act.gives_modifyGet _ s) (Act.gives_ite_neg (ne_true_of_eq_false hd) (Act.gives_ite_pos rfl ?_))
  exact Act.gives_bind (Act.gives_modifyGet _ _) (Act.gives_bind (Act.gives_modify _ _) (Act.gives_pure _ _))

/-! ## FLUSH, INV, SINV and FLUSHALL (13 R313) -/

theorem exec_cachSinv : exec (.cachSinv la) s = .next (ran (.cachSinv la) la.toNat [] (acquire s.cur.core s)) :=
  run_completes hp (acquire_calm _ s)
    (Act.gives_bind (Act.gives_get s) (Act.gives_bind (Act.gives_modify _ s) (Act.gives_pure _ _))) rfl

/-- Out of fixed mode the other three change the L1. -/
theorem run_flushes {i : Instr} {body : Strand → Act Effect} {f : CoreId → State → State} (hf : (own s).isFixed = false)
    (hc : Calm s (f s.cur.core s))
    (hb : body (own s) = do cacheGuard (own s); let c := (← get).cur.core; modify (f c); pure {}) :
    run i la.toNat (destsOf i) body s = .next (ran i la.toNat [] (f s.cur.core s)) := by
  refine run_completes hp hc ?_ rfl
  rw [hb]
  refine Act.gives_bind (Act.gives_ite_neg (ne_true_of_eq_false hf) (Act.gives_pure () s)) ?_
  exact Act.gives_bind (Act.gives_get s) (Act.gives_bind (Act.gives_modify _ s) (Act.gives_pure _ _))

section
variable (hf : (own s).isFixed = false)
include hf

theorem exec_cachFlush : exec (.cachFlush la p) s =
    .next (ran (.cachFlush la p) la.toNat [] (flushLines s.cur.core (inRange ((own s).ptr p)) s)) :=
  run_flushes (f := fun c => flushLines c (inRange ((own s).ptr p))) hp la hf (calm_flushLines _ _ s) rfl

theorem exec_cachInv : exec (.cachInv la p) s = .next (ran (.cachInv la p) la.toNat []
    (dropLines s.cur.core (inRange ((own s).ptr p)) (flushLines s.cur.core (inRange ((own s).ptr p)) s))) :=
  run_flushes (f := fun c t => dropLines c (inRange ((own s).ptr p)) (flushLines c (inRange ((own s).ptr p)) t)) hp la hf
    ((calm_flushLines _ _ s).trans (calm_dropLines _ _ _)) rfl

theorem exec_cachFlushall :
    exec (.cachFlushall la) s = .next (ran (.cachFlushall la) la.toNat [] (flushLines s.cur.core (fun _ => true) s)) :=
  run_flushes (f := fun c => flushLines c fun _ => true) hp la hf (calm_flushLines _ _ s) rfl
end
end

/-! ## DRAM rows (02 R47–R50; 13 R314) -/

theorem calm_setSlot (stack n : Nat) (v : Slot) (s : State) : Calm s (setSlot stack n v s) := ⟨rfl, rfl⟩

theorem calm_evictSlot (stack n : Nat) (s : State) : Calm s (evictSlot stack n s) := by
  unfold evictSlot
  dsimp only
  split <;> exact ⟨rfl, rfl⟩

theorem calm_promoteRow (tenant : Option Nat) (stack sub row : Nat) (s : State) :
    Calm s (promoteRow tenant stack sub row s).2 := by
  unfold promoteRow
  dsimp only
  repeat' split
  all_goals exact ⟨rfl, rfl⟩

theorem calm_promote (tenant : Option Nat) (stack sub row : Nat) (s : State) :
    Calm s (promote tenant stack sub row s).2 := by
  unfold promote
  split
  · exact ⟨rfl, rfl⟩
  · exact calm_promoteRow _ _ _ _ _

theorem calm_pinRow (tenant : Option Nat) (stack sub row : Nat) (s : State) :
    Calm s (pinRow tenant stack sub row s).2 := by
  unfold pinRow
  cases h : slotOf (s.stack stack) sub row with
  | some e =>
    dsimp only
    repeat' split
    all_goals exact ⟨rfl, rfl⟩
  | none =>
    have hq := calm_promoteRow tenant stack sub row s
    dsimp only
    repeat' split
    all_goals first | exact hq | exact hq.trans (calm_setSlot _ _ _ _)

theorem calm_unpinRow (tenant : Option Nat) (stack sub row : Nat) (s : State) :
    Calm s (unpinRow tenant stack sub row s).2 := by
  unfold unpinRow
  split
  · exact Calm.refl s
  · exact calm_setSlot _ _ _ s

theorem calm_demoteRow (tenant : Option Nat) (stack sub row : Nat) (s : State) :
    Calm s (demoteRow tenant stack sub row s).2 := by
  unfold demoteRow
  split
  · exact Calm.refl s
  · exact calm_evictSlot _ _ s

theorem fails_strandFault (k : StrandId) (acc : Acc) (va : Nat) (f : PageFault) : (strandFault k acc va f).fails := by
  cases f with
  | cause c ev =>
    cases ev with
    | some code => exact Act.fails_right fun _ => Act.fails_throw _
    | none => exact Act.fails_throw _
  | pager found => exact Act.fails_throw _
  | hold region =>
    cases region with
    | some r => exact Act.fails_right fun _ => Act.fails_throw _
    | none => exact Act.fails_throw _

/-- A check that faults, before a quiet rest. -/
theorem Act.quiet_checked {α : Type} {c : Prop} [Decidable c] {cause : Nat} {va : W64} {f : Unit → Act α}
    (hf : (f ()).quiet) : (if c then trapAt cause va >>= f else f ()).quiet := by
  split
  · exact Act.fails_quiet (Act.fails_left (Act.fails_throw _))
  · exact hf

/-- Where an address is held at the translation slice, the strand waits. -/
theorem quiet_strandFault {α : Type} (k : StrandId) (acc : Acc) (va : Nat) (f : PageFault) (m : Act α) :
    (do strandFault k acc va f; m).quiet :=
  Act.fails_quiet (Act.fails_left (fails_strandFault k acc va f))

theorem quiet_dramPa (k : StrandId) (va : W64) : (dramPa k va).quiet := by
  unfold dramPa
  refine Act.quiet_checked ?_
  split
  · exact Act.quiet_pure none
  refine Act.quiet_bind Act.quiet_get fun s => Act.quiet_bind (Act.quiet_modifyGet fun t => quiet_plbLookup _ _ _ t) fun r => ?_
  split
  · exact quiet_strandFault _ _ _ _ _
  · exact Act.quiet_pure none
  refine Act.quiet_checked (Act.quiet_bind (Act.quiet_modifyGet fun t => quiet_translate _ _ t) fun w => ?_)
  split
  · exact Act.quiet_pure _
  · exact quiet_strandFault _ _ _ _ _
  · exact quiet_strandFault _ _ _ _ _
  · exact Act.quiet_pure none

/-- A form of DRAM: what it does to a row, which changes no strand. -/
structure DramForm (s : State) (i : Instr) (la : BitVec 4) (p : BitVec 3)
    (op : Option Nat → Nat → Nat → Nat → State → Nat × State) : Prop where
  performs : exec i s = perform i la (dramBody p op) s
  calm : ∀ tenant stack sub row t, Calm t (op tenant stack sub row t).2

theorem dramForm_of {s : State} {i : Instr} {la : BitVec 4} {p : BitVec 3}
    {op : Option Nat → Nat → Nat → Nat → State → Nat × State}
    (h : i = .dramPromote la p ∧ op = promote ∨ i = .dramPin la p ∧ op = pinRow ∨ i = .dramUnpin la p ∧ op = unpinRow ∨
      i = .dramDemote la p ∧ op = demoteRow) : DramForm s i la p op := by
  obtain ⟨rfl, rfl⟩ | ⟨rfl, rfl⟩ | ⟨rfl, rfl⟩ | ⟨rfl, rfl⟩ := h
  · exact ⟨rfl, calm_promote⟩
  · exact ⟨rfl, calm_pinRow⟩
  · exact ⟨rfl, calm_unpinRow⟩
  · exact ⟨rfl, calm_demoteRow⟩

/-- The outcome of DRAM goes into lane 0. -/
def outcomeWrite (x : Strand) (n : Nat) : RegWrite := .a (setLane64 x.a 0 (BitVec.ofNat 64 n))

section
variable {s t : State} {i : Instr} {la : BitVec 4} {p : BitVec 3}
  {op : Option Nat → Nat → Nat → Nat → State → Nat × State} (hp : plain s = true) (hf : DramForm s i la p op)
include hp hf

/-- A page that is not local reaches no row. -/
theorem dram_notLocal (hpa : (dramPa s.cur ((own s).ptr p).base).gives s none t) :
    exec i s = .next (ran i la.toNat [outcomeWrite (own s) 3] t) := by
  refine hf.performs.trans (run_completes hp (quiet_dramPa _ _ _ _ _ hpa).calm ?_ rfl)
  refine Act.gives_bind (Act.gives_get s) (Act.gives_bind hpa (Act.gives_bind (Act.gives_get t) ?_))
  exact Act.gives_pure _ t

section
variable {a : Nat} (hpa : (dramPa s.cur ((own s).ptr p).base).gives s (some a) t)
include hpa

/-- Cases 1 to 3 of R47 reach none. -/
theorem dram_refused {n : Nat} (hn : dramCases t a = .error n) :
    exec i s = .next (ran i la.toNat [outcomeWrite (own s) n] t) := by
  refine hf.performs.trans (run_completes hp (quiet_dramPa _ _ _ _ _ hpa).calm ?_ rfl)
  refine Act.gives_bind (Act.gives_get s) (Act.gives_bind hpa (Act.gives_bind (Act.gives_get t) ?_))
  simp only [hn]
  exact Act.gives_pure _ t

theorem dram_acts {stack sub row : Nat} (hr : dramCases t a = .ok (stack, sub, row)) :
    let r := op (tenantOf t (own s).domain) stack sub row t
    exec i s = .next (ran i la.toNat [outcomeWrite (own s) r.1] r.2) := by
  intro r
  refine hf.performs.trans (run_completes hp ((quiet_dramPa _ _ _ _ _ hpa).calm.trans (hf.calm _ _ _ _ _)) ?_ rfl)
  refine Act.gives_bind (Act.gives_get s) (Act.gives_bind hpa (Act.gives_bind (Act.gives_get t) ?_))
  simp only [hr]
  exact Act.gives_bind (Act.gives_modifyGet _ t) (Act.gives_pure _ _)
end
end

/-! ## Fences (13 R315; 08 R189) -/

/-- FENC: the unit of a fence on the matrix path is not stopped, and the accesses of its paths are performed, if it orders any. -/
theorem exec_fenc {s : State} (hp : plain s = true) {b : BitVec 5} {m : BitVec 7} {sz : BitVec 2}
    (hstop : m.getLsbD 4 = true → (ownCore s).stop = false)
    (hd : b = 0 ∧ sz = 0 ∨ pathsPerformed s s.cur m = true ∧
      (m.getLsbD 4 = true → busyBefore s s.cur.core (issueMark s s.cur) = false)) :
    exec (.fenc b m sz) s = .next (ran (.fenc b m sz) 0 [] s) := by
  have h1 : ¬(m.getLsbD 4 && (ownCore s).stop) = true := by
    cases h4 : m.getLsbD 4 <;> simp [h4, hstop]
  have h2 : ¬(!(b == 0 && sz == 0) && (!pathsPerformed s s.cur m ||
      (m.getLsbD 4 && busyBefore s s.cur.core (issueMark s s.cur)))) = true := by
    obtain ⟨rfl, rfl⟩ | ⟨hpath, hbusy⟩ := hd
    · simp
    · cases h4 : m.getLsbD 4 <;> simp [hpath, h4, hbusy]
  refine run_results hp ?_ rfl
  exact Act.gives_bind (Act.gives_get s) (Act.gives_ite_neg h1 (Act.gives_ite_neg h2 (Act.gives_pure _ s)))

/-- Settles O41: PF2 by its two forms, the L1's by what each does to it, DRAM by how far it comes, FENC by its checks. -/
theorem cachesComplete : Obligations.CachesComplete := by
  intro s la p hp
  refine ⟨exec_cachPf2 hp la, exec_cachPf2_notify hp la,
    fun hf => ⟨exec_cachFlush hp la hf, exec_cachInv hp la hf, exec_cachFlushall hp la hf⟩, exec_cachSinv hp la,
    fun i op pa t h hpa => ⟨fun hn => ?_, fun a ha => ⟨fun n hn => ?_, fun stack sub row hr => ?_⟩⟩,
    fun b m sz hs hd => exec_fenc hp hs hd⟩
  · exact dram_notLocal hp (dramForm_of h) (hn ▸ hpa)
  · exact dram_refused hp (dramForm_of h) (ha ▸ hpa) hn
  · exact dram_acts hp (dramForm_of h) (ha ▸ hpa) hr

end Sys2Proof.Machine
end

section
/-!
PROOFS. AtomicLaws.lean: each atomic of a hook leaves its new value and answers the old one (O51).
-/
namespace Sys2Proof.Machine

/-- The operand of 8 bytes is lane 0 whole. -/
theorem operand_mod (v : W64) : v.toNat % 2 ^ (8 * 8) = v.toNat := Nat.mod_eq_of_lt v.isLt

section
variable {s : State} {r : HookReq}

/-! ## An atomic on a target that is not poisoned (13 R294) -/

/-- The target of n bytes, as it stands. -/
def atomicOld (s : State) (r : HookReq) (n : Nat) : Nat := ofBytes (((hookLine s r.place).drop (lineOffset r.place)).take n)

/-- The bytes of a new value of n bytes at the target, if there is one. -/
def atomicWrites (r : HookReq) (n : Nat) : Option Nat → List (Nat × Byte)
  | some v => (toBytes n v).zipIdx.map fun b => (lineOffset r.place + b.2, b.1)
  | none => []

/-- What an atomic with this new value, status and flags leaves: it replies with the old value, sign-extended. -/
def atomicOut (s : State) (r : HookReq) (n : Nat) (v : Option Nat × Nat × Nat) : HookOut :=
  { reply := .done [BitVec.ofNat 64 (ofInt 64 (toSigned (8 * n) (atomicOld s r n))), 0] v.2.1 v.2.2
    writes := atomicWrites r n v.1 }

theorem atomic_sound {n : Nat} {f : HookReq → Nat → Option Nat × Nat × Nat}
    (hb : hookBad s r.place (lineOffset r.place) n = false) : atomic n f s r = atomicOut s r n (f r (atomicOld s r n)) := by
  refine (if_neg (ne_true_of_eq_false hb)).trans ?_
  unfold atomicOut atomicOld
  generalize f r _ = v
  obtain ⟨new, status, flags⟩ := v
  cases new <;> rfl

/-- The event of routine number, an atomic on n bytes, leaves a new value (or none) and answers the old one with a status and
flags, where its target is not poisoned and its write needs no DRAM in self-refresh. -/
def AtomicAnswers (s : State) (r : HookReq) (i : Instr) (n number : Nat) (new : Option Nat) (status flags : Nat) : Prop :=
  r.routine = number → hookBad s r.place (lineOffset r.place) n = false →
  outMustWait s r (atomicOut s r n (new, status, flags)) = none →
  exec i s = .next (hookFinish r (atomicOut s r n (new, status, flags)) s)

section
variable (hr : hookReq s s.arg.id = some r) (h3 : r.stage = 3) {i : Instr} {n number : Nat}
  (hl : lawRoutine number = false)
include hr h3 hl

/-- An atomic answers what its function gives. -/
theorem atomicAnswers_of {f : HookReq → Nat → Option Nat × Nat × Nat} {new : Option Nat} {status flags : Nat}
    (hx : exec i s = hookRun (· == number) (atomic n f) s) (hf : f r (atomicOld s r n) = (new, status, flags)) :
    AtomicAnswers s r i n number new status flags := fun hn hb hw =>
  exec_routine_finishes hr h3 hx hn hl ((atomic_sound hb).trans (congrArg _ hf)) hw

/-- One of a lane function. -/
theorem laneAtomicAnswers_of {f : LaneFn} {rm : HookReq → Rm} {fmt : BitVec 3} {new flags : Nat}
    (hx : exec i s = hookRun (· == number) (laneAtomic n f rm fmt) s)
    (hf : f fmt false (rm r) (atomicOld s r n) 0 (r.h0.toNat % 2 ^ (8 * n)) = (new, flags)) :
    AtomicAnswers s r i n number (some new) 0 flags :=
  atomicAnswers_of hr h3 hl hx (congrArg (fun v : Nat × Nat => (some v.1, 0, v.2)) hf)

/-- One of 8 bytes, whose operand is lane 0 whole. -/
theorem wordAtomicAnswers_of {f : LaneFn} {rm : HookReq → Rm} {fmt : BitVec 3} {new flags : Nat}
    (hx : exec i s = hookRun (· == number) (laneAtomic 8 f rm fmt) s)
    (hf : f fmt false (rm r) (atomicOld s r 8) 0 r.h0.toNat = (new, flags)) :
    AtomicAnswers s r i 8 number (some new) 0 flags :=
  laneAtomicAnswers_of hr h3 hl hx (by rw [operand_mod]; exact hf)

/-- A compare-and-swap that finds its operand puts the second one there. -/
theorem casAnswers_of_eq (hx : exec i s = hookRun (· == number) (casAtomic n) s)
    (he : atomicOld s r n = r.h0.toNat % 2 ^ (8 * n)) :
    AtomicAnswers s r i n number (some (r.h1.toNat % 2 ^ (8 * n))) 0 0 :=
  atomicAnswers_of hr h3 hl hx (if_pos he)

theorem casAnswers_of_ne (hx : exec i s = hookRun (· == number) (casAtomic n) s)
    (he : atomicOld s r n ≠ r.h0.toNat % 2 ^ (8 * n)) : AtomicAnswers s r i n number none 5 0 :=
  atomicAnswers_of hr h3 hl hx (if_neg he)
end
end

/-! ## Values (09 R203; 12 R274) -/

section
variable {fmt : BitVec 3} (hi : isFloat fmt = false) {rm : Rm} (a x b : Nat)
include hi

theorem laneAdd_int (sat : Bool) : laneAdd fmt sat rm a x b = intResult (laneBits fmt) sat (sval fmt a + sval fmt b) := by
  unfold laneAdd result
  rw [hi]
  exact if_neg Bool.false_ne_true

theorem laneMin_int (sat : Bool) : laneMin fmt sat rm a x b = (if sval fmt a ≤ sval fmt b then a else b, 0) := by
  unfold laneMin
  rw [hi]
  exact if_neg Bool.false_ne_true

theorem laneMax_int (sat : Bool) : laneMax fmt sat rm a x b = (if sval fmt b ≤ sval fmt a then a else b, 0) := by
  unfold laneMax
  rw [hi]
  exact if_neg Bool.false_ne_true
end

theorem intResult_below {w : Nat} {x : Int} (h : x < intMin w) : intResult w true x = (ofInt w (intMin w), Flag.sat) :=
  if_pos h

theorem intMin_le_intMax (w : Nat) : intMin w ≤ intMax w := by
  have := Nat.two_pow_pos (w - 1)
  unfold intMin intMax
  omega

theorem intResult_above {w : Nat} {x : Int} (h : intMax w < x) : intResult w true x = (ofInt w (intMax w), Flag.sat) :=
  (if_neg (not_lt.2 ((intMin_le_intMax w).trans h.le))).trans (if_pos h)

theorem intResult_between {w : Nat} {x : Int} (h1 : intMin w ≤ x) (h2 : x ≤ intMax w) :
    intResult w true x = (ofInt w x, 0) :=
  (if_neg (not_lt.2 h1)).trans (if_neg (not_lt.2 h2))

/-- HOOK_ADDSAT_I64 where the sum gives this value and this flag. -/
theorem addsatAnswers_of {s : State} {r : HookReq} (hr : hookReq s s.arg.id = some r) (h3 : r.stage = 3) {new flag : Nat}
    (hv : intResult 64 true (toSigned 64 (atomicOld s r 8) + toSigned 64 r.h0.toNat) = (new, flag)) :
    AtomicAnswers s r .hookAddsatI64 8 8 (some new) (if flag = 0 then 0 else 6) 0 := by
  have hx : exec .hookAddsatI64 s = hookRun (· == 8) (atomic 8 fun r old =>
    let v := laneAdd 0 true .ne old 0 r.h0.toNat
    (some v.1, if v.2 = 0 then 0 else 6, 0)) s := rfl
  refine atomicAnswers_of hr h3 rfl hx ?_
  dsimp only
  rw [laneAdd_int (fmt := 0) rfl]
  exact congrArg (fun v : Nat × Nat => (some v.1, if v.2 = 0 then 0 else 6, 0)) hv

/-- Settles O51: each atomic by the value of its function. -/
theorem hookAtomicEvents : Obligations.HookAtomicEvents := by
  intro s r hr h3 off old answers o h so sh p g sp sg
  have ha : ∀ i n number new status flags, AtomicAnswers s r i n number new status flags →
      answers i n number new status flags := fun _ _ _ _ _ _ h => h
  clear_value answers
  refine ⟨?_, ?_, ?_, ?_, ?_, ?_, ?_, ?_, fun hlo hhi => ?_, fun hlo => ?_, fun hhi => ?_, ?_, ?_, ?_, ?_, ?_, ?_, ?_, ?_, ?_,
    fun he => ?_, fun he => ?_, fun he => ?_, fun he => ?_⟩ <;> apply ha
  · exact wordAtomicAnswers_of hr h3 rfl rfl (laneAdd_int (fmt := 0) rfl o 0 h false)
  · exact wordAtomicAnswers_of hr h3 rfl rfl rfl
  · exact wordAtomicAnswers_of hr h3 rfl rfl rfl
  · exact wordAtomicAnswers_of hr h3 rfl rfl rfl
  · exact wordAtomicAnswers_of hr h3 rfl rfl (laneMin_int (fmt := 0) rfl o 0 h false)
  · exact wordAtomicAnswers_of hr h3 rfl rfl (laneMax_int (fmt := 0) rfl o 0 h false)
  · exact atomicAnswers_of hr h3 rfl (f := fun r old => (some (min old r.h0.toNat), 0, 0)) rfl rfl
  · exact atomicAnswers_of hr h3 rfl (f := fun r old => (some (max old r.h0.toNat), 0, 0)) rfl rfl
  · exact addsatAnswers_of hr h3 (intResult_between hlo hhi)
  · exact addsatAnswers_of hr h3 (intResult_below hlo)
  · exact addsatAnswers_of hr h3 (intResult_above hhi)
  · exact laneAtomicAnswers_of hr h3 rfl rfl (laneAdd_int (fmt := 1) rfl p 0 g false)
  · exact laneAtomicAnswers_of hr h3 rfl rfl (laneMin_int (fmt := 1) rfl p 0 g false)
  · exact laneAtomicAnswers_of hr h3 rfl rfl (laneMax_int (fmt := 1) rfl p 0 g false)
  · exact wordAtomicAnswers_of hr h3 rfl rfl rfl
  · exact wordAtomicAnswers_of hr h3 rfl rfl rfl
  · exact wordAtomicAnswers_of hr h3 rfl rfl rfl
  · exact wordAtomicAnswers_of hr h3 rfl rfl rfl
  · exact wordAtomicAnswers_of hr h3 rfl rfl rfl
  · exact laneAtomicAnswers_of hr h3 rfl rfl rfl
  · have hnew := casAnswers_of_eq (i := .hookCasI64) (number := 18) hr h3 rfl rfl (he.trans (operand_mod r.h0).symm)
    rwa [operand_mod] at hnew
  · exact casAnswers_of_ne hr h3 rfl rfl fun h => he (h.trans (operand_mod r.h0))
  · exact casAnswers_of_eq hr h3 rfl rfl he
  · exact casAnswers_of_ne hr h3 rfl rfl he

end Sys2Proof.Machine
end

section
/-!
PROOFS. TicketLaws.lean: what a fetch, its data, a redeem and the age of a ticket leave (O50).
-/
namespace Sys2Proof.Machine

/-! ## The arms of the ticket events -/

theorem exec_ticketFetch (s : State) : exec .ticketFetch s = .next (ticketTake s.arg.id s) := rfl
theorem exec_ticketFillDone (s : State) : exec .ticketFillDone s = .next (ticketFill s.arg.id s) := rfl
theorem exec_ticketRedeem (s : State) : exec .ticketRedeem s = .next (ticketServe s.arg.id s) := rfl
theorem exec_ticketOrphan (s : State) : exec .ticketOrphan s = .next (orphanCheck s.arg.v s) := rfl

/-- The home cache of a place in device memory is asked for its line. -/
def touchPlace (u : State) : Place → State
  | .dev key => homeTouch key false u
  | _ => u

/-- The data of a fetch bound to its entry: the redeems that wait for it look again, and the age of a tenant's ticket is kept. -/
def ticketFilled (r : TicketReq) (s : State) : State :=
  let t := (r.bytes.head?.toList).foldl touchPlace s
  let old := ticketEntry t r.ticket
  let bad := ((List.range r.bytes.length).filter fun i => placeBad t (r.bytes.getD i .zero)).map fun i => i / 32
  let u := old.waiters.foldl (fun u w => u.post .ticketRedeem { id := w })
    (setTicket (tkStack r.ticket) (tkEntry r.ticket) { old with
      filled := true, bytes := r.bytes.map (placeByte t), poison := bad.dedup, waiters := [] } t)
  if old.tenant < 32 then u.post .ticketOrphan { v := r.ticket } else u

section
variable {s : State} {id : Nat} {r : TicketReq} (hr : ticketReq s id = some r)
include hr

/-! ## A fetch at its slice (13 R298) -/

/-- The first free entry of a slice is taken, and the ticket of it returns. -/
theorem ticketTake_takes {i : Nat} (hf : r.redeem = false) (h0 : r.ticket = 0)
    (hi : (List.range 2048).find? (fun i => !(Table.get {} (s.stack r.stack).tickets (r.slice * 2048 + i)).used) = some i) :
    let n := r.slice * 2048 + i
    let y := s.strand r.strand
    let entry : TicketEntry :=
      { used := true, gen := (Table.get {} (s.stack r.stack).tickets n).gen, domain := y.domainId, size := r.size
        tenant := ticketTenant s y.domain, since := (s.tenant (ticketTenant s y.domain)).activeFor }
    let v := mkTicket r.stack n entry
    let t := setTicket r.stack n entry s
    ticketTake id s = (complete r.strand id [.a (setLane64 y.a r.lane v)] none
      { t with ticketReqs := putId TicketReq.id t.ticketReqs { r with ticket := v } }).post .ticketFillDone { id := id } := by
  simp only [ticketTake, hr, hf, h0, bne_self_eq_false, Bool.or_self, Bool.false_eq_true, if_false, hi]

/-! ## The data of a fetch (08 R187; 13 R298) -/

section
variable (hl : ∀ p ∈ r.bytes, lineBusy s p = false) (hb : fetchBehind s r = false)
  (hd : ∀ key, .dev key ∈ r.bytes → mustWait s key = false)
include hl hb hd

/-- Data that arrives with nothing before it, and whose DRAM answers, is bound unless its ticket is stale. -/
theorem ticketFill_arrives : ticketFill id s =
    if tkStale (dropTicketReq id s) r.ticket then dropTicketReq id s else ticketFilled r (dropTicketReq id s) := by
  have hbusy : ¬(r.bytes.any (lineBusy s) || fetchBehind s r) = true := by
    have hany : r.bytes.any (lineBusy s) = false := List.any_eq_false.2 fun p hp => by simp [hl p hp]
    simp [hany, hb]
  unfold ticketFill
  simp only [hr]
  refine (if_neg hbusy).trans ?_
  split
  next stack slice hw =>
    obtain ⟨p, hp, hpw⟩ := List.exists_of_findSome?_eq_some hw
    cases p with
    | dev key => simp [hd key hp] at hpw
    | _ => cases hpw
  next => rfl
end

/-! ## A redeem at its slice (13 R299) -/

section
variable (hred : r.redeem = true) (hs : tkStale s r.ticket = false) (hd : tkDomain r.ticket = (s.strand r.strand).domainId)
include hred hs hd

/-- A redeem that comes before its data waits at the entry. -/
theorem ticketServe_waits (hf : (ticketEntry s r.ticket).filled = false) :
    ticketServe id s = setTicket (tkStack r.ticket) (tkEntry r.ticket)
      { ticketEntry s r.ticket with waiters := (ticketEntry s r.ticket).waiters ++ [id] } s := by
  simp only [ticketServe, hr, hred, hs, hd, hf, Bool.not_true, Bool.not_false, bne_self_eq_false, Bool.false_eq_true, if_false,
    if_true]

/-- A redeem of a filled entry frees it, and its bytes go out to land. -/
theorem ticketServe_lands (hf : (ticketEntry s r.ticket).filled = true) :
    let entry := ticketEntry s r.ticket
    let d := (s.strand r.strand).domain
    let l : Landing :=
      { id := id, target := r.strand.core, off := r.off
        bytes := entry.bytes.zipIdx.map fun b => (r.off + b.2, b.1)
        poison := ((List.range entry.bytes.length).filter fun i => entry.poison.contains (i / 32)).map fun i => r.off + i
        sender := .ticket r.strand, domain := d, supervisor := supervisory d, zonesOnly := false }
    let t := dropTicketReq id (freeTicket r.ticket s)
    ticketServe id s = ({ t with landings := t.landings ++ [l] } : State).post .landingArrive
      { id := id, core := r.strand.core, a := r.off } := by
  simp only [ticketServe, hr, hred, hs, hd, hf, Bool.not_true, bne_self_eq_false, Bool.false_eq_true, if_false]
end
end

/-! ## The age of a ticket (13 R300) -/

/-- The age of a live, filled ticket: past its tenant's lifetime it is freed, else it is looked at again. -/
theorem orphanCheck_live {s : State} {v : W64} (hs : tkStale s v = false) (hf : (ticketEntry s v).filled = true) :
    let entry := ticketEntry s v
    let now := (s.tenant entry.tenant).activeFor
    let age := entry.age + (now - entry.since)
    orphanCheck v s = if (s.tenant entry.tenant).tlife.toNat * 1000 < age then freeTicket v s
      else (setTicket (tkStack v) (tkEntry v) { entry with age := age, since := now } s).post .ticketOrphan { v := v } := by
  simp only [orphanCheck, hs, hf, Bool.not_true, Bool.or_self, Bool.false_eq_true, if_false]

/-- Settles O50: each event by the case that its conditions name. -/
theorem ticketEvents : Obligations.TicketEvents := by
  intro s e
  refine ⟨fun r i hr hf h0 hi => ?_, fun r hr hl hb hd => ?_, fun r hr hred hs hd => ⟨fun hf => ?_, fun hf => ?_⟩,
    fun hs hf => ⟨fun ha => ?_, fun ha => ?_⟩⟩
  · exact exec_eq (exec_ticketFetch s) (ticketTake_takes hr hf h0 hi)
  · have hx := exec_eq (exec_ticketFillDone s) (ticketFill_arrives hr hl hb hd)
    exact ⟨fun hs => hx.trans (congrArg _ (if_pos hs)), fun hs => hx.trans (congrArg _ (if_neg (ne_true_of_eq_false hs)))⟩
  · exact exec_eq (exec_ticketRedeem s) (ticketServe_waits hr hred hs hd hf)
  · exact exec_eq (exec_ticketRedeem s) (ticketServe_lands hr hred hs hd hf)
  · exact exec_eq (exec_ticketOrphan s) ((orphanCheck_live hs hf).trans (if_pos ha))
  · exact exec_eq (exec_ticketOrphan s) ((orphanCheck_live hs hf).trans (if_neg (not_lt.2 ha)))

end Sys2Proof.Machine
end

section
/-!
PROOFS. RequestLaws.lean: shipped operations, tickets and law operations complete once their addresses resolve (O40).
-/
namespace Sys2Proof.Machine

/-! ## Requests that go out change no strand -/

theorem calm_countHook (r : HookReq) (s : State) : Calm s (countHook r s) := by
  unfold countHook
  split
  · exact (quiet_countLine _ _ _ s).calm
  · exact (quiet_countLine _ _ _ s).calm
  · exact Calm.refl s

theorem calm_sendHook (r : HookReq) (s : State) : Calm s (sendHook r s) :=
  Calm.trans (t := { s with hookReqs := s.hookReqs ++ [r] }) ⟨rfl, rfl⟩
    ((calm_countHook r _).trans ⟨rfl, rfl⟩)

/-- An item with a new number goes out. -/
theorem gives_request (f : Nat → State → State) (e : Nat → Effect) (t : State) :
    (do let id ← modifyGet State.fresh; modify (f id); pure (e id) : Act Effect).gives t (e t.nextId)
      (f t.nextId { t with nextId := t.nextId + 1 }) :=
  Act.gives_bind (Act.gives_modifyGet State.fresh t) (Act.gives_bind (Act.gives_modify _ _) (Act.gives_pure _ _))

theorem quiet_hookPlace (k : StrandId) (acc : Acc) (addr : W64) : (hookPlace k acc addr).quiet := by
  refine Act.quiet_bind (quiet_resolve _ _ _) fun l => ?_
  split
  · exact Act.quiet_pure _
  · exact Act.quiet_trapAt _ _

/-! ## SHIP (13 R292, R293) -/

/-- A release on the ship path has nothing before it. -/
theorem awaitShips_done {k : StrandId} {s : State} (hc : corePerformed s k = true)
    (hq : ∀ h ∈ s.hookReqs, h.mine k = true → lawRoutine h.routine = true) : (awaitShips k).gives s () s := by
  have hn : (s.hookReqs.any fun h => h.mine k && !lawRoutine h.routine) = false :=
    List.any_eq_false.2 fun h hm => by
      cases hk : h.mine k
      · simp
      · simp [hq h hm hk]
  exact Act.gives_bind (awaitCore_done hc) (Act.gives_bind (Act.gives_get s)
    (Act.gives_ite_neg (ne_true_of_eq_false hn) (Act.gives_pure () s)))

theorem exec_ship {s t : State} (hp : plain s = true) (la : BitVec 4) {ord : BitVec 2} (rm : BitVec 2) {n : BitVec 8} {p : BitVec 3}
    {place : Place} (hf : (own s).isFixed = false) :
    let x := own s
    let k := s.cur
    let va := (x.ptr p).base
    let extent := shipExtent n.toNat va.toNat
    va.toNat % shipAlign n.toNat = 0 → (hookPlace k .ship va).gives s place t →
    (bufferCheck k va.toNat place extent.1 extent.2).gives t () t → acquired t k = true →
    (ord.getLsbD 1 = true → corePerformed t k = true ∧
      ∀ h ∈ t.hookReqs, h.mine k = true → lawRoutine h.routine = true) →
    exec (.ship la ord rm n p) s = .next (launched (.ship la ord rm n p) la.toNat t.nextId [] (sendHook
      { id := t.nextId, routine := n.toNat, place := place, va := va, h0 := lane64 x.a 0, h1 := lane64 x.a 1
        h3 := lane64 x.a 2, rm := rm, tenant := requestTenant t x.domain, requester := .strand k
        acquire := ord.getLsbD 0, carrier := ord != 0, stage := 0, domain := x.domain } { t with nextId := t.nextId + 1 })) := by
  intro x k va extent ha hpl hbuf hq hrel
  have hc : Calm s t := (quiet_hookPlace _ _ _ _ _ _ hpl).calm
  refine run_launches hp (hc.trans (Calm.trans (t := t.fresh.2) ⟨rfl, rfl⟩ (calm_sendHook _ _))) ?_
  refine Act.gives_bind (Act.gives_get s) (Act.gives_ite_neg (ne_true_of_eq_false hf) ?_)
  refine Act.gives_ite_neg (by simpa using ha) (Act.gives_bind hpl (Act.gives_bind hbuf ?_))
  refine Act.gives_bind (awaitAcquire_done hq) ?_
  by_cases h1 : ord.getLsbD 1 = true
  · obtain ⟨hcp, hships⟩ := hrel h1
    exact Act.gives_ite_pos h1 (Act.gives_bind (awaitShips_done hcp hships) (gives_request _ _ t))
  · exact Act.gives_ite_neg h1 (gives_request _ _ t)

/-! ## TICK (13 R297–R300; 08 R200) -/

theorem tickGuard_gives {x : Strand} (hf : x.isFixed = false) (va : W64) (s : State) : (tickGuard x va).gives s () s :=
  Act.gives_ite_neg (ne_true_of_eq_false hf) (Act.gives_pure () s)

/-- A fetch given to the network. -/
def fetchSent (k : StrandId) (va : Nat) (place : Place) (r : TicketReq) (s : State) : State :=
  (countLine k.core.panel va place { s with ticketReqs := s.ticketReqs ++ [r] }).post .ticketFetch { id := r.id }

theorem calm_fetchSent (k : StrandId) (va : Nat) (place : Place) (r : TicketReq) (s : State) :
    Calm s (fetchSent k va place r s) :=
  Calm.trans (t := { s with ticketReqs := s.ticketReqs ++ [r] }) ⟨rfl, rfl⟩ ((quiet_countLine _ _ _ _).calm.trans ⟨rfl, rfl⟩)

theorem exec_tickLd {s t : State} (hp : plain s = true) (la j : BitVec 4) (sz : BitVec 2) {p : BitVec 3} {piece : Piece}
    {place : Place} (hf : (own s).isFixed = false) :
    let k := s.cur
    let va := ((own s).ptr p).base
    let n := ticketBytes sz.toNat
    let places := (List.range n).map (placePlus place)
    va.toNat % n = 0 → (resolve k .ticket [(va.toNat, n)]).gives s [piece] t → piece.target = .page place →
    (bufferCheck k va.toNat place 0 n).gives t () t → (∀ q ∈ places, ownStore t k q = none) →
    exec (.tickLd la j sz p) s = .next (launched (.tickLd la j sz p) la.toNat t.nextId []
      (fetchSent k va.toNat place
        { id := t.nextId, strand := k, lane := j.toNat, bytes := places, size := sz
          stack := (ticketHome t k place).1, slice := (ticketHome t k place).2, ticket := 0, off := 0, redeem := false }
        { t with nextId := t.nextId + 1 })) := by
  intro k va n places ha hr htg hbuf hown
  obtain ⟨tg, va', n'⟩ := piece
  obtain rfl : tg = .page place := htg
  have hn : (places.any fun q => (ownStore t k q).isSome) = false :=
    List.any_eq_false.2 fun q hq => by simp [hown q hq]
  refine run_launches hp ((quiet_resolve _ _ _ _ _ _ hr).calm.trans
    (Calm.trans (t := t.fresh.2) ⟨rfl, rfl⟩ (calm_fetchSent _ _ _ _ _))) ?_
  refine Act.gives_bind (Act.gives_get s) (Act.gives_bind (tickGuard_gives hf _ s) ?_)
  refine Act.gives_ite_neg (by simpa using ha) (Act.gives_bind hr (Act.gives_bind hbuf (Act.gives_bind (Act.gives_get t) ?_)))
  exact Act.gives_ite_neg (ne_true_of_eq_false hn) (gives_request _ _ t)

/-- A strand whose instruction stays pending stands as its instruction left it. -/
theorem stays_strand {t : State} (i : Instr) (la : Nat) (st : PendState) :
    (stays i la st t).strand t.cur = staying i la st (nextPc i t) (own t) :=
  Table.get_set_self _ t.strands t.cur fun h => by cases congrArg Strand.pending h

/-- The landing of a redeem in the scoreboard (07 R162). -/
def landingOf (k : StrandId) (id off n : Nat) : Range :=
  { off := off, len := n, zone := false, id := id, landed := 0, strand := k.num }

/-- A redeem given to the network, its landing in the scoreboard of its core. -/
def redeemSent (k : StrandId) (r : TicketReq) (off n : Nat) (s : State) : State :=
  let c := s.core k.core
  ({ s.setCore k.core { c with ranges := c.ranges ++ [landingOf k r.id off n] } with
      ticketReqs := s.ticketReqs ++ [r] } : State).post .ticketRedeem { id := r.id }

theorem ranges_redeemSent (k : StrandId) (r : TicketReq) (off n : Nat) (s : State) :
    ((redeemSent k r off n s).core k.core).ranges = (s.core k.core).ranges ++ [landingOf k r.id off n] :=
  congrArg Core.ranges (Table.get_set_self _ s.cores k.core fun h => by simpa using congrArg Core.ranges h)

theorem calm_redeemSent (k : StrandId) (r : TicketReq) (off n : Nat) (s : State) : Calm s (redeemSent k r off n s) :=
  ⟨rfl, rfl⟩

theorem exec_tickRd {s : State} (hp : plain s = true) (la j : BitVec 4) {p : BitVec 3} (hf : (own s).isFixed = false) :
    let k := s.cur
    let va := ((own s).ptr p).base
    let v := lane64 (own s).a j.toNat
    let n := ticketBytes (tkSize v)
    let off := va.toNat - scratchBase
    let r : TicketReq :=
      { id := s.nextId, strand := k, lane := j.toNat, bytes := [], size := BitVec.ofNat 2 (tkSize v), stack := tkStack v
        slice := tkEntry v / 2048, ticket := v, off := off, redeem := true }
    tkGood v = true → inScratch va n = true → va.toNat % 32 = 0 → hitsHorizon s k.core off n = false →
    overlaps (ownCore s) off n = false → (ownCore s).ranges.length < 16 →
    exec (.tickRd la j p) s = .next (launched (.tickRd la j p) la.toNat s.nextId []
      (redeemSent k r off n { s with nextId := s.nextId + 1 })) := by
  intro k va v n off r hg hi ha hh ho hl
  have hsize : tkSize v < 3 := by
    simp only [tkGood, Bool.and_eq_true, decide_eq_true_eq] at hg
    exact hg.2
  have hn : (if tkSize v < 3 then ticketBytes (tkSize v) else 32) = n := if_pos hsize
  have hroom : ¬(overlaps (ownCore s) off n || !rangeFree (ownCore s)) = true := by simp [ho, rangeFree, hl]
  refine run_launches hp (Calm.trans (t := s.fresh.2) ⟨rfl, rfl⟩ (calm_redeemSent _ _ _ _ _)) ?_
  rw [← hn] at hi hh hroom ⊢
  have hplace : ¬(!(inScratch va (if tkSize v < 3 then ticketBytes (tkSize v) else 32) && va.toNat % 32 == 0)) = true := by
    simp [hi, ha]
  refine Act.gives_bind (Act.gives_get s) (Act.gives_bind (tickGuard_gives hf _ s) ?_)
  refine Act.gives_ite_neg hplace (Act.gives_ite_neg (by simpa using hg) (Act.gives_bind (Act.gives_get s) ?_))
  exact Act.gives_ite_neg (ne_true_of_eq_false hh) (Act.gives_ite_neg hroom (gives_request _ _ s))

theorem Act.stops_ite_pos {α : Type} {c : Prop} [Decidable c] {m n : Act α} {s t : State} {e : Stop} (h : c)
    (hm : m.stops s e t) : (if c then m else n).stops s e t := by rwa [if_pos h]

/-- In fixed mode DROP and Q raise FIXED_PATH, whatever the ticket (08 R200). -/
theorem tick_fixed {s : State} (hp : plain s = true) {la j : BitVec 4} {i : Instr}
    (hi : i = .tickDrop la j ∨ i = .tickQ la j) (hf : (own s).isFixed = true) :
    RaisesWithin s i la { cause := 0x36, addr := (own s).pc } := by
  have hstop : ∀ m : Act Effect, (if (own s).isFixed = true then trapHere (own s) Cause.fixedPath else m).stops s
      (.trap { cause := 0x36, addr := (own s).pc }) s := fun m =>
    Act.stops_ite_pos hf ((plain_facts hp).here ▸ trapHere_stops (own s) Cause.fixedPath s)
  have h36 : 3 < (0x36 : BitVec 8).toNat := by decide
  obtain rfl | rfl := hi
  · exact raisesWithin_of_stops (body := tickDropBody j) hp rfl (Act.stops_after (Act.gives_get s) (hstop _)) rfl h36
  · exact raisesWithin_of_stops (body := tickQBody j) hp rfl (Act.stops_after (Act.gives_get s) (hstop _)) rfl h36

theorem calm_freeTicket (t : W64) (s : State) : Calm s (freeTicket t s) :=
  Calm.trans (t := setTicket (tkStack t) (tkEntry t) { gen := (ticketEntry s t).gen + 1 } s) ⟨rfl, rfl⟩
    (Calm.foldl _ _ _ fun _ _ => ⟨rfl, rfl⟩)

section
variable {s : State} (hp : plain s = true) (la j : BitVec 4) (hf : (own s).isFixed = false)
include hp hf

/-- A stale ticket is left. -/
theorem exec_tickDrop_stale (hs : tkStale s (lane64 (own s).a j.toNat) = true) :
    exec (.tickDrop la j) s = .next (ran (.tickDrop la j) la.toNat [] s) :=
  run_results (body := tickDropBody j) hp (Act.gives_bind (Act.gives_get s)
    (Act.gives_ite_neg (ne_true_of_eq_false hf) (Act.gives_ite_pos hs (Act.gives_pure _ s)))) rfl

theorem exec_tickDrop_frees (hs : tkStale s (lane64 (own s).a j.toNat) = false)
    (hd : tkDomain (lane64 (own s).a j.toNat) = (own s).domainId) :
    exec (.tickDrop la j) s = .next (ran (.tickDrop la j) la.toNat [] (freeTicket (lane64 (own s).a j.toNat) s)) :=
  run_completes (body := tickDropBody j) hp (calm_freeTicket _ s) (Act.gives_bind (Act.gives_get s)
    (Act.gives_ite_neg (ne_true_of_eq_false hf) (Act.gives_ite_neg (ne_true_of_eq_false hs)
      (Act.gives_ite_neg (by simp [hd]) (Act.gives_bind (Act.gives_modify _ s) (Act.gives_pure _ _)))))) rfl

theorem exec_tickQ : exec (.tickQ la j) s = .next (ran (.tickQ la j) la.toNat
    [.a (setLane64 (own s).a 0 (BitVec.ofNat 64 (ticketState s (own s) (lane64 (own s).a j.toNat))))] s) :=
  run_results (body := tickQBody j) hp (Act.gives_bind (Act.gives_get s)
    (Act.gives_ite_neg (ne_true_of_eq_false hf) (Act.gives_pure _ s))) rfl
end

/-! ## LAWO (13 R305, R307) -/

theorem quiet_stayQueue (p : Place) (s : State) : Quiet s (lawFetch.stayQueue p s) := by
  cases p with
  | dev key => exact quiet_queueRead key none s
  | _ => exact Quiet.refl s

/-- The entries of a table that the law unit reads come through the region table and the home caches. -/
theorem quiet_lawFetch (k : StrandId) (addr : W64) (tenant : Option Nat) (indexes : List Nat) :
    (lawFetch k addr tenant indexes).quiet := by
  cases tenant with
  | none => exact Act.quiet_pure ()
  | some n =>
    refine Act.quiet_bind Act.quiet_get fun s => ?_
    refine Act.quiet_bind (Act.quiet_forM _ fun i => Act.quiet_bind Act.quiet_get fun u => ?_) fun _ => ?_
    · split
      · exact Act.fails_quiet (fails_strandFault _ _ _ _)
      next place _ =>
        split
        · exact Act.quiet_bind (Act.quiet_modify (quiet_stayQueue place)) fun _ => Act.quiet_throw _
        · exact Act.quiet_pure ()
    · exact Act.quiet_modify fun u => Quiet.foldl _ _ u fun v i _ =>
        (quiet_countRegion _ _ _ v).trans (quiet_homeTouch _ false _)

theorem calm_unitCache (c : CoreId) (tenant : Option Nat) (index : Nat) (s : State) : Calm s (unitCache c tenant index s) := by
  cases tenant with
  | none => exact Calm.refl s
  | some n =>
    unfold unitCache
    dsimp only
    split <;> exact ⟨rfl, rfl⟩

theorem calm_scratchStore (c : CoreId) (bs : List (Nat × Byte)) (s : State) : Calm s (scratchStore c bs s) := ⟨rfl, rfl⟩

theorem calm_packetOut (p : Packet) (s : State) : Calm s (packetOut p s) := by
  unfold packetOut
  split
  · exact (quiet_outgoing _ _ s).calm.trans ⟨rfl, rfl⟩
  · exact ⟨rfl, rfl⟩

/-- A packet among those of the network. -/
def packetQueued (s : State) (p : Packet) : State := { s.fresh.2 with packets := s.fresh.2.packets ++ [p] }

theorem calm_packetQueued (s : State) (p : Packet) : Calm s (packetQueued s p) := ⟨rfl, rfl⟩

theorem calm_sendPacket (s : State) (p : Packet) : Calm s (sendPacket s p) := by
  unfold sendPacket
  dsimp only
  split
  · exact (calm_packetQueued s _).trans (calm_packetOut _ _)
  · exact calm_packetQueued s _

theorem calm_sendCrossings (r : LawResult) (addr : W64) (source : BitVec 32) (d : BitVec 16) (s : State) :
    Calm s (sendCrossings r addr source d s) := Calm.foldl _ _ s fun t _ => calm_sendPacket t _

theorem flagWrite_simple (n : Nat) : (flagWrite n).all RegWrite.simple = true := by
  unfold flagWrite
  split <;> rfl

theorem lawWrites_simple (a : Strip) (report : Option (List W64)) (n : Nat) :
    (lawWrites a report n).all RegWrite.simple = true := by
  cases report with
  | none => exact flagWrite_simple n
  | some r => exact flagWrite_simple n

/-- An instruction performs a law operation. -/
theorem lawo_performs {i : Instr} {la : BitVec 4} {form : LawForm} {inc : Bool} {p : BitVec 3}
    (h : i = .lawoRd la inc p ∧ form = .rd ∨ i = .lawoAdd la inc p ∧ form = .add ∨ i = .lawoSet la inc p ∧ form = .set ∨
      i = .lawoSwap la inc p ∧ form = .swap ∨ i = .lawoLaw la inc p ∧ form = .law ∨ i = .lawoChk la inc p ∧ form = .chk)
    (s : State) : exec i s = perform i la (lawBody form inc p) s := by
  obtain ⟨rfl, rfl⟩ | ⟨rfl, rfl⟩ | ⟨rfl, rfl⟩ | ⟨rfl, rfl⟩ | ⟨rfl, rfl⟩ | ⟨rfl, rfl⟩ := h <;> rfl

section
variable {s t : State} {i : Instr} {la : BitVec 4} {form : LawForm} {inc : Bool} {p : BitVec 3} {piece : Piece}
  (hp : plain s = true) (hx : exec i s = perform i la (lawBody form inc p) s)
  (ha : ((own s).ptr p).base.toNat % 16 = 0)
  (hr : (resolve s.cur .law [(((own s).ptr p).base.toNat, 16)]).gives s [piece] t)
include hp hx ha hr

/-- On a word of device memory the request goes out. -/
theorem exec_lawo_page {place : Place} (htg : piece.target = .page place) (hf : (own s).isFixed = false) :
    exec i s = .next (launched i la.toNat t.nextId (bump (own s) inc p) (sendHook
      { id := t.nextId, routine := form.routine, place := place, va := ((own s).ptr p).base
        h0 := lane64 (own s).a 0
        h1 := BitVec.ofNat 64 ((lane64 (own s).a 3).toNat % 256 * 2 ^ 32 + (lane64 (own s).a 1).toNat % 2 ^ 32)
        h3 := (own s).stime, rm := 0, tenant := requestTenant t (own s).domain, requester := .strand s.cur
        acquire := false, stage := 0, domain := (own s).domain } { t with nextId := t.nextId + 1 })) := by
  obtain ⟨tg, va, n⟩ := piece
  obtain rfl : tg = .page place := htg
  refine hx.trans (run_launches hp ((quiet_resolve _ _ _ _ _ _ hr).calm.trans
    (Calm.trans (t := t.fresh.2) ⟨rfl, rfl⟩ (calm_sendHook _ _))) ?_)
  refine Act.gives_bind (Act.gives_get s) (Act.gives_ite_neg (by simpa using ha) (Act.gives_bind hr ?_))
  exact Act.gives_ite_neg (ne_true_of_eq_false hf) (gives_request _ _ t)

/-- On a word of the own scratchpad the law unit serves it. -/
theorem exec_lawo_scratch {c : CoreId} {off : Nat} {r : LawResult} {w : State} (htg : piece.target = .scratch c off)
    (ho : overlaps (t.core c) off 16 = false) (hb : scratchBad (t.core c) off 16 = false) :
    let index := (lane64 (own s).a 3).toNat % 256
    let tn := tenantOf t (own s).domain
    let word := (t.core c).scratch.nat off 16
    (lawFetch s.cur ((own s).ptr p).base tn (form.reads (lawWord word).law index)).gives t () w →
    lawOp (unitEntry t c tn) form word (lane64 (own s).a 0).toNat ((lane64 (own s).a 1).toNat % 2 ^ 32) index (own s).stime =
      .ok r →
    let u := unitCache c tn (if form == .set then index else (lawWord word).law) w
    let v := scratchStore c ((toBytes 16 r.word.image).zipIdx.map fun b => (off + b.2, b.1)) u
    exec i s = .next (ran i la.toNat (lawWrites (own s).a r.report r.flags ++ bump (own s) inc p)
      (sendCrossings r ((own s).ptr p).base (sourceId v.package.pkg.toNat c.panel c.index 15) (own s).domain v)) := by
  intro index tn word hl hop u v
  obtain ⟨tg, va, n⟩ := piece
  obtain rfl : tg = .scratch c off := htg
  have hc : Calm s v := (quiet_resolve _ _ _ _ _ _ hr).calm.trans ((quiet_lawFetch _ _ _ _ _ _ _ hl).calm.trans
    ((calm_unitCache _ _ _ w).trans (calm_scratchStore _ _ _)))
  refine hx.trans (run_completes hp (hc.trans (calm_sendCrossings _ _ _ _ _)) ?_
    (by simp [lawWrites_simple, bump_simple]))
  refine Act.gives_bind (Act.gives_get s) (Act.gives_ite_neg (by simpa using ha) (Act.gives_bind hr ?_))
  refine Act.gives_bind (Act.gives_get t) (Act.gives_ite_neg (ne_true_of_eq_false ho)
    (Act.gives_ite_neg (ne_true_of_eq_false hb) (Act.gives_bind hl ?_)))
  simp only [tn, word, index] at hop
  rw [hop]
  exact Act.gives_bind (Act.gives_modify _ w) (Act.gives_pure _ _)
end

/-- Settles O40: SHIP, LD, RD and LAWO of device memory send a request; DROP, Q and LAWO of a scratchpad word end at once. -/
theorem requestsComplete : Obligations.RequestsComplete := by
  intro s la p hp
  refine ⟨fun ord rm n place t hf => exec_ship hp la rm hf, fun j sz piece place t hf => exec_tickLd hp la j sz hf, ?_,
    fun j => ⟨?_, exec_tickDrop_stale hp la j, exec_tickDrop_frees hp la j, exec_tickQ hp la j⟩, ?_⟩
  · intro j v n off y hf hg hi ha hh ho hl
    exact ⟨_, exec_tickRd hp la j hf hg hi ha hh ho hl, congrArg Strand.pc (stays_strand _ _ _),
      congrArg Strand.pending (stays_strand _ _ _), ranges_redeemSent _ _ _ _ _, rfl⟩
  · intro i hi hf
    obtain ⟨hnow, hlater⟩ := tick_fixed hp hi hf
    have hnext : nextPc i s = (own s).pc + 4 := by obtain rfl | rfl := hi <;> rfl
    rw [Raises, hnext] at hnow
    exact ⟨fun hla => (hnow hla).1, fun hla => (hnow hla).2, hlater⟩
  · intro i form inc piece t h ha hr
    exact ⟨fun place htg hf => exec_lawo_page hp (lawo_performs h s) ha hr htg hf,
      fun c off r w htg ho hb => exec_lawo_scratch hp (lawo_performs h s) ha hr htg ho hb⟩

end Sys2Proof.Machine
end

section
/-!
PROOFS. SteadyLaws.lean: what wakes strands, starts matrix commands or fills their queue leaves alone a READY strand with nothing
pending (06 R145, R146; 14 R338), so that an instruction that does so completes as one that changes no strand.
-/
namespace Sys2Proof.Machine

/-! ## A listed entry of a table -/

/-- An entry that is listed stands as it did after a write of any other, whatever is written. -/
theorem Table.get_set_listed {α : Type} [DecidableEq α] (d : α) (t : Table α) {k j : Nat} (v : α) (h : Table.get d t k ≠ d)
    (hj : k ≠ j) : Table.get d (Table.set d t j v) k = Table.get d t k := by
  by_cases hv : v = d
  · subst hv
    induction t with
    | nil => exact absurd rfl h
    | cons e t ih =>
      obtain ⟨i, u⟩ := e
      by_cases h1 : j = i
      · subst h1
        by_cases h2 : k < j
        · simp [Table.get, hj, h2] at h
        · simp [Table.set, Table.get, hj, h2]
      · by_cases h2 : j < i
        · simp [Table.set, h1, h2]
        · by_cases h3 : k = i
          · simp [Table.set, Table.get, h1, h2, h3]
          · by_cases h4 : k < i
            · simp [Table.get, h3, h4] at h
            · simp only [Table.get, h3, h4, if_false] at h
              simp [Table.set, Table.get, h1, h2, h3, h4, ih h]
  · exact Table.get_set_other d t hv hj

/-- An entry that is listed, once every entry is mapped. -/
theorem Table.get_map_listed {α : Type} {d : α} {t : Table α} {k : Nat} (f : Nat × α → α) (h : Table.get d t k ≠ d) :
    Table.get d (t.map fun e => (e.1, f e)) k = f (k, Table.get d t k) := by
  induction t with
  | nil => exact absurd rfl h
  | cons e t ih =>
    obtain ⟨i, u⟩ := e
    by_cases h1 : k = i
    · simp [Table.get, h1]
    · by_cases h2 : k < i
      · simp [Table.get, h1, h2] at h
      · simp only [Table.get, h1, h2, if_false] at h
        simp [Table.get, h1, h2, ih h]

/-! ## Strands that issue are left alone -/

/-- The strand in hand is the same, and strand k stands as it did, where it is READY with nothing pending. -/
def Steady (k : StrandId) (s t : State) : Prop :=
  t.cur = s.cur ∧ ((s.strand k).state = .ready → (s.strand k).pending = [] → t.strand k = s.strand k)

theorem Steady.trans {k : StrandId} {s t u : State} (h : Steady k s t) (g : Steady k t u) : Steady k s u := by
  refine ⟨g.1.trans h.1, fun hr hp => ?_⟩
  have hs := h.2 hr hp
  exact (g.2 (hs ▸ hr) (hs ▸ hp)).trans hs

theorem Calm.steady {s t : State} (h : Calm s t) (k : StrandId) : Steady k s t :=
  ⟨h.cur, fun _ _ => by simp only [State.strand, h.strands]⟩

theorem Steady.refl (k : StrandId) (s : State) : Steady k s s := (Calm.refl s).steady k

theorem Steady.foldl {α : Type} {k : StrandId} (l : List α) (f : State → α → State) (s : State)
    (h : ∀ t a, Steady k t (f t a)) : Steady k s (l.foldl f s) := by
  induction l generalizing s with
  | nil => exact Steady.refl k s
  | cons a l ih => exact (h s a).trans (ih _)

/-- The strand in hand is as plain as it was. -/
theorem Steady.plain {s t : State} (h : Steady s.cur s t) (hp : plain s = true) :
    plain t = true ∧ t.cur = s.cur ∧ own t = own s := by
  have hf := plain_facts hp
  have hs : t.strand s.cur = s.strand s.cur := h.2 hf.ready hf.pending
  refine ⟨?_, h.1, ?_⟩
  · unfold Sys2Proof.Machine.plain at hp ⊢
    rwa [h.1, hs]
  · unfold own
    rw [h.1, hs]

section
variable {i : Instr} {la : Nat} {body : Strand → Act Effect} {s t : State} (hp : plain s = true) (hc : Steady s.cur s t)
include hp hc

theorem run_steady_completes {ws : List RegWrite} (hb : (body (own s)).gives s { ws := ws } t)
    (hw : ws.all RegWrite.simple = true) : run i la (destsOf i) body s = .next (ran i la ws t) := by
  obtain ⟨hpt, hct, -⟩ := hc.plain hp
  exact issue_after (plain_facts hp).view hb hpt hct hw rfl rfl

theorem run_steady_waits {w : WaitOn} (hb : (body (own s)).gives s { wait := some w } t) :
    run i 0 (destsOf i) body s = .next (waitsOn i w t) := by
  obtain ⟨hpt, hct, hot⟩ := hc.plain hp
  exact issue_wait (plain_facts hp).view hb hpt hct hot
end

/-! ## Waking (06 R145, R146) -/

theorem steady_wakeAll (k : StrandId) (kind obj : Nat) (test : Strand → Bool) (d : Option Horizon) (s : State) :
    Steady k s (wakeAll kind obj test d s) := by
  unfold wakeAll
  dsimp only
  split
  · refine ⟨rfl, fun hr _ => ?_⟩
    have hw : (s.strand k).waits = false := by simp [Strand.waits, hr]
    have hmap : ∀ hit : Nat × Strand → Bool, hit (k, s.strand k) = false →
        Table.get {} (s.strands.map fun e => if hit e then (e.1, { e.2 with satisfied := true, deposit := d }) else e) k =
          s.strand k := by
      intro hit hk
      have hf : (fun e : Nat × Strand => if hit e then (e.1, { e.2 with satisfied := true, deposit := d }) else e) =
          fun e => (e.1, if hit e then { e.2 with satisfied := true, deposit := d } else e.2) := by
        funext e
        split <;> rfl
      rw [hf, Table.get_map_listed _ (Strand.ne_default hr)]
      exact if_neg (ne_true_of_eq_false hk)
    exact hmap _ (by simp only [hw, Bool.false_and])
  · exact Steady.refl k s

/-! ## Events for tenants (03 R95) -/

theorem calm_raiseVector (t v : Nat) (s : State) : Calm s (raiseVector t v s) := by
  unfold raiseVector
  dsimp only
  split <;> exact ⟨rfl, rfl⟩

theorem calm_setTenant (s : State) (t : Nat) (x : Tenant) : Calm s (s.setTenant t x) := ⟨rfl, rfl⟩
theorem calm_setHostBytes (s : State) (a : Nat) (bs : List Byte) : Calm s (setHostBytes s a bs) := ⟨rfl, rfl⟩

theorem calm_ringWrite (s : State) (t : Nat) (r : BitVec 512) : Calm s (ringWrite s t r) := by
  unfold ringWrite
  extract_lets x n size empty u since due v
  have hw : Calm s v := (calm_setHostBytes s _ _).trans (calm_setTenant u t _)
  split
  · exact hw.trans (calm_raiseVector _ _ _)
  · exact hw

theorem calm_serviceWrite (s : State) (r : BitVec 512) : Calm s (serviceWrite s r) := by
  refine Calm.trans (t := setPaBytes s _ _) ?_ ⟨rfl, rfl⟩
  unfold setPaBytes
  split
  · exact ⟨rfl, rfl⟩
  · exact Calm.refl s

theorem calm_postEvent (s : State) (tenant : Option Nat) (src ty : Nat) (detail : List (Nat × Nat × Nat)) :
    Calm s (postEvent s tenant src ty detail) := by
  have hcount : Calm s (countEvent (tenant.getD 255) src s) := ⟨rfl, rfl⟩
  refine hcount.trans ?_
  unfold postEvent
  dsimp only
  split
  · split
    · exact calm_serviceWrite _ _
    · split <;> exact ⟨rfl, rfl⟩
  · split
    · exact ⟨rfl, rfl⟩
    · split
      · exact calm_ringWrite _ _ _
      · split <;> exact ⟨rfl, rfl⟩

/-! ## The matrix command queue (14 R338, R340, R345, R347) -/

theorem calm_postBadCommand (c : CoreId) (m : Command) (field : Option Nat) (s : State) : Calm s (postBadCommand c m field s) := by
  cases field <;> exact calm_postEvent _ _ _ _ _

theorem calm_matrixStop (c : CoreId) (cause strand : Nat) (s : State) : Calm s (matrixStop c cause strand s) :=
  calm_setCore s c _

theorem calm_matrixTry (c : CoreId) (s : State) : Calm s (matrixTry c s) := by
  unfold matrixTry
  dsimp only
  split
  · exact Calm.refl s
  · split
    · exact Calm.refl s
    · have hbad := fun (m : Command) (rest : List Command) (f : Option Nat) (cause n : Nat) =>
        ((calm_setCore s c { s.core c with cmdq := rest }).trans (calm_postBadCommand c m f _)).trans
          (calm_matrixStop c cause n _)
      split
      · exact hbad _ _ _ _ _
      · split
        · exact hbad _ _ _ _ _
        · split
          · exact (calm_setCore s c _).trans (calm_matrixStop c _ _ _)
          · split
            · exact (calm_setCore s c _).trans (calm_matrixStop c _ _ _)
            · split
              · exact Calm.refl s
              · refine Calm.trans ?_ (quiet_post _ _ _).calm
                exact calm_setCore s c _

theorem calm_commandsGone (c : CoreId) (s : State) : Calm s (commandsGone c s) := by
  have hpost : ∀ (t : State) (i : Instr) (a : EventArg), Calm t (t.post i a) := fun t i a => (quiet_post t i a).calm
  refine Calm.trans (Calm.foldl (coreStrands c) (fun s k =>
    if (s.strand k).pending.any Pending.lasts then s.post .lookaheadCommit { strand := k } else s) s fun t j => ?_) ?_
  · split
    · exact hpost _ _ _
    · exact Calm.refl t
  · unfold commandsGone
    dsimp only
    split
    · exact Calm.refl _
    · exact hpost _ _ _

/-- A strand some of whose pending instructions have changed. -/
theorem steady_mapPending (k j : StrandId) (f : Pending → Pending) (s : State) :
    Steady k s (s.setStrand j { s.strand j with pending := (s.strand j).pending.map f }) := by
  refine ⟨rfl, fun hr hp => ?_⟩
  have hn : s.strand k ≠ {} := Strand.ne_default hr
  by_cases hj : k = j
  · subst hj
    have hx : ({ s.strand k with pending := (s.strand k).pending.map f } : Strand) = s.strand k := by rw [hp, List.map_nil, ← hp]
    rw [hx, setStrand_strand hn]
  · exact Table.get_set_listed _ s.strands _ hn hj

theorem steady_holdChanges (k : StrandId) (c : CoreId) (s : State) : Steady k s (holdChanges c s) :=
  Steady.foldl _ _ s fun t j => by
    dsimp only
    split
    · exact Steady.refl k t
    · exact steady_mapPending k j _ t

theorem steady_fillQueue (k : StrandId) (c : CoreId) (n : Nat) (s : State) : Steady k s (fillQueue c n s) := by
  induction n generalizing s with
  | zero => exact Steady.refl k s
  | succ n ih =>
    unfold fillQueue
    dsimp only
    split
    · exact Steady.refl k s
    · next m _ _ =>
      split
      · exact Steady.refl k s
      · refine Steady.trans ?_ (ih _)
        refine Steady.trans ?_ ((quiet_post _ _ _).calm.steady k)
        refine Steady.trans ?_ (steady_holdChanges k c _)
        refine Steady.trans ?_ ((calm_setCore _ c _).steady k)
        exact steady_mapPending k (mkStrand c m.strand) _ s

theorem steady_matrixNext (k : StrandId) (c : CoreId) (s : State) : Steady k s (matrixNext c s) := by
  have ht : Steady k s (fillQueue c 16 (matrixTry c (fillQueue c 16 s))) :=
    ((steady_fillQueue k c 16 s).trans ((calm_matrixTry c _).steady k)).trans (steady_fillQueue k c 16 _)
  unfold matrixNext
  dsimp only
  split
  · exact ht
  · exact ht.trans ((calm_commandsGone c _).steady k)

theorem steady_matrixPush (k j : StrandId) (word : BitVec 512) (s : State) : Steady k s (matrixPush j word s) :=
  Steady.trans (t := (s.fresh.2).setCore j.core _) ⟨rfl, fun _ _ => rfl⟩
    ((steady_holdChanges k j.core _).trans (steady_matrixNext k j.core _))

/-! ## Objects (06 R156–R158) -/

theorem steady_counterMoved (k : StrandId) (id : Nat) (d : Option Horizon) (s : State) : Steady k s (counterMoved id d s) := by
  have hnext : ∀ (l : Table Core) (u : State),
      Steady k u (l.foldl (fun s e => if e.2.cmdq.isEmpty then s else matrixNext e.1 s) u) := fun l u =>
    Steady.foldl l _ u fun t e => by
      split
      · exact Steady.refl k t
      · exact steady_matrixNext k e.1 t
  unfold counterMoved
  dsimp only
  refine Steady.trans ?_ (hnext _ _)
  refine Steady.trans ?_ ((quiet_post _ _ _).calm.steady k)
  exact steady_wakeAll k 2 id _ d s

/-- A counter is written and moves. -/
theorem steady_counterSet (k : StrandId) (id : Nat) (d : Option Horizon) (v : Counter) (s : State) :
    Steady k s (counterMoved id d (setCounter id v s)) :=
  Steady.trans (t := setCounter id v s) ⟨rfl, fun _ _ => rfl⟩ (steady_counterMoved k id d _)

theorem steady_arriveBarrier (k : StrandId) (id : Nat) (q : Bool) (h : Option Horizon) (j : Nat) (s : State) :
    Steady k s (arriveBarrier id q h j s) := by
  have hset : ∀ b : Barrier, Steady k s (setBarrier id b s) := fun b => ⟨rfl, fun _ _ => rfl⟩
  unfold arriveBarrier
  dsimp only
  split
  · split
    · exact (hset _).trans (steady_wakeAll k 1 id _ _ _)
    · exact hset _
  · exact hset _

theorem steady_postRing (k : StrandId) (id : Nat) (s : State) : Steady k s (postRing id s) :=
  Steady.trans (t := setRing id _ s) ⟨rfl, fun _ _ => rfl⟩ (steady_wakeAll k 3 id _ none _)

end Sys2Proof.Machine
end

section
/-!
PROOFS. MessageLaws.lean: what END leaves where the table of strands is not canonical (O35), and MSG (O36).
-/
namespace Sys2Proof.Machine

/-! ## END (14 R318, 06 R139) -/

/-- The lead of core 0 and its registers all zero, listed twice in the table of strands: the form that log 2 excludes and the
statement admits. -/
def leadListedTwice : State :=
  { State.reset with cur := 0, ready := [0], strands := [(0, { state := .ready }), (0, { state := .ready })] }

/-- END makes the first entry the default, which is listed no more; the second is then the strand. -/
theorem end_uncovers_second : ((strandEnd leadListedTwice).strand 0).live = true := by decide +kernel

/-- Refutes O35 in its clause of END: the statement does not ask that the table of strands is canonical (log 2). -/
theorem not_strandsComplete : ¬ Obligations.StrandsComplete := by
  intro h
  obtain ⟨-, -, -, -, -, hend, -⟩ := h leadListedTwice (by decide +kernel)
  obtain ⟨t, ht, hfree, -⟩ := hend (.inl (by decide +kernel)) (by decide +kernel)
  have hlive : (t.strand 0).live = true := Host.Outcome.next.inj ht ▸ end_uncovers_second
  exact Bool.false_ne_true (hfree.symm.trans hlive)

/-! ## MSG (14 R323–R326, 06 R153) -/

section
variable {s : State} (hp : plain s = true) (la : BitVec 4)
include hp

theorem exec_msgSend (n : BitVec 5) (p : BitVec 3) (hf : (own s).isFixed = false)
    (hi : route s (privileged (own s).domain) ((own s).ptr p).base ≠ .invalid)
    (hr : route s (privileged (own s).domain) ((own s).ptr p).base ≠ .priv)
    (hb : sendFull s s.cur = false) (hc : corePerformed s s.cur = true) :
    exec (.msgSend la n p) s = .next (ran (.msgSend la n p) la.toNat [] (sendPacket s
      { id := 0, route := ((own s).ptr p).base, time := (own s).stime, source := strandSource s s.cur
        payload := (stripBytes (own s).a).take (8 * n.toNat), sender := some s.cur
        domain := (own s).domain, trusted := privileged (own s).domain })) := by
  refine run_completes hp (calm_sendPacket s _) ?_ rfl
  refine Act.gives_bind (Act.gives_get s) (Act.gives_ite_neg (ne_true_of_eq_false hf) ?_)
  dsimp only
  split
  · next h => exact absurd h hi
  · next h => exact absurd h hr
  · refine Act.gives_ite_neg (ne_true_of_eq_false hb) ?_
    exact Act.gives_bind (awaitCore_done hc) (Act.gives_bind (Act.gives_modify _ s) (Act.gives_pure _ _))

theorem exec_msgPop {c : BitVec 3} {m : Packet} {ms : List Packet} (hf : (own s).isFixed = false)
    (hm : channelOf (ownCore s) c.toNat = m :: ms) (hb : m.bad = []) :
    exec (.msgPop la c) s = .next (ran (.msgPop la c) la.toNat [.a (ofStripBytes m.payload)]
      (acquire s.cur.core (s.setCore s.cur.core (Core.freeClosed
        { ownCore s with mailbox := (ownCore s).mailbox.filter fun o => o.id != m.id })))) :=
  run_completes hp ((calm_setCore s _ _).trans (acquire_calm _ _))
    (Act.gives_bind (Act.gives_get s) (Act.gives_bind (popChannel_oldest hf hm hb) (Act.gives_pure _ _))) rfl

/-- PEEK reports what the channel's head gives: three zeros where there is none. -/
theorem exec_msgPeek {c : BitVec 3} {v : List W64} (hf : (own s).isFixed = false)
    (hv : (match channelOf (ownCore s) c.toNat with
      | [] => [0, 0, 0]
      | m :: _ => [m.source.setWidth 64, m.time, BitVec.ofNat 64 (2 ^ 16 + m.payload.length * 256 + m.pair.2.toNat)]) = v) :
    exec (.msgPeek la c) s = .next (ran (.msgPeek la c) la.toNat [.a (setLanesFrom (own s).a 0 v)] s) := by
  subst hv
  refine run_results hp (Act.gives_ite_neg (ne_true_of_eq_false hf) (Act.gives_bind (Act.gives_get s) ?_)) rfl
  exact Act.gives_pure _ s

omit hp in
/-- A binding that nothing forbids is added to the core's. -/
theorem bindTag_adds {b : Binding} (hq : 1 ≤ b.quota) (hq' : b.quota ≤ 64) (ht : ∀ o ∈ (ownCore s).bindings, o.tag ≠ b.tag)
    (hl : (ownCore s).bindings.length < 32) :
    (bindTag b false (own s)).gives s {} (s.setCore s.cur.core { ownCore s with bindings := (ownCore s).bindings ++ [b] }) := by
  have hquota : ¬(false || decide (b.quota = 0) || decide (64 < b.quota)) = true := by simp; omega
  have htaken : ¬((ownCore s).bindings.any fun o => o.tag == b.tag) = true := by simpa using ht
  refine Act.gives_bind (Act.gives_get s) (Act.gives_bind (Act.gives_get s) ?_)
  refine Act.gives_ite_neg hquota (Act.gives_ite_neg htaken (Act.gives_ite_neg (Nat.not_le.2 hl) ?_))
  exact Act.gives_bind (Act.gives_modify _ s) (Act.gives_pure _ _)

variable {t : BitVec 8} {p : BitVec 3}

theorem exec_msgBindc (c : BitVec 3) (hq : 1 ≤ ((own s).ptr p).count.toNat) (hq' : ((own s).ptr p).count.toNat ≤ 64)
    (ht : ∀ b ∈ (ownCore s).bindings, b.tag ≠ t) (hl : (ownCore s).bindings.length < 32) :
    exec (.msgBindc la c t p) s = .next (ran (.msgBindc la c t p) la.toNat [] (s.setCore s.cur.core
      { ownCore s with bindings := (ownCore s).bindings ++ [{ tag := t, kind := 2, chan := c
                                                              quota := ((own s).ptr p).count.toNat
                                                              domain := (own s).domain, entry := 0 }] })) :=
  run_completes hp (calm_setCore s _ _) (bindTag_adds hq hq' ht hl) rfl

omit hp in
/-- A binding of the tag is there: the check for it passes. -/
theorem any_tag (ht : ∃ b ∈ (ownCore s).bindings, b.tag = t) : ¬(!(ownCore s).bindings.any fun b => b.tag == t) = true := by
  simpa using ht

theorem exec_msgUnbind (ht : ∃ b ∈ (ownCore s).bindings, b.tag = t) (hm : ∀ m ∈ (ownCore s).mailbox, m.pair.2 ≠ t)
    (hh : handlerLive s s.cur.core t = false) :
    exec (.msgUnbind la t) s = .next (ran (.msgUnbind la t) la.toNat [] (s.setCore s.cur.core
      { ownCore s with bindings := (ownCore s).bindings.filter fun b => b.tag != t })) := by
  have hbusy : ¬(((ownCore s).mailbox.any fun m => m.pair.2 == t) || handlerLive s s.cur.core t) = true := by simpa [hh] using hm
  refine run_completes hp (calm_setCore s _ _) (Act.gives_bind (Act.gives_get s) ?_) rfl
  refine Act.gives_ite_neg (any_tag ht) (Act.gives_ite_neg hbusy ?_)
  exact Act.gives_bind (Act.gives_modify _ s) (Act.gives_pure _ _)

theorem exec_msgQuota (ht : ∃ b ∈ (ownCore s).bindings, b.tag = t) (hq : 1 ≤ ((own s).ptr p).count.toNat)
    (hq' : ((own s).ptr p).count.toNat ≤ 64) :
    exec (.msgQuota la t p) s = .next (ran (.msgQuota la t p) la.toNat [] (s.setCore s.cur.core
      { ownCore s with bindings := (ownCore s).bindings.map fun b =>
          if b.tag == t then { b with quota := ((own s).ptr p).count.toNat } else b })) := by
  have hquota : ¬(decide (((own s).ptr p).count.toNat = 0) || decide (64 < ((own s).ptr p).count.toNat)) = true := by simp; omega
  refine run_completes hp (calm_setCore s _ _) (Act.gives_bind (Act.gives_get s) ?_) rfl
  refine Act.gives_ite_neg (any_tag ht) (Act.gives_ite_neg hquota ?_)
  exact Act.gives_bind (Act.gives_modify _ s) (Act.gives_pure _ _)

end

/-- Settles O36: each form passes its checks, and changes no strand. -/
theorem messagesComplete : Obligations.MessagesComplete := by
  intro s la t p c hp
  exact ⟨fun n hf hi hr hb hc => exec_msgSend hp la n p hf hi hr hb hc, fun m ms hf hm hb => exec_msgPop hp la hf hm hb,
    fun hf hm => exec_msgPeek hp la hf (by rw [hm]), fun m ms hf hm => exec_msgPeek hp la hf (by rw [hm]),
    fun hq hq' ht hl => exec_msgBindc hp la c hq hq' ht hl, fun ht hm hh => exec_msgUnbind hp la ht hm hh,
    fun ht hq hq' => exec_msgQuota hp la ht hq hq'⟩

end Sys2Proof.Machine
end

section
/-!
PROOFS. SyncLaws.lean: SYNC (O37) and RING (O38) on objects of the own domain: the checks of the object once, then what each form
does.
-/
namespace Sys2Proof.Machine

/-! ## The object (14 R321, 08 R200) -/

section
variable {s : State} {p : BitVec 3} {kind : ObjKind} (hid : ((own s).ptr p).base.toNat < 65536)
  (ho : objCause s kind ((own s).ptr p).base.toNat (own s).domain = none)
include hid ho

theorem syncObject_names : (syncObject kind p (own s)).gives s ((own s).ptr p).base.toNat s := by
  refine Act.gives_ite_neg (Nat.not_le.2 hid) (Act.gives_bind (Act.gives_get s) ?_)
  rw [ho]
  exact Act.gives_pure _ s

variable (hf : (own s).isFixed = false)
include hf

theorem plainCounter_names (hk : kind = .counter) (hi : inPalette s false ((own s).ptr p).base.toNat = false) :
    (plainCounter p (own s)).gives s ((own s).ptr p).base.toNat s := by
  subst hk
  refine Act.gives_bind (syncObject_names hid ho) (Act.gives_bind (Act.gives_get s) (Act.gives_ite_neg ?_ (Act.gives_pure _ s)))
  simp [hf, hi]

theorem ringObject_names (hk : kind = .ring) : (ringObject p (own s)).gives s ((own s).ptr p).base.toNat s := by
  subst hk
  exact Act.gives_bind (syncObject_names hid ho) (Act.gives_ite_neg (ne_true_of_eq_false hf) (Act.gives_pure _ s))
end

theorem paletteCheck_none {barrier : Bool} {id : Nat} {x : Strand} {s : State} (hf : x.isFixed = false)
    (hi : inPalette s barrier id = false) : (paletteCheck barrier id x).gives s none s :=
  Act.gives_bind (Act.gives_get s) (Act.gives_ite_neg (ne_true_of_eq_false hf)
    (Act.gives_ite_neg (ne_true_of_eq_false hi) (Act.gives_pure _ s)))

/-! ## Barriers (06 R156) -/

theorem arriveAct_arrives {q : Bool} {id : Nat} {x : Strand} {s : State} (hc : corePerformed s s.cur = true)
    (hr : overruns (barrierOf s id) q = false) : (arriveAct q id none x).gives s () (arriveBarrier id q none 0 s) :=
  Act.gives_bind (Act.gives_get s) (Act.gives_bind (awaitCore_done hc) (Act.gives_bind (Act.gives_get s)
    (Act.gives_ite_neg (ne_true_of_eq_false hr) (Act.gives_modify _ s))))

/-- Out of fixed mode a wait for a phase joins nothing. -/
theorem waitPhase_gives (q : Bool) (id : Nat) {x : Strand} (hf : x.isFixed = false) (s : State) :
    (waitPhase q id x).gives s (if (barrierOf s id).phase != q then {} else { wait := some (.barrier id q) })
      (if (barrierOf s id).phase != q then acquire s.cur.core s else s) := by
  refine Act.gives_bind (Act.gives_get s) ?_
  dsimp only
  split
  · rw [if_neg (ne_true_of_eq_false hf)]
    exact Act.gives_bind (Act.gives_pure () s) (Act.gives_bind (Act.gives_modify _ s) (Act.gives_pure _ _))
  · exact Act.gives_pure _ s

section
variable {s : State} (hp : plain s = true)
include hp

/-- An instruction that ends as a wait: it goes on as an acquire where the condition c holds, and else its strand waits. -/
theorem run_waits_unless {i : Instr} {body : Strand → Act Effect} {t : State} {w : WaitOn} {c : Prop} [Decidable c]
    (hc : Steady s.cur s t)
    (hb : (body (own s)).gives s (if c then {} else { wait := some w }) (if c then acquire t.cur.core t else t)) :
    run i 0 (destsOf i) body s = .next (if c then ran i 0 [] (acquire s.cur.core t) else waitsOn i w t) := by
  split
  · next h =>
    simp only [h, if_true, hc.1] at hb
    exact run_steady_completes hp (hc.trans ((acquire_calm _ t).steady _)) hb rfl
  · next h =>
    simp only [h, if_false] at hb
    exact run_steady_waits hp hc hb

variable {p : BitVec 3} (hf : (own s).isFixed = false) (hid : ((own s).ptr p).base.toNat < 65536)
include hf hid

section
variable (d : BitVec 1) (ho : objCause s .barrier ((own s).ptr p).base.toNat (own s).domain = none)
  (hi : inPalette s true ((own s).ptr p).base.toNat = false)
include ho hi

theorem exec_syncArrive (hc : corePerformed s s.cur = true)
    (hr : overruns (barrierOf s ((own s).ptr p).base.toNat) (d == 1) = false) :
    exec (.syncArrive d p) s = .next (ran (.syncArrive d p) 0 [] (arriveBarrier ((own s).ptr p).base.toNat (d == 1) none 0 s)) :=
  run_steady_completes hp (steady_arriveBarrier _ _ _ _ _ s) (Act.gives_bind (syncObject_names hid ho)
    (Act.gives_bind (paletteCheck_none hf hi) (Act.gives_bind (arriveAct_arrives hc hr) (Act.gives_pure _ _)))) rfl

theorem exec_syncArrwt (hc : corePerformed s s.cur = true)
    (hr : overruns (barrierOf s ((own s).ptr p).base.toNat) (d == 1) = false) :
    let t := arriveBarrier ((own s).ptr p).base.toNat (d == 1) none 0 s
    exec (.syncArrwt d p) s = .next (if (barrierOf t ((own s).ptr p).base.toNat).phase != (d == 1)
      then ran (.syncArrwt d p) 0 [] (acquire s.cur.core t)
      else waitsOn (.syncArrwt d p) (.barrier ((own s).ptr p).base.toNat (d == 1)) t) :=
  run_waits_unless hp (steady_arriveBarrier _ _ _ _ _ s) (Act.gives_bind (syncObject_names hid ho)
    (Act.gives_bind (paletteCheck_none hf hi) (Act.gives_bind (arriveAct_arrives hc hr) (waitPhase_gives _ _ hf _))))

theorem exec_syncWait :
    exec (.syncWait d p) s = .next (if (barrierOf s ((own s).ptr p).base.toNat).phase != (d == 1)
      then ran (.syncWait d p) 0 [] (acquire s.cur.core s)
      else waitsOn (.syncWait d p) (.barrier ((own s).ptr p).base.toNat (d == 1)) s) :=
  run_waits_unless hp (Steady.refl _ s) (Act.gives_bind (syncObject_names hid ho)
    (Act.gives_bind (paletteCheck_none hf hi) (waitPhase_gives _ _ hf s)))
end

/-! ## Counters (06 R157) -/

section
variable (ho : objCause s .counter ((own s).ptr p).base.toNat (own s).domain = none)
  (hi : inPalette s false ((own s).ptr p).base.toNat = false)
include ho hi

theorem exec_syncSignal (hc : corePerformed s s.cur = true) :
    exec (.syncSignal p) s = .next (ran (.syncSignal p) 0 []
      (signalCounter ((own s).ptr p).base.toNat ((own s).ptr p).count s)) :=
  run_steady_completes hp (steady_counterSet _ _ _ _ s) (Act.gives_bind (syncObject_names hid ho)
    (Act.gives_bind (paletteCheck_none hf hi) (Act.gives_bind (Act.gives_get s)
      (Act.gives_bind (awaitCore_done hc) (Act.gives_bind (Act.gives_modify _ s) (Act.gives_pure _ _)))))) rfl

theorem exec_syncCset (hc : corePerformed s s.cur = true) :
    exec (.syncCset p) s = .next (ran (.syncCset p) 0 [] (counterMoved ((own s).ptr p).base.toNat none
      (setCounter ((own s).ptr p).base.toNat
        { counterOf s ((own s).ptr p).base.toNat with value := ((own s).ptr p).count } s))) :=
  run_steady_completes hp (steady_counterSet _ _ _ _ s) (Act.gives_bind (plainCounter_names hid ho hf rfl hi)
    (Act.gives_bind (Act.gives_get s) (Act.gives_bind (awaitCore_done hc)
      (Act.gives_bind (Act.gives_modify _ s) (Act.gives_pure _ _))))) rfl

theorem exec_syncCwait :
    exec (.syncCwait p) s = .next (if ((own s).ptr p).count.toNat ≤ (counterOf s ((own s).ptr p).base.toNat).value.toNat
      then ran (.syncCwait p) 0 [] (acquire s.cur.core s)
      else waitsOn (.syncCwait p) (.counter ((own s).ptr p).base.toNat ((own s).ptr p).count) s) := by
  refine run_waits_unless hp (Steady.refl _ s) (Act.gives_bind (syncObject_names hid ho)
    (Act.gives_bind (paletteCheck_none hf hi) (Act.gives_bind (Act.gives_get s) ?_)))
  dsimp only
  split
  · exact Act.gives_ite_neg (ne_true_of_eq_false hf) (Act.gives_bind (Act.gives_modify _ s) (Act.gives_pure _ _))
  · exact Act.gives_pure _ s

theorem exec_syncCread :
    exec (.syncCread p) s = .next (ran (.syncCread p) 0
      [.a (setLane64 (own s).a 0 ((counterOf s ((own s).ptr p).base.toNat).value.setWidth 64))] s) :=
  run_results hp (Act.gives_bind (plainCounter_names hid ho hf rfl hi)
    (Act.gives_bind (Act.gives_get s) (Act.gives_pure _ s))) rfl
end

/-! ## Rings (14 R322, 06 R158) -/

section
variable (ho : objCause s .ring ((own s).ptr p).base.toNat (own s).domain = none)
include ho

theorem exec_ringAwait (hr : ringReady (ringOf s ((own s).ptr p).base.toNat) = true) :
    let r := ringOf s ((own s).ptr p).base.toNat
    exec (.ringAwait p) s = .next (ran (.ringAwait p) 0
      [.a (setLanesFrom (own s).a 0 [slotAddress s.cur.core r r.rd, r.rd.setWidth 64])] (acquire s.cur.core s)) :=
  run_completes hp (acquire_calm _ s) (Act.gives_bind (ringObject_names hid ho hf rfl) (Act.gives_bind (Act.gives_get s)
    (Act.gives_ite_neg (by simp [hr]) (Act.gives_bind (Act.gives_modify _ s) (Act.gives_pure _ _))))) rfl

theorem exec_ringRelease (hr : ringReady (ringOf s ((own s).ptr p).base.toNat) = true) (hc : corePerformed s s.cur = true) :
    let r := ringOf s ((own s).ptr p).base.toNat
    exec (.ringRelease p) s = .next (ran (.ringRelease p) 0 [] (setRing ((own s).ptr p).base.toNat { r with rd := r.rd + 1 } s)) :=
  run_completes hp ⟨rfl, rfl⟩ (Act.gives_bind (ringObject_names hid ho hf rfl) (Act.gives_bind (Act.gives_get s)
    (Act.gives_ite_neg (by simp [hr]) (Act.gives_bind (Act.gives_get s) (Act.gives_bind (awaitCore_done hc)
      (Act.gives_bind (Act.gives_modify _ s) (Act.gives_pure _ _))))))) rfl

theorem exec_ringPost (hr : ringFull (ringOf s ((own s).ptr p).base.toNat) = false) (hc : corePerformed s s.cur = true) :
    exec (.ringPost p) s = .next (ran (.ringPost p) 0 [] (postRing ((own s).ptr p).base.toNat s)) :=
  run_steady_completes hp (steady_postRing _ _ s) (Act.gives_bind (ringObject_names hid ho hf rfl) (Act.gives_bind (Act.gives_get s)
    (Act.gives_ite_neg (ne_true_of_eq_false hr) (Act.gives_bind (Act.gives_get s) (Act.gives_bind (awaitCore_done hc)
      (Act.gives_bind (Act.gives_modify _ s) (Act.gives_pure _ _))))))) rfl

theorem exec_ringSlot :
    let r := ringOf s ((own s).ptr p).base.toNat
    exec (.ringSlot p) s = .next (ran (.ringSlot p) 0
      [.a (setLanesFrom (own s).a 0 [slotAddress s.cur.core r r.wr, (r.wr - r.rd).setWidth 64])] s) :=
  run_results hp (Act.gives_bind (ringObject_names hid ho hf rfl) (Act.gives_bind (Act.gives_get s) (Act.gives_pure _ s))) rfl
end
end

/-- Settles O37: the object passes its checks; arrivals and signals leave the strand that issues them alone (`Steady`), and a wait
is one of two ends. -/
theorem syncComplete : Obligations.SyncComplete := by
  intro s p d hp
  dsimp only
  intro hf
  refine ⟨?_, ?_, ?_, ?_⟩
  · rintro ⟨hid, ho, hi⟩ hc hr
    exact ⟨exec_syncArrive hp hf hid d ho hi hc hr, exec_syncArrwt hp hf hid d ho hi hc hr⟩
  · rintro ⟨hid, ho, hi⟩
    exact exec_syncWait hp hf hid d ho hi
  · rintro ⟨hid, ho, hi⟩ hc
    exact ⟨exec_syncSignal hp hf hid ho hi hc, exec_syncCset hp hf hid ho hi hc⟩
  · rintro ⟨hid, ho, hi⟩
    exact ⟨exec_syncCwait hp hf hid ho hi, exec_syncCread hp hf hid ho hi⟩

/-- Settles O38: the ring passes its checks, and each form finds the slots it needs. -/
theorem ringsComplete : Obligations.RingsComplete := by
  intro s p hp
  dsimp only
  intro hf hid ho
  exact ⟨fun hr => exec_ringAwait hp hf hid ho (bne_iff_ne.2 hr), fun hr hc => exec_ringRelease hp hf hid ho (bne_iff_ne.2 hr) hc,
    fun hr hc => exec_ringPost hp hf hid ho (beq_eq_false_iff_ne.2 hr) hc, exec_ringSlot hp hf hid ho⟩

end Sys2Proof.Machine
end

section
/-!
PROOFS. EngineLaws.lean: COPY, MTRX and pushes of the command window as their strands issue them (O39).
-/
namespace Sys2Proof.Machine

/-! ## APPEND (14 R328, R329) -/

theorem quiet_headerBytes (k : StrandId) (x : Strand) (va n : Nat) : (headerBytes k x va n).quiet := by
  unfold headerBytes
  split
  · refine Act.quiet_bind (quiet_awaitAcquire k) fun _ => Act.quiet_bind (Act.quiet_modify fun s => quiet_dropIfGone _ _ s) fun _ =>
      Act.quiet_bind (quiet_resolve _ _ _) fun l => ?_
    split
    · refine Act.quiet_bind (quiet_readBytes _ _ _ _) fun l => ?_
      split
      · exact Act.fails_quiet (Act.fails_left (Act.fails_throw _))
      · exact Act.quiet_pure _
    · exact quiet_readPiece _ _
    · exact Act.quiet_pure _
  · exact Act.quiet_bind (quiet_load _ _ _) fun l => Act.quiet_pure _

theorem calm_slotLeaves (k : StrandId) (pages : List Nat) : (slotLeaves k pages).calm := by
  refine Act.calm_bind (Act.calm_mapM pages fun a => ?_) fun l => Act.calm_pure _
  split
  · exact Act.calm_pure _
  · refine Act.calm_bind (Act.calm_modifyGet fun s => (quiet_translate _ _ s).calm) fun r => ?_
    split <;> exact Act.calm_pure _

/-- A step that only some strands take, and that leaves what follows to go on. -/
theorem Act.gives_when {α : Type} {c : Prop} [Decidable c] {m n : Act α} {s t : State} {a : α}
    (hm : c → n.gives s a t → m.gives s a t) (hn : n.gives s a t) : (if c then m else n).gives s a t := by
  split
  · next h => exact hm h hn
  · exact hn

section
variable {s : State} (hp : plain s = true)
include hp

theorem exec_copyAppend (la : BitVec 4) {p : BitVec 3} {place : Place} {hdr : List Byte} {l : List Piece}
    {leaves : List (Nat × W64 × Nat)} {t t' u v : State} :
    let x := own s
    let k := s.cur
    let va := (x.ptr p).base
    let base := ofBytes (hdr.take 8)
    let logcap := min (ofBytes (hdr.drop 8)) 16
    let pages := pagesOf base (2 ^ logcap * 64)
    let word := BitVec.ofNat 512 (x.a.toNat % 2 ^ 448)
    let skein := fun (at_ : Nat) => skeinSeen v k (recBits word at_ 6)
    va.toNat % 128 = 0 → (hookPlace k .ship va).gives s place t →
    (x.isFixed = true ∨ (bufferCheck k va.toNat place 0 128).gives t () t) →
    (headerBytes k x (va.toNat + 32) 9).gives t hdr t' →
    (resolve k .write (pages.map fun a => (a, 1))).gives t' l u → (slotLeaves k pages).gives u leaves v →
    (x.isFixed = true ∨ corePerformed v k = true ∧ ∀ j ∈ v.copyJobs, j.appender ≠ some k) →
    exec (.copyAppend la p) s = .next (launched (.copyAppend la p) la.toNat v.nextId [] (sendHook
      { id := v.nextId, routine := 20, place := place, va := va, h0 := 0, h1 := BitVec.ofNat 64 base
        h3 := BitVec.ofNat 64 logcap, rm := 0, tenant := requestTenant v x.domain, requester := .append k
        acquire := false, carrier := true, stage := 0, domain := x.domain, packet := word, skeinS := skein 24
        skeinD := skein 32, horizon := if x.isFixed then some (horizon v k) else none, leaves := leaves }
      { v with nextId := v.nextId + 1 })) := by
  intro x k va base logcap pages word skein ha hpl hbuf hhdr hres hlv hfree
  have hc : Calm s v := (((quiet_hookPlace _ _ _ _ _ _ hpl).calm.trans (quiet_headerBytes _ _ _ _ _ _ _ hhdr).calm).trans
    (quiet_resolve _ _ _ _ _ _ hres).calm).trans (calm_slotLeaves _ _ _ _ _ hlv)
  refine run_launches hp (hc.trans (Calm.trans (t := v.fresh.2) ⟨rfl, rfl⟩ (calm_sendHook _ _))) ?_
  have hnot : (!x.isFixed) = true → x.isFixed ≠ true := by simp
  refine Act.gives_bind (Act.gives_get s) (Act.gives_ite_neg (by simpa using ha) (Act.gives_bind hpl ?_))
  refine Act.gives_when (fun h hend => Act.gives_bind (hbuf.resolve_left (hnot h)) hend) ?_
  refine Act.gives_bind hhdr (Act.gives_bind hres (Act.gives_bind hlv (Act.gives_when (fun h hend => ?_) ?_)))
  · obtain ⟨hcore, hjobs⟩ := hfree.resolve_left (hnot h)
    have hnone : ¬(v.copyJobs.any fun j => j.appender == some k) = true := by simpa using hjobs
    exact Act.gives_bind (awaitCore_done hcore) (Act.gives_bind (Act.gives_get v) (Act.gives_ite_neg hnone hend))
  · exact Act.gives_bind (Act.gives_modifyGet State.fresh v) (Act.gives_bind (Act.gives_get _)
      (Act.gives_bind (Act.gives_modify _ _) (Act.gives_pure _ _)))

end

/-! ## EXPECT (14 R330, 20 R379) -/

/-- The zone of this number in a core's scoreboard is armed. -/
def armZone (c : CoreId) (id : Nat) (s : State) : State :=
  s.setCore c { s.core c with
    ranges := (s.core c).ranges.map fun r => if r.zone && r.id == id then { r with armed := true } else r }

/-- A lone pending instruction whose result is a zone arms it. -/
theorem commitReady_zone {s : State} {k : StrandId} {x : Strand} {p : Pending} {id : Nat} (hx : x.live = true) (next : W64)
    (hl : p.left = 0) (hp : p.state = .done [.zone id]) :
    commitReady k 1 (s.setStrand k (x.moved next [p])) = (armZone k.core id s).setStrand k (x.moved next []) := by
  have hn : x.moved next [p] ≠ {} := moved_ne_default hx
  have hg : (s.setStrand k (x.moved next [p])).strand k = x.moved next [p] := State.strand_setStrand hn
  simp only [commitReady, hg, Strand.moved_pending, hp, hl, bne_self_eq_false, Bool.false_eq_true, if_false, applyWrites,
    State.setCore_strand]
  exact State.setStrand_setStrand (s := armZone k.core id s) hn

section
variable {s t : State} {i : Instr} {body : Strand → Act Effect} (hp : plain s = true) (hc : Calm s t)
include hp hc

theorem run_arms_zone {id : Nat} (hb : (body (own s)).gives s { ws := [.zone id] } t) :
    run i 0 (destsOf i) body s = .next (ran i 0 [] (armZone t.cur.core id t)) := by
  have h := plain_facts (hc.plain hp).1
  have hcan : ((own t).moved (nextPc i t) []).canIssue = true := h.canIssue_moved _ rfl
  have hpe : (own t).moved (nextPc i t) [] = { own t with pc := nextPc i t } := by
    unfold Strand.moved own
    rw [← h.pending]
  rw [run_joins hp hc hb, commitReady_zone h.live _ rfl rfl]
  refine (congrArg (fun u => Host.Outcome.next (clearReads t.cur u))
    (requeue_canIssue (s := armZone t.cur.core id t) hcan)).trans ?_
  rw [hpe]
  rfl
end

/-- A range is entered at the end of a core's scoreboard. -/
def addRange (c : CoreId) (r : Range) (s : State) : State := s.setCore c { s.core c with ranges := (s.core c).ranges ++ [r] }

theorem addRange_mem (c : CoreId) (r : Range) (s : State) : r ∈ ((addRange c r s).core c).ranges := by
  have hget : (addRange c r s).core c = { s.core c with ranges := (s.core c).ranges ++ [r] } :=
    Table.get_set_self _ s.cores c fun e =>
      absurd (congrArg Core.ranges e) (List.append_ne_nil_of_right_ne_nil _ (List.cons_ne_nil r []))
  rw [hget]
  exact List.mem_append_right _ (List.mem_singleton_self r)

theorem armZone_mem {c : CoreId} {r : Range} {s : State} (h : r ∈ (s.core c).ranges) (hz : r.zone = true) :
    { r with armed := true } ∈ ((armZone c r.id s).core c).ranges := by
  have hm : { r with armed := true } ∈
      (s.core c).ranges.map fun q => if q.zone && q.id == r.id then { q with armed := true } else q :=
    List.mem_map.2 ⟨r, h, if_pos (by simp [hz])⟩
  have hget : (armZone c r.id s).core c = { s.core c with
      ranges := (s.core c).ranges.map fun q => if q.zone && q.id == r.id then { q with armed := true } else q } :=
    Table.get_set_self _ s.cores c fun e => absurd (congrArg Core.ranges e) (List.ne_nil_of_mem hm)
  rw [hget]
  exact hm

/-- The zone that EXPECT enters. -/
def zoneAt (s : State) (p : BitVec 3) : Range :=
  { off := ((own s).ptr p).base.toNat - scratchBase, len := ((own s).ptr p).count.toNat, zone := true, id := s.nextId, landed := 0
    strand := s.cur.num }

section
variable {s : State} (hp : plain s = true) (la : BitVec 4) {p : BitVec 3}
include hp

omit hp in
theorem expectBody_enters (hi : inScratch ((own s).ptr p).base ((own s).ptr p).count.toNat = true)
    (hn : ((own s).ptr p).count.toNat ≠ 0)
    (ho : overlaps (ownCore s) (((own s).ptr p).base.toNat - scratchBase) ((own s).ptr p).count.toNat = false)
    (hr : (ownCore s).ranges.length < 16) :
    (expectBody p (own s)).gives s { ws := [.zone s.nextId] } (addRange s.cur.core (zoneAt s p) s.fresh.2) := by
  have hroom : ¬(!rangeFree (ownCore s)) = true := by simp [rangeFree, hr]
  have hland : ¬(!inScratch ((own s).ptr p).base ((own s).ptr p).count.toNat || decide (((own s).ptr p).count.toNat = 0) ||
      overlaps (ownCore s) (((own s).ptr p).base.toNat - scratchBase) ((own s).ptr p).count.toNat) = true := by simp [hi, hn, ho]
  refine Act.gives_bind (Act.gives_get s) (Act.gives_bind (Act.gives_get s) (Act.gives_ite_neg hland (Act.gives_ite_neg hroom ?_)))
  exact Act.gives_bind (Act.gives_modifyGet State.fresh s) (Act.gives_bind (Act.gives_modify _ _) (Act.gives_pure _ _))

theorem exec_copyExpect (hi : inScratch ((own s).ptr p).base ((own s).ptr p).count.toNat = true)
    (hn : ((own s).ptr p).count.toNat ≠ 0)
    (ho : overlaps (ownCore s) (((own s).ptr p).base.toNat - scratchBase) ((own s).ptr p).count.toNat = false)
    (hr : (ownCore s).ranges.length < 16) :
    ∃ t, exec (.copyExpect la p) s = .next t ∧ (t.strand s.cur).pc = (own s).pc + 4 ∧
      { zoneAt s p with armed := decide (la = 0) } ∈ (t.core s.cur.core).ranges := by
  have hb := expectBody_enters hi hn ho hr
  have hc : Calm s (addRange s.cur.core (zoneAt s p) s.fresh.2) := ⟨rfl, rfl⟩
  have hready : (own s).state = .ready := (plain_facts hp).ready
  have hmem := addRange_mem s.cur.core (zoneAt s p) s.fresh.2
  by_cases hla : la = 0
  · subst hla
    refine ⟨_, run_arms_zone hp hc hb, ?_, armZone_mem hmem rfl⟩
    exact congrArg Strand.pc (ran_strand (t := armZone s.cur.core s.nextId (addRange s.cur.core (zoneAt s p) s.fresh.2))
      (.copyExpect 0 p) 0 [] hready)
  · have hl : la.toNat ≠ 0 := fun h => hla (BitVec.eq_of_toNat_eq h)
    refine ⟨_, run_pends hp hc hl hb, ?_, ?_⟩
    · have hs := ran_strand (t := addRange s.cur.core (zoneAt s p) s.fresh.2) (.copyExpect la p) la.toNat [.zone s.nextId] hready
      simp only [issued, if_neg hl] at hs
      exact congrArg Strand.pc hs
    · rw [decide_eq_false hla]
      exact hmem

/-! ## COPY.WAIT (14 R331) -/

theorem exec_copyWait (hj : ∀ j ∈ s.copyJobs, j.appender ≠ some s.cur) (hh : ∀ h ∈ s.hookReqs, h.requester ≠ .append s.cur)
    (hr : ∀ r ∈ (ownCore s).ranges, r.zone = true → r.strand ≠ s.cur.num) :
    exec (.copyWait la) s = .next (ran (.copyWait la) la.toNat [] s) := by
  have hidle : ¬copiesBusy s s.cur s.nextId = true := by
    rw [Bool.not_eq_true, copiesBusy, Bool.or_eq_false_iff, Bool.or_eq_false_iff]
    refine ⟨⟨List.any_eq_false.2 fun j hm => ?_, List.any_eq_false.2 fun h hm => ?_⟩, List.any_eq_false.2 fun r hm => ?_⟩
    · simp [hj j hm]
    · simp [hh h hm]
    · simp only [Bool.and_eq_true, beq_iff_eq]
      exact fun ⟨⟨hz, hk⟩, _⟩ => hr r hm hz hk
  exact run_results (body := copyWaitBody) hp (Act.gives_bind (Act.gives_get s) (Act.gives_ite_neg hidle (Act.gives_pure _ s))) rfl

omit hp in
theorem calm_copiesAgain (k : StrandId) (s : State) : Calm s (copiesAgain k s) := by
  unfold copiesAgain
  split
  · exact Calm.refl s
  · exact (quiet_post _ _ _).calm

theorem exec_copyWait_busy (hb : copiesBusy s s.cur s.nextId = true) :
    exec (.copyWait la) s = .next (stays (.copyWait la) la.toNat (.copies s.nextId) (copiesAgain s.cur s)) := by
  obtain ⟨hpt, hct, -⟩ := (calm_copiesAgain s.cur s).plain hp
  have hbody : (copyWaitBody (own s)).gives s { lasts := some (.copies s.nextId) } (copiesAgain s.cur s) :=
    Act.gives_bind (Act.gives_get s) (Act.gives_ite_pos hb (Act.gives_bind (Act.gives_modify _ s) (Act.gives_pure _ _)))
  exact issue_lasts (body := copyWaitBody) (plain_facts hp).view hbody hpt hct rfl rfl rfl fun q hq => by rw [Pending.lasts, hq]

end

/-! ## Claim words (14 R339, R340) -/

section
variable {s : State} (hp : plain s = true) {p : BitVec 3}

/-- The claim word at P⟨p⟩, as it is read. -/
def claimAt (s : State) (p : BitVec 3) : Nat := (ownCore s).scratch.nat (((own s).ptr p).base.toNat - scratchBase) 4
/-- The machine with that claim word written. -/
def claimed (s : State) (p : BitVec 3) (v : Nat) : State :=
  scratchStore s.cur.core ((toBytes 4 v).zipIdx.map fun b => (((own s).ptr p).base.toNat - scratchBase + b.2, b.1)) s

/-- P⟨p⟩ names a claim word that may be read: aligned, in the own scratchpad, at no horizon and in no range, and not poisoned. -/
structure Claimable (s : State) (p : BitVec 3) : Prop where
  acquired : acquired s s.cur = true
  inScratch : inScratch ((own s).ptr p).base 4 = true
  aligned : ((own s).ptr p).base.toNat % 4 = 0
  horizon : hitsHorizon s s.cur.core (((own s).ptr p).base.toNat - scratchBase) 4 = false
  ranges : overlaps (ownCore s) (((own s).ptr p).base.toNat - scratchBase) 4 = false
  good : scratchBad (ownCore s) (((own s).ptr p).base.toNat - scratchBase) 4 = false

variable (hw : Claimable s p)
include hw

theorem claimWord_reads :
    (claimWord p (own s)).gives s (((own s).ptr p).base.toNat - scratchBase, claimAt s p) s := by
  refine Act.gives_bind (Act.gives_get s) (Act.gives_bind (awaitAcquire_done hw.acquired) (Act.gives_bind (Act.gives_get s) ?_))
  refine Act.gives_ite_neg (by simp [hw.inScratch]) (Act.gives_ite_neg (by simp [hw.aligned]) ?_)
  exact Act.gives_ite_neg (ne_true_of_eq_false hw.horizon) (Act.gives_ite_neg (ne_true_of_eq_false hw.ranges)
    (Act.gives_ite_neg (ne_true_of_eq_false hw.good) (Act.gives_pure _ s)))

include hp

theorem exec_mtrxSclaim {i : Nat} (hi : (List.range 32).find? (fun i => !(claimAt s p).testBit i) = some i) :
    exec (.mtrxSclaim p) s = .next (ran (.mtrxSclaim p) 0 [.a (setLane64 (own s).a 0 (BitVec.ofNat 64 i))]
      (claimed s p (claimAt s p + 2 ^ i))) := by
  refine run_completes hp (calm_scratchStore _ _ s) (Act.gives_bind (claimWord_reads hw) ?_) rfl
  dsimp only
  rw [hi]
  exact Act.gives_bind (Act.gives_modify _ s) (Act.gives_pure _ _)

theorem exec_mtrxSclaim_none (hi : (List.range 32).find? (fun i => !(claimAt s p).testBit i) = none) :
    exec (.mtrxSclaim p) s = .next (ran (.mtrxSclaim p) 0 [.a (setLane64 (own s).a 0 (-1))] s) := by
  refine run_results hp (Act.gives_bind (claimWord_reads hw) ?_) rfl
  dsimp only
  rw [hi]
  exact Act.gives_pure _ s

theorem exec_mtrxSrel (b : BitVec 5) :
    exec (.mtrxSrel b p) s = .next (ran (.mtrxSrel b p) 0 [] (claimed s p
      (if (claimAt s p).testBit b.toNat then claimAt s p - 2 ^ b.toNat else claimAt s p))) :=
  run_completes hp (calm_scratchStore _ _ s) (Act.gives_bind (claimWord_reads hw)
    (Act.gives_bind (Act.gives_modify _ s) (Act.gives_pure _ _))) rfl
end

/-! ## The unit's state (14 R340, R341) -/

section
variable {s : State} (hp : plain s = true)
include hp

theorem exec_mtrxWait (hs : (ownCore s).stop = false) (hb : matrixBusy (ownCore s) = false) :
    exec .mtrxWait s = .next (ran .mtrxWait 0 [] s) :=
  run_results hp (Act.gives_bind (Act.gives_get s) (Act.gives_ite_neg (ne_true_of_eq_false hs)
    (Act.gives_ite_neg (ne_true_of_eq_false hb) (Act.gives_pure _ s)))) rfl

theorem exec_mtrxStat :
    exec (.mtrxStat false) s = .next (ran (.mtrxStat false) 0 [.a (setLane64 (own s).a 0 (mstat (ownCore s)))] s) :=
  run_results hp (Act.gives_bind (Act.gives_get s) (Act.gives_pure _ s)) rfl

theorem exec_mtrxStat_clear :
    exec (.mtrxStat true) s = .next (ran (.mtrxStat true) 0 [.a (setLane64 (own s).a 0 (mstat (ownCore s)))]
      (s.setCore s.cur.core { ownCore s with mflags := 0, mbound := false })) :=
  run_completes hp (calm_setCore s _ _) (Act.gives_bind (Act.gives_get s)
    (Act.gives_bind (Act.gives_modify _ s) (Act.gives_pure _ _))) rfl

theorem exec_mtrxSeal :
    exec .mtrxSeal s = .next (ran .mtrxSeal 0
      [.a (setBits (own s).a 480 32 (crc32 ((stripBytes (own s).a).take 60)).toNat)] s) :=
  run_results (body := sealBody) hp (Act.gives_pure _ s) rfl

omit hp in
theorem steady_restart (k : StrandId) (c : CoreId) (y : Core) (d : Bool) (s : State) :
    Steady k s (matrixNext c (if d then commandsGone c (s.setCore c y) else s.setCore c y)) := by
  refine Steady.trans ?_ (steady_matrixNext k c _)
  split
  · exact ((calm_setCore s c y).trans (calm_commandsGone c _)).steady k
  · exact (calm_setCore s c y).steady k

theorem exec_mtrxCont (d : Bool) :
    exec (.mtrxCont d) s = .next (ran (.mtrxCont d) 0 [] (if (ownCore s).stop then
      let u := s.setCore s.cur.core
        { ownCore s with stop := false, mcause := 0, cmdq := if d then [] else (ownCore s).cmdq }
      matrixNext s.cur.core (if d then commandsGone s.cur.core u else u)
    else s)) := by
  refine run_steady_completes hp ?_ (Act.gives_bind (Act.gives_modify _ s) (Act.gives_pure _ _)) rfl
  split
  · exact steady_restart _ _ _ _ s
  · exact Steady.refl _ s

/-! ## Pushes of the command window (14 R338) -/

section
variable {o : MemOps} (hm : memOk o (own s) (coveredOn o (own s)) = true) (hpush : pushes o (own s) = true)
  (ha : acquired s s.cur = true)
include hm hpush ha

theorem exec_sta_push (hq : queueFull s s.cur.core = false) :
    exec (.sta o) s = .next (ran (.sta o) o.la.toNat (memBump o (own s))
      (matrixPush s.cur (BitVec.ofNat 512 (own s).a.toNat) s)) := by
  refine run_steady_completes hp (steady_matrixPush _ _ _ s) ?_ (bump_simple _ _ _)
  refine Act.gives_bind (Act.gives_get s) (Act.gives_bind (gives_memCheck hm s) (Act.gives_ite_pos hpush ?_))
  refine Act.gives_bind (awaitAcquire_done ha) (Act.gives_bind (Act.gives_get s) (Act.gives_ite_neg (ne_true_of_eq_false hq) ?_))
  exact Act.gives_bind (Act.gives_modify _ s) (Act.gives_pure _ _)

theorem exec_sta_push_full (hq : queueFull s s.cur.core = true) :
    exec (.sta o) s = .next (stays (.sta o) o.la.toNat
      (.pushes (commandOf s.cur (BitVec.ofNat 512 (own s).a.toNat) s) (memBump o (own s))) s.fresh.2) := by
  obtain ⟨hpt, hct, -⟩ := Calm.plain (t := s.fresh.2) ⟨rfl, rfl⟩ hp
  have hbody : (staBody o (own s)).gives s
      { ws := memBump o (own s)
        lasts := some (.pushes (commandOf s.cur (BitVec.ofNat 512 (own s).a.toNat) s) (memBump o (own s))) } s.fresh.2 := by
    refine Act.gives_bind (Act.gives_get s) (Act.gives_bind (gives_memCheck hm s) (Act.gives_ite_pos hpush ?_))
    refine Act.gives_bind (awaitAcquire_done ha) (Act.gives_bind (Act.gives_get s) (Act.gives_ite_pos hq ?_))
    exact Act.gives_bind (Act.gives_modify _ s) (Act.gives_pure _ _)
  exact issue_lasts (plain_facts hp).view hbody hpt hct rfl rfl rfl fun q hq => by rw [Pending.lasts, hq]
end
end

/-- Settles O39: APPEND's checks change no strand, EXPECT's zone is armed at its commit, and the rest are one case of their bodies
each; CONT and a push may start commands (`Steady`). -/
theorem enginesComplete : Obligations.EnginesComplete := by
  intro s la p hp
  refine ⟨fun place hdr l leaves t t' u v ha hpl hbuf hhdr hres hlv hfree => exec_copyAppend hp la ha hpl hbuf hhdr hres hlv hfree,
    fun hi hn ho hr => exec_copyExpect hp la hi hn ho hr, fun hj hh hr => exec_copyWait hp la hj hh hr,
    fun hb => exec_copyWait_busy hp la hb, fun ha hi hal hh hr hg => ?_, fun hs hb => exec_mtrxWait hp hs hb,
    ⟨exec_mtrxStat hp, exec_mtrxStat_clear hp⟩, exec_mtrxSeal hp, exec_mtrxCont hp, fun o hm hpush ha => ?_⟩
  · have hw : Claimable s p := ⟨ha, hi, hal, hh, hr, hg⟩
    exact ⟨fun i h => exec_mtrxSclaim hp hw h, fun h => exec_mtrxSclaim_none hp hw h, exec_mtrxSrel hp hw⟩
  · exact ⟨exec_sta_push hp hm hpush ha, exec_sta_push_full hp hm hpush ha⟩

end Sys2Proof.Machine
end

section
/-!
PROOFS. CopyLaws.lean: a slot that is read, a packet that is performed and one that completes, each where its checks pass (O59).
-/
namespace Sys2Proof.Machine

/-! ## Reading a slot (14 R327, R328) -/

/-- An engine with room looks at a queue whose consumer it is: the header is had, and the slot holds a good record. -/
theorem readCopySlot_accepts {tenant n : Nat} {s u v : State} {pl p : Place} {h : Header} (hc : (queueAt s tenant n).consumer ≠ 0)
    (hp : (queueAt s tenant n).parked = none) (hl : engineLoad s (queueAt s tenant n) < 8)
    (hh : headerAt (queueAt s tenant n).panel tenant (queueAt s tenant n).header s = (.ok (pl, h), u))
    (hpub : (queueAt s tenant n).nextSlot < h.pub) :
    let q := queueAt s tenant n
    let u := copyReadSync tenant n pl h.read u
    let va := (h.base + q.nextSlot % h.cap * 64) % 2 ^ 64
    let t := countLine q.panel va p v
    let w := ofRecBytes (placeRead t p 64)
    (h.read = q.nextSlot ∨ slotWaits u pl (toBytes 8 q.nextSlot) = false) →
    engineLine { panel := q.panel, n := q.consumer - 1, own := none, d := tenantDomain u tenant } .read va 64 u = (.ok p, v) →
    recordOk w = true → copyBadField w q.nextSlot = none →
    readCopySlot tenant n s = consumeCopy tenant n (acceptPacket tenant n q.nextSlot va q w t) := by
  dsimp only
  intro hw he hr hb
  have hlooks : ¬(decide ((queueAt s tenant n).consumer = 0) || (queueAt s tenant n).parked.isSome ||
      decide (8 ≤ engineLoad s (queueAt s tenant n))) = true := by simp [hc, hp, Nat.not_le.2 hl]
  have hgoes : ¬(slotWaits (copyReadSync tenant n pl h.read u) pl (toBytes 8 (queueAt s tenant n).nextSlot) &&
      h.read != (queueAt s tenant n).nextSlot) = true := by
    rcases hw with hw | hw <;> simp [hw]
  unfold readCopySlot
  refine (if_neg hlooks).trans ?_
  rw [hh]
  refine (if_neg hgoes).trans ((if_neg (Nat.not_le.2 hpub)).trans ?_)
  dsimp only
  rw [he]
  dsimp only
  rw [hr, hb]
  exact if_neg Bool.false_ne_true

/-! ## Performing a packet (14 R332–R335) -/

/-- A packet at its turn, with its status word's place had and its plan good: its data is moved. -/
theorem performPacket_moves {id : Nat} {plan : CopyJob → State → Except Nat CopyPlan} {s u v : State} {j k : CopyJob} {p : CopyPlan}
    {src dst : List Run} (hj : findId CopyJob.id s.copyJobs id = some j) (hs : j.stage = 0) (hb : j.bursts = 0)
    (hk : checkStat (checkCobj s j) s = (.ok k, u)) (hr : k.reason = 0) (hp : plan k u = .ok p) (hreach : planReached u p = true)
    (hruns : planRuns k p u = (.ok (src, dst), v)) (hstop : planStops v k p src dst = none)
    (hzone : runZoned v src.flatten = false) : performPacket id plan s = movePacket k p src dst v := by
  have hturn : ¬(j.stage != 0 || j.bursts != 0) = true := by simp [hs, hb]
  unfold performPacket
  rw [hj]
  refine (if_neg hturn).trans ?_
  rw [hk]
  refine (if_neg (by simp [hr])).trans ?_
  rw [hp]
  refine (if_neg (by simp [hreach])).trans ?_
  rw [hruns]
  simp only [hstop, hzone, Bool.false_eq_true, if_false]

/-! ## Completing a packet (14 R336) -/

/-- A packet whose writes are done, and whose completion is not held, is closed. -/
theorem completePacket_closes {id : Nat} {s r : State} {i j : CopyJob} (hi : findId CopyJob.id s.copyJobs id = some i)
    (hs : i.stage = 2 ∨ i.stage = 3) (hb : packetBusy s id = false) (hp : statusPlaced i s = (some j, r))
    (hh : completionHeld r j = false) : completePacket id s = closePacket j r := by
  have hdone : ¬((i.stage != 2 && i.stage != 3) || packetBusy s id) = true := by
    rcases hs with hs | hs <;> simp [hs, hb]
  unfold completePacket
  rw [hi]
  refine (if_neg hdone).trans ?_
  rw [hp]
  exact if_neg (ne_true_of_eq_false hh)

/-- Settles O59: each event is its function at the packet or the queue that it names. -/
theorem copyEvents : Obligations.CopyEvents := by
  intro s
  refine ⟨fun pl h u p v hc hp hl hh hpub hw he hr hb =>
    congrArg Host.Outcome.next (readCopySlot_accepts hc hp hl hh hpub hw he hr hb), ?_, ?_⟩
  · intro i plan hi j k p src dst u v hj hs hb hk hr hp hreach hruns hstop hzone
    have hmoves : event (fun e s => performPacket e.id plan s) s = .next (movePacket k p src dst v) := congrArg Host.Outcome.next
      (performPacket_moves hj hs hb hk hr hp hreach hruns hstop hzone)
    rcases hi with ⟨rfl, rfl⟩ | ⟨rfl, rfl⟩ | ⟨rfl, rfl⟩ | ⟨rfl, rfl⟩ | ⟨rfl, rfl⟩ | ⟨rfl, rfl⟩ <;> exact hmoves
  · intro i j r hi hs hb hp hh
    exact congrArg Host.Outcome.next (completePacket_closes hi hs hb hp hh)

end Sys2Proof.Machine
end

section
/-!
PROOFS. MatrixLaws.lean: matrix commands whose tiles and operands are good, and the landing of MROT (O60).
-/
namespace Sys2Proof.Machine

/-! ## Bodies of commands -/

/-- The body succeeds in s with a value, and leaves t. -/
def UAct.gives {α : Type} (m : UAct α) (s : State) (v : α) (t : State) : Prop := m.run s = (.ok v, t)

theorem UAct.gives_get (s : State) : UAct.gives (get : UAct State) s s s := rfl
theorem UAct.gives_pure {α : Type} (v : α) (s : State) : UAct.gives (pure v) s v s := rfl
theorem UAct.gives_modify (f : State → State) (s : State) : UAct.gives (modify f) s () (f s) := rfl
theorem UAct.gives_set (s t : State) : UAct.gives (set t) s PUnit.unit t := rfl

theorem UAct.gives_bind {α β : Type} {m : UAct α} {f : α → UAct β} {s t u : State} {v : α} {w : β} (h : UAct.gives m s v t)
    (g : UAct.gives (f v) t w u) : UAct.gives (m >>= f) s w u := by
  unfold UAct.gives at *
  show ExceptT.run (ExceptT.bind m f) s = _
  simp only [ExceptT.run, ExceptT.bind, ExceptT.mk, bind, StateT.bind] at *
  rw [h]
  exact g

theorem UAct.gives_ite_neg {α : Type} {c : Prop} [Decidable c] {m n : UAct α} {s t : State} {a : α} (h : ¬c)
    (g : UAct.gives n s a t) : UAct.gives (if c then m else n) s a t := by
  rwa [if_neg h]

/-- A step that only some commands take, and that leaves what follows to go on. -/
theorem UAct.gives_when {α : Type} {c : Prop} [Decidable c] {m n : UAct α} {s t : State} {a : α}
    (hm : c → UAct.gives n s a t → UAct.gives m s a t) (hn : UAct.gives n s a t) : UAct.gives (if c then m else n) s a t := by
  split
  · next h => exact hm h hn
  · exact hn

/-! ## Tiles (14 R344, 05 R131) -/

/-- No tile of the core has a cell that is bad, or that its check bits disagree with. -/
def TilesClean (x : Core) : Prop := x.tileBad = [] ∧ ∀ q ∈ x.tiles, cellOk q.2 = true

theorem tileRead_clean {s : State} {c : CoreId} (h : TilesClean (s.core c)) (tile rows cols : Nat) :
    UAct.gives (tileRead c tile rows cols) s () s := by
  obtain ⟨hbad, hcells⟩ := h
  refine UAct.gives_bind (UAct.gives_get s) (UAct.gives_ite_neg ?_ (UAct.gives_pure () s))
  rw [hbad]
  simp only [List.any_nil, Bool.false_or, List.any_eq_true, Bool.and_eq_true, not_exists, not_and]
  exact fun q hq _ hc => by simp [hcells q hq] at hc

/-! ## A command at its turn -/

section
variable {s : State} {c : CoreId} {m : Command} (ha : (s.core c).active = some m)
include ha

section
variable (hm : (s.core c).mparked = none)
include hm

/-- A command whose body succeeds is done. -/
theorem performCommand_done {op : Nat} {body : Unit_ → UAct Unit} {t : State} (ho : cmdOpc m.word = op)
    (hb : UAct.gives (body { c := c, m := m }) s () t) : performCommand op body c s = commandDone c t := by
  have hturn : ¬(cmdOpc m.word != op || (s.core c).mparked.isSome) = true := by simp [ho, hm]
  have hrun : (body { c := c, m := m }).run s = (.ok (), t) := hb
  unfold performCommand
  simp only [ha]
  refine (if_neg hturn).trans ?_
  rw [hrun]

theorem performCommand_zero (ho : cmdOpc m.word = 5) :
    performCommand 5 zeroCmd c s = commandDone c (tileWrite c (cmdTd m.word) (fun _ _ => 0) s) :=
  performCommand_done ha hm ho (UAct.gives_modify _ s)

theorem performCommand_move (hc : TilesClean (s.core c)) (ho : cmdOpc m.word = 6) :
    performCommand 6 moveCmd c s = commandDone c (tileWrite c (cmdTd m.word) (fun i j => if cmdOf m.word 0
      then cellAt (s.core c) (cmdTs m.word) j i else cellAt (s.core c) (cmdTs m.word) i j) s) :=
  performCommand_done ha hm ho (UAct.gives_bind (tileRead_clean hc _ _ _)
    (UAct.gives_bind (UAct.gives_get s) (UAct.gives_modify _ s)))

theorem performCommand_mark (ho : cmdOpc m.word = 8) :
    let t := s.setCore c { s.core c with markv := BitVec.ofNat 16 (recBits m.word 208 16) }
    performCommand 8 markCmd c s = commandDone c (if cmdOf m.word 0
      then signalCounter (cmdSobj m.word) (BitVec.ofNat 32 (recBits m.word 352 32)) t else t) :=
  performCommand_done ha hm ho (UAct.gives_modify _ s)

theorem performCommand_scale (hc : TilesClean (s.core c)) (ho : cmdOpc m.word = 7)
    (h0 : cmdOf m.word 0 = true → slotBad (s.core c) (cmdSa m.word) 256 = false)
    (h1 : cmdOf m.word 1 = true → slotBad (s.core c) (cmdSb m.word) 256 = false) :
    let w := m.word
    let x := s.core c
    let one : Sys2Proof.Machine.Num := .fin false 1 0
    let cell := fun (i j : Nat) => scaleCell (w34.decode (cellAt x (cmdTs w) i j)) (f32.decode (recBits w 352 32))
      (if cmdOf w 0 then slotF32 x (cmdSa w) i else one) (if cmdOf w 1 then slotF32 x (cmdSb w) j else one)
      (f32.decode (recBits w 320 32))
    performCommand 7 scaleCmd c s = commandDone c (unitFlags c (orFlags (fun q => (cell (q / 64) (q % 64)).2) 4096)
      (tileWrite c (cmdTd w) (fun i j => (cell i j).1) s)) := by
  have hgood : ¬((cmdOf m.word 0 && slotBad (s.core c) (cmdSa m.word) 256) ||
      (cmdOf m.word 1 && slotBad (s.core c) (cmdSb m.word) 256)) = true := by
    rw [Bool.or_eq_true, Bool.and_eq_true, Bool.and_eq_true]
    rintro (⟨hf, hb⟩ | ⟨hf, hb⟩)
    · exact Bool.false_ne_true ((h0 hf).symm.trans hb)
    · exact Bool.false_ne_true ((h1 hf).symm.trans hb)
  exact performCommand_done ha hm ho (UAct.gives_bind (tileRead_clean hc _ _ _)
    (UAct.gives_bind (UAct.gives_get s) (UAct.gives_ite_neg hgood (UAct.gives_modify _ s))))
end

/-! ## MMA (09 R213–R215; 04 R112) -/

/-- The cycles of an array start that fall in this microsecond. -/
def arrayNowOf (s : State) (c : CoreId) (n : Nat) : Nat :=
  if (s.core c).arrayLeft = 0 then min n (coreRate s c - (s.core c).arrayNow) else 0

/-- The core with an array start of n cycles counted. -/
def arrayCore (s : State) (c : CoreId) (n : Nat) : Core :=
  { s.core c with arrayLeft := (s.core c).arrayLeft + (n - arrayNowOf s c n), arrayNow := (s.core c).arrayNow + arrayNowOf s c n }

/-- The machine with an array start of n cycles counted, at its core and at its panel's ramp limiter. -/
def arrayStarted (s : State) (c : CoreId) (n : Nat) : State :=
  let p := s.panel c.panel
  (s.setPanel c.panel { p with rampBalance := p.rampBalance - n, rampNow := p.rampNow + arrayNowOf s c n }).setCore c
    (arrayCore s c n)

omit ha in
theorem rampStart_starts (hr : 1 ≤ (s.panel c.panel).rampBalance) (n : Nat) :
    UAct.gives (rampStart { c := c, m := m } n) s () (arrayStarted s c n) :=
  UAct.gives_bind (UAct.gives_get s) (UAct.gives_ite_neg (by simpa using hr) (UAct.gives_set s _))

theorem arrayStarted_core (n : Nat) : (arrayStarted s c n).core c = arrayCore s c n :=
  Table.get_set_self _ s.cores c fun e => Option.some_ne_none m (ha.symm.trans (congrArg Core.active e))

theorem mmaCmd_accumulates (hr : 1 ≤ (s.panel c.panel).rampBalance)
    (h1 : slotBad (s.core c) (cmdSa m.word) (operandBytes (cmdFa m.word) (32 * cmdKc m.word)) = false)
    (h2 : slotBad (s.core c) (cmdSb m.word) (operandBytes (cmdFb m.word) (32 * cmdKc m.word)) = false)
    (hc : cmdOf m.word 0 = false → TilesClean (s.core c)) :
    let w := m.word
    let x := s.core c
    let k := 32 * cmdKc w
    let t := arrayStarted s c (arrayCycles (cmdFa w) (cmdFb w) k)
    let a := (List.range 64).map (operandLine x (cmdSa w) (cmdFa w) k)
    let b := (List.range 64).map (operandLine x (cmdSb w) (cmdFb w) k)
    let cell := fun (i j : Nat) => accumulate (cmdKc w) (a.getD i []) (b.getD j [])
      (if cmdOf w 0 then 0 else cellAt x (cmdTd w) i j, 0)
    UAct.gives (mmaCmd { c := c, m := m }) s () (unitFlags c (orFlags (fun q => (cell (q / 64) (q % 64)).2) 4096)
      (tileWrite c (cmdTd w) (fun i j => (cell i j).1) t)) := by
  intro w x k t a b cell
  have hcore : t.core c = arrayCore s c (arrayCycles (cmdFa w) (cmdFb w) k) := arrayStarted_core ha _
  have hgood : ¬(slotBad (t.core c) (cmdSa w) (operandBytes (cmdFa w) k) ||
      slotBad (t.core c) (cmdSb w) (operandBytes (cmdFb w) k)) = true := by
    rw [hcore, Bool.or_eq_true]
    rintro (hb | hb)
    · exact Bool.false_ne_true (h1.symm.trans hb)
    · exact Bool.false_ne_true (h2.symm.trans hb)
  refine UAct.gives_bind (rampStart_starts hr _) (UAct.gives_bind (UAct.gives_get t) (UAct.gives_ite_neg hgood ?_))
  refine UAct.gives_when (fun hf hend => UAct.gives_bind (tileRead_clean ?_ _ _ _) hend) ?_
  · rw [hcore]
    exact hc (by simpa using hf)
  · rw [hcore]
    exact UAct.gives_modify _ t

/-! ## MROT (14 R348) -/

section
variable (hr : (s.rotations.any fun r => r.fromCore == c) = false) (ho : cmdOpc m.word = 3)
include hr ho

/-- A rotation that is not on its way starts. -/
theorem rotateCommand_starts : rotateCommand c s = startRotation { c := c, m := m } s := by
  have hturn : ¬(cmdOpc m.word != 3 || s.rotations.any fun r => r.fromCore == c) = true := by simp [ho, hr]
  unfold rotateCommand
  simp only [ha]
  exact if_neg hturn

/-- Within its core a slot is copied. -/
theorem rotateCommand_copies (hd : mkCore c.panel (recBits m.word 48 8) = c) :
    rotateCommand c s = commandDone c
      (match (if cmdOf m.word 0 then some (cmdSobj m.word) else none : Option Nat) with
        | some o => signalCounter o 1 (slotWrite c (cmdSb m.word) (slotWhole (s.core c) (cmdSa m.word)) s)
        | none => slotWrite c (cmdSb m.word) (slotWhole (s.core c) (cmdSa m.word)) s) := by
  rw [rotateCommand_starts ha hr ho]
  exact if_pos hd

/-- To another core a landing is on its way. -/
theorem rotateCommand_sends (hd : mkCore c.panel (recBits m.word 48 8) ≠ c)
    (hl : rotationLost s (mkCore c.panel (recBits m.word 48 8)) m.domain = false) :
    rotateCommand c s = ({ s with
      nextId := s.nextId + 1
      rotations := s.rotations ++ [{ id := s.nextId, fromCore := c, target := mkCore c.panel (recBits m.word 48 8)
                                     slot := cmdSb m.word
                                     bytes := Memory.setBytes [] 0 ((slotWhole (s.core c) (cmdSa m.word)).map Prod.fst)
                                     poison := (List.range 256).filter fun q =>
                                       (s.core c).operandPoison.contains (cmdSa m.word * 256 + q)
                                     signal := if cmdOf m.word 0 then some (cmdSobj m.word) else none
                                     domain := m.domain }] } : State).post .mrotLanding { id := s.nextId } := by
  rw [rotateCommand_starts ha hr ho]
  exact (if_neg hd).trans (if_neg (ne_true_of_eq_false hl))
end

/-- A landing at a core of its domain completes the MROT that sent it. -/
theorem rotationArrive_lands {id : Nat} {r : Rotation} (ho : cmdOpc m.word = 3)
    (hf : findId Rotation.id s.rotations id = some r) (hc : r.fromCore = c) (hl : rotationLost s r.target r.domain = false)
    (hd : (s.core r.target).domain = r.domain) (hi : (s.core r.target).status ≠ .idle) (hq : (s.core r.target).status ≠ .quiet) :
    let u := slotWrite r.target r.slot ((r.bytes.bytes 0 8192).mapIdx fun i b => (b, r.poison.contains (i / 32)))
      { s with rotations := dropId Rotation.id s.rotations id }
    rotationArrive id s = commandDone c (stopCheck r.target (match r.signal with
      | some o => signalCounter o 1 u
      | none => u)) := by
  have hunit : rotationUnit s r = some { c := c, m := m } := by
    unfold rotationUnit
    rw [hc]
    simp only [ha]
    exact if_pos (by simp [ho])
  have htaken : ¬((s.core r.target).domain != r.domain || (s.core r.target).status == .idle ||
      (s.core r.target).status == .quiet) = true := by simp [hd, hi, hq]
  unfold rotationArrive
  rw [hf]
  refine (if_neg (ne_true_of_eq_false hl)).trans ((if_neg htaken).trans ?_)
  exact hunit ▸ rfl
end

/-- Settles O60: each command's body goes through where its tiles and operands are good, and the command is done. -/
theorem matrixEvents : Obligations.MatrixEvents := by
  intro s m
  dsimp only
  intro ha hm
  refine ⟨fun t hb ho => congrArg Host.Outcome.next (performCommand_done ha hm ho hb),
    fun t hb ho => congrArg Host.Outcome.next (performCommand_done ha hm ho hb),
    fun ho hr h1 h2 hc => congrArg Host.Outcome.next (performCommand_done ha hm ho (mmaCmd_accumulates ha hr h1 h2 hc)),
    fun ho => congrArg Host.Outcome.next (performCommand_zero ha hm ho),
    fun hc ho => congrArg Host.Outcome.next (performCommand_move ha hm hc ho),
    fun hc ho h0 h1 => congrArg Host.Outcome.next (performCommand_scale ha hm hc ho h0 h1),
    fun ho => congrArg Host.Outcome.next (performCommand_mark ha hm ho),
    fun ho hr => ⟨fun hd => congrArg Host.Outcome.next (rotateCommand_copies ha hr ho hd),
      fun hd hl => congrArg Host.Outcome.next (rotateCommand_sends ha hr ho hd hl)⟩,
    fun r hf hc _ ho hl hd hi hq => congrArg Host.Outcome.next (rotationArrive_lands ha ho hf hc hl hd hi hq)⟩

end Sys2Proof.Machine
end
